-- ==== Sys2Proof/Word.lean ====
section
/-! DEFINITION. The words of the machine: bytes, 64-bit register words, and the plain arithmetic on them. -/

namespace Sys2Proof

/-- One byte of memory. -/
abbrev Byte := BitVec 8

/-- A setup register, a descriptor word or an instruction word (R4: little-endian in memory). -/
abbrev Word := BitVec 64

end Sys2Proof
end

