-- ==== Sys2Proof/Syntax.lean ====
section
/-! DEFINITION. The commands of the block: one constructor per row of the command table, and the operand types.
The table gives no operands; each constructor carries what the cited rule gives the event (which ring, which
op, which register write, what a read returned, what a sensor measured, what a checker found). -/

namespace Sys2Proof

/-- A compute die (R31). -/
inductive Die where
  | c0
  | c1
  deriving DecidableEq, Repr

/-- A write to one setup register (R185): 8 bytes, or its lower or upper 4 bytes. -/
inductive RegAccess where
  | wide (v : Word)
  | low (v : BitVec 32)
  | high (v : BitVec 32)
  deriving DecidableEq, Repr

/-- How a host read fails (R190, R225), in the code order of R222 byte 36. -/
inductive HostFail where
  | unsupportedRequest
  | completerAbort
  | poisoned
  | timeout
  deriving DecidableEq, Repr

/-- What a read of host memory returned. -/
inductive HostRead where
  | data (bytes : List Byte)
  | failed (how : HostFail)
  deriving DecidableEq, Repr

/-- What a duplicated unit found (R297, R298): agreement, a disagreement outvoted by the third unit (its die, and the number of
times), or no two that agree. -/
inductive UnitVote where
  | agree
  | masked (die : Die) (n : Nat)
  | mismatch
  deriving DecidableEq, Repr

/-- A word of the scalar unit as it issues, with what its duplicate found under FULL (R142, R297). -/
structure ScalarIssue where
  word : Word
  vote : UnitVote
  deriving DecidableEq, Repr

/-- A COLL as it starts, with what the adders found in the widenings and folds made then (R276, R298). -/
structure CollStart where
  op    : Nat
  votes : List UnitVote
  deriving DecidableEq, Repr

/-- A fault of the plate in one tile of a run of a pass (R291, R294): row of the block, result column of the slice, and the
change `e` it makes to the tile's tree integer, in tree units (in 16-bit mode, in window units of R71). -/
structure TileFault where
  row : Nat
  col : Nat
  e   : Int
  deriving DecidableEq, Repr

/-- What the duplicated units of both dies found in one event of an operation (R295, R296): rows or folds outvoted by the
third unit on C0 and on C1, and the die on which no two units agreed, if there was one. -/
structure DieVotes where
  c0   : Nat
  c1   : Nat
  lost : Option Die
  deriving DecidableEq, Repr

/-- Faults of a pass's two runs; the one of a MATMUL that runs once is `p` (R291, R299). -/
structure PassFaults where
  p : List TileFault
  d : List TileFault
  deriving DecidableEq, Repr

/-- What the third run of a voted pass met: faults of its tiles, and votes of its folds (R296, R300). -/
structure VotePass where
  tiles : List TileFault
  folds : DieVotes
  deriving DecidableEq, Repr

/-- What the scrubber's read of a word or burst found (R308). -/
inductive ScrubFind where
  | clean
  | correctable
  | uncorrectable
  deriving DecidableEq, Repr

/-- The failure that ends start-up (R403), with its unit. -/
inductive StartFail where
  | pll
  | link (l : Fin 3)
  | sram (mem : BitVec 8)
  | stack (h : Fin 20)
  deriving DecidableEq, Repr

/-- What start-up steps 3 to 9 of R402 met: a failure or none, the repairs made, the frames of HBM rows whose
spares are exhausted, L_85 and the light-load power of each class in mW, and the times of READY. -/
structure StartRun where
  fail          : Option StartFail
  lanesRepaired : BitVec 8
  rowsRepaired  : BitVec 8
  sramRemaps    : BitVec 8
  exhausted     : List Nat
  l85           : Nat
  tableMw       : List Nat
  readyTime     : Word
  readyMs       : BitVec 16
  deriving DecidableEq, Repr

/-- One reading of every temperature sensor (R358, R359), in 1/16 °C: hottest, mean and hottest index of C0, C1
and X, the twenty stacks, and the coolant inlet. -/
structure SensorReading where
  dieMax : List Int
  dieAvg : List Int
  dieIdx : List (BitVec 6)
  hbm    : List Int
  inlet  : Int
  deriving DecidableEq, Repr

/-- The registers a NET_CONFIG_WRITE may name (R264). -/
inductive NetReg where
  | trayCfg
  | ipv6Prefix
  | nptCfg
  deriving DecidableEq, Repr

/-- A firmware operation's request (R378, R386): through MBOX_CMD with its TAG and the MBOX_ARG registers, or
through FW_OP with its arguments and inline data. -/
inductive FwReq where
  | mailbox (tag : BitVec 16)
  | mctp (seq : BitVec 16) (arg0 : Word) (arg1 arg2 : BitVec 32) (data : List Byte)
  deriving DecidableEq, Repr

/-- The transport of an SPDM request (R382). -/
inductive SpdmPath where
  | doe
  | mctp
  deriving DecidableEq, Repr

/-- IDE_KM requests (R384). -/
inductive IdeRequest where
  | query
  | keyProg (rx : Bool) (key : BitVec 256)
  | setGo
  | setStop
  deriving DecidableEq, Repr

/-- What happened while a HANDOVER ran (R391, R392, R394). -/
structure HandoverRun where
  serverTripped : Bool
  ns            : Word
  keysZero      : Bool
  deriving DecidableEq, Repr

/-- A test that failed in a FIELD_TEST (R311, R314): its bit of TEST_SET, the first failing unit, and the die or HBM stack of that
unit. -/
structure TestFail where
  test  : Fin 8
  unit  : BitVec 32
  place : BitVec 8
  deriving DecidableEq, Repr

/-- What a FIELD_TEST found (R311): whether it ended within 2 s, the failing tests with the unit each names, and
its time in ns. -/
structure FieldTestRun where
  inTime : Bool
  failed : List TestFail
  ns     : Word
  deriving DecidableEq, Repr

/-- Why a link went down (R234, R262). -/
inductive LinkCause where
  | signal
  | alignment
  | fec
  deriving DecidableEq, Repr

/-- A received LLDPDU (R237, R241): chassis ID value, port MAC of the sender, time to live, and the label TLV's
information string after OUI and subtype, if one is present. -/
structure Lldpdu where
  chassis : List Byte
  portMac : BitVec 48
  ttl     : BitVec 16
  label   : Option (List Byte)
  deriving DecidableEq, Repr

/-- FEC codewords of a port since the last event that named it (R234): corrected, and uncorrectable. -/
structure Codewords where
  corrected     : Nat
  uncorrectable : Nat
  deriving DecidableEq, Repr

/-- A link that went down (R234): why, and the port's codewords. -/
structure LinkFall where
  cause : LinkCause
  fec   : Codewords
  deriving DecidableEq, Repr

/-- A packet as it arrives at an Ethernet port (R232, R253, R254): the port, the bytes of its frame, whether the frame carries an
802.1Q tag, whether its UDP checksum and its CRC-32C hold, whether its TYPE is a reserved one, and the port's codewords. -/
structure Arrival where
  port     : Fin 24
  size     : Nat
  tagged   : Bool
  intact   : Bool
  reserved : Bool
  fec      : Codewords
  deriving DecidableEq, Repr

/-- What waits on a member under the silence rule of R281: a COLL, or the verdict of a step (R324). -/
inductive Waiter where
  | coll (op : Nat)
  | verdict (step : Nat)
  deriving DecidableEq, Repr

/-- The NPT header fields of R254 that a complete chunk or message carries. -/
structure NptHeader where
  srcNode     : BitVec 32
  dstNode     : BitVec 32
  collId      : BitVec 32
  epoch       : BitVec 32
  chunkIndex  : BitVec 32
  contributor : BitVec 32
  length      : BitVec 16
  ceCount     : BitVec 16
  deriving DecidableEq, Repr

/-- An NPT packet (R254): how it arrived, and its header. -/
structure Packet where
  arrival : Arrival
  header  : NptHeader
  deriving DecidableEq, Repr

/-- A mirror acknowledgement (R336, R337): a cut staged, with whether the partner holds a committed cut for this
node, or a cut committed. -/
inductive MirrorAnswer where
  | staged (holds : Bool)
  | committed
  deriving DecidableEq, Repr

/-- The IEEE 1149.1 instructions of R413, and any other code. -/
inductive JtagInstr where
  | bypass
  | idcode
  | samplePreload
  | extest
  | extestPulse
  | extestTrain
  | clamp
  | highz
  | other (code : Nat)
  deriving DecidableEq, Repr

/-- The commands. -/
inductive Instr where
  /-- R402. Both supplies reach regulation at t0; the module releases MOD_PWRGD, samples the straps, runs the boot ROM and starts Gyton. -/
  | powerOn (tray : BitVec 2) (slot : BitVec 4)
  /-- R402. A stable REFCLK lets the root PLL lock, and start-up continues through link training, SRAM test, Rolrohan boot, HBM training and calibration. -/
  | rootPllLock (run : StartRun)
  /-- R403. No stable REFCLK arrives within 1 s of Gyton starting, so start-up holds with CLOCK_LOST. -/
  | refclkStartTimeout
  /-- R376. A pending image has not reached READY within 10 s of reset; Gyton clears the pending slot and resets the module. -/
  | imageTrialTimeout
  /-- R400. VIN48 stays below 38 V for more than 50 us, or 3V3_AUX leaves regulation, and the module stops as at power-off. -/
  | supplyLoss
  /-- R401. MOD_RESET# is held low for at least 10 us, and the module resets everything except fuses, flash, the identity key and START_TESTS. -/
  | moduleReset
  /-- R401. PERST# or a Hot Reset resets PCIe configuration space and the link, and acts on the function as FLR does. -/
  | pcieConventionalReset
  /-- R405. PCIe link training begins after PERST# deassertion and PLL lock; configuration requests get Request Retry Status until the function is ready. -/
  | pcieLinkTraining
  /-- R183. A function level reset acts as EVACUATE and returns the RINGS block to its reset values. -/
  | flr
  /-- R184. The function enters D3hot; the module stops polling and issues no PCIe request. -/
  | powerStateD3hot
  /-- R184. The function returns to D0; held completion records are written and polling resumes. -/
  | powerStateD0
  /-- R17. Loss of the reference clock or of PLL lock stops the main clocks, moves SCLK to the internal oscillator and brings the PCIe link down. -/
  | refclkLoss
  /-- R310. The two management cores diverge; the module stops and the fixed-function sender reports the fault. -/
  | lockstep
  /-- R389. Every 100 ms the fixed-function sender repeats its preformed LOCKSTEP report. -/
  | lockstepReportRepeat
  /-- R360. A sensor reaches 105 C; THERMTRIP# is asserted, the clocks stop and the module stays stopped until power is cycled. -/
  | thermtrip (part : Fin 36) (temp : BitVec 16)
  /-- R310. A control core's 10 ms watchdog expires; Gyton restarts the core or replaces it, and the commands it served fail with FIRMWARE_FAULT. -/
  | watchdog (core : Fin 8) (served : List Nat) (retire : Bool)
  /-- R11. Too many replays in 1 ms, or a failed retrain, fails an in-package link; commands in flight abort and further heavy commands are refused. -/
  | packageLinkFailed (link : Fin 3)
  /-- R359. The 10 us sensor read updates the temperatures and begins or ends a thermal hold or an HBM stack refusal. -/
  | sensorSample (r : SensorReading)
  /-- R358. Every 1 ms the franking unit corrects each die's theta from the measured steady relation. -/
  | thetaCorrection (c0 c1 x : Nat)
  /-- R348. Every 1 us the franking unit recomputes the standing load P_stand. -/
  | standingLoadUpdate
  /-- R362. A 1 us current and voltage sample; 20 consecutive samples above P_charged start a drift stretch and raise tables. -/
  | powerSample (mw : Nat) (vinMv iin10ma : BitVec 16)
  /-- R364. 20 us after the average falls below its limit, the clamp releases. -/
  | clampRelease
  /-- R363. Every 1 us the governor raises or lowers the stretch fraction s. -/
  | stretchAdjust
  /-- R352. A pending frank request fits all three ledgers and is granted, starting its op. -/
  | frankGrant (req : Nat)
  /-- R353. At least every 10 us, or on a release or model update, denied requests are tried again. -/
  | frankRetry
  /-- R355. A request denied for AGE_US becomes aged and blocks new franks to others. -/
  | frankAged (req : Nat)
  /-- R356. A request still denied after TIMEOUT_MS is withdrawn and its op completes with FRANK_TIMEOUT. -/
  | frankTimeout (req : Nat)
  /-- R357. After 8,000 ACLK without a streamed row, the plate gates its column groups downward and WARM reads 0. -/
  | plateCool
  /-- R308. The scrubber reads a word or burst, corrects it or poisons its block. -/
  | scrubRead (mem : BitVec 8) (addr : Nat) (found : ScrubFind)
  /-- R190. Every DOORBELL_POLL_NS the module issues a read of the doorbell page. -/
  | doorbellPoll
  /-- R192. The poll read returns; the module checks each word and schedules fetches, stops rings or counts failed polls. -/
  | doorbellPollDone (r : HostRead)
  /-- R191. A write to the nudge window starts a poll within 1 us. -/
  | nudge (v : BitVec 32)
  /-- R194. The module reads and copies a command descriptor from a ring once it has room. -/
  | commandFetch (ring : Fin 64) (r : HostRead)
  /-- R195. A write to SQ_SIZE enables or disables a submission ring. -/
  | ringEnable (ring : Fin 64) (a : RegAccess)
  /-- R211. A write to CQ_SIZE enables or disables a completion queue or changes its interrupt moderation. -/
  | cqEnable (q : Fin 64) (a : RegAccess)
  /-- R218. Enabling the event queue lets the module write the events held in its buffer. -/
  | eventQueueEnable (a : RegAccess)
  /-- R212. IRQ_TIME_US passes since the oldest uncovered record, and the CQ's MSI-X vector is sent. -/
  | cqIrqTimer (q : Fin 64)
  /-- R186. An MSI-X vector is unmasked and its pending message is sent. -/
  | msixUnmask (v : Option (Fin 128))
  /-- R187. The host reads device memory through BAR2; a faulting read returns 0xFF bytes and may raise BAR2_FAULT. -/
  | bar2Read (off n : Nat)
  /-- R187. The host writes device memory through BAR2; faulting or refused writes are discarded. -/
  | bar2Write (off : Nat) (bytes : List Byte)
  /-- R206. A host or control-core write sets a semaphore, and waiting WAITs are tested. -/
  | semValueWrite (i : BitVec 16) (v : BitVec 32) (next : Option (BitVec 32))
  /-- R206. A host or control-core write adds to a semaphore, and waiting WAITs are tested. -/
  | semAddWindowWrite (i : BitVec 16) (v : BitVec 32) (next : Option (BitVec 32))
  /-- R96. An 8-byte write sets the job seed and SEED_VALID. -/
  | jobSeedWrite (a : RegAccess)
  /-- R28. Writing 1 to PT_CONTROL.INVALIDATE starts discarding all cached translations. -/
  | ptInvalidate (a : RegAccess)
  /-- R28. The invalidation completes and INVALIDATE_BUSY returns to 0. -/
  | ptInvalidateDone
  /-- R240. Writing TOPOLOGY_GEN latches the topology table and re-evaluates every port, or rejects the table. -/
  | topologyGenWrite (a : RegAccess)
  /-- R264. A write to NODE_ID takes effect at once, sends new labels and reopens every NPT session. -/
  | nodeIdWrite (a : RegAccess)
  /-- R236. A changing write to PORT_CFG takes the port DOWN and retrains it under the new configuration. -/
  | portCfgWrite (port : Fin 24) (a : RegAccess)
  /-- R264. A write to TRAY_CFG.GROUP, IPV6_PREFIX or NPT_CFG takes every affected port DOWN. -/
  | netConfigWrite (r : NetReg) (a : RegAccess)
  /-- R261. RDMA_QP_CONTROL LOAD reads a queue pair context and moves the queue pair from RESET to READY. -/
  | qpLoad (target : BitVec 8) (qp : BitVec 2)
  /-- R261. RDMA_QP_CONTROL RESET discards a queue pair's transport state and writes LAST_PSN and STATE. -/
  | qpReset (target : BitVec 8) (qp : BitVec 2)
  /-- R365. A write of POWER_LIMIT_REQUEST recomputes POWER_LIMIT_ACTIVE and may raise LIMIT_CHANGED. -/
  | powerLimitWrite (a : RegAccess)
  /-- R408. A write to ETH_LOOP starts or ends a loop-back on an Ethernet port and clears its counters. -/
  | ethLoopWrite (port : Fin 24) (a : RegAccess)
  /-- R409. A write to PCIE_LOOP starts a PCIe loop-back of the selected mode. -/
  | pcieLoopWrite (a : RegAccess)
  /-- R409. DURATION_MS expires; the loop ends, the link retrains and results are stored. -/
  | pcieLoopEnd (errors : BitVec 32) (lanes : BitVec 16)
  /-- R410. HBM_TEST START runs a PHY loop or stack test on one stack, or is refused. -/
  | hbmTestStart (a : RegAccess)
  /-- R410. The HBM test ends, results are written and the stack is zeroed. -/
  | hbmTestDone (pass : Bool) (fails firstRow : BitVec 32)
  /-- R229. A write to a setup register with no behaviour of its own updates its fields, or is ignored whole when out of range. -/
  | registerWrite (off : Nat) (a : RegAccess)
  /-- R378. Takes the update lock and erases the inactive slot of the given KIND. -/
  | fwBegin (r : FwReq) (flashOk : Bool)
  /-- R378. Writes image data into the inactive slot. -/
  | fwWrite (r : FwReq) (flashOk : Bool)
  /-- R378. Applies the image acceptance checks to the inactive slot. -/
  | fwVerify (r : FwReq)
  /-- R378. Marks the verified slot pending for the next reset and releases the lock. -/
  | fwActivate (r : FwReq) (flashOk : Bool)
  /-- R378. Clears the staged slot and releases the update lock. -/
  | fwAbort (r : FwReq)
  /-- R377. Blows anti-rollback fuses up to the target value, or is refused. -/
  | fwCommit (r : FwReq)
  /-- R378. The update lock holder sends nothing for 60 s, and the lock is released. -/
  | fwLockTimeout
  /-- R385. The board management controller assigns the MCTP EID, and queued reports start going to it. -/
  | setEndpointId (requester eid : BitVec 8)
  /-- R385. The bus controller assigns an I3C dynamic address, and the module switches from SMBus to I3C. -/
  | i3cAddressAssign (addr : BitVec 7)
  /-- R388. The controller acknowledges reports up to a REPORT_SEQ, and they leave Gyton's queue. -/
  | reportAck (seq : BitVec 32)
  /-- R365. The board controller sets BOARD_CAP, and POWER_LIMIT_ACTIVE is recomputed. -/
  | setBoardCap (seq watts : BitVec 16)
  /-- R386. Returns part, variant, stepping, READY, power, temperatures, step numbers and FW_STATE. -/
  | getStatus (seq : BitVec 16)
  /-- R390. Sets or clears the management Ethernet collector and its interface mode. -/
  | setCollector (seq : BitVec 16) (ip : BitVec 128) (udp : BitVec 16) (iface : BitVec 8)
  /-- R387. An event bound for the management path reaches Gyton's queue and is sent as a FAULT_REPORT. -/
  | faultReport
  /-- R388. Every 100 ms Gyton resends the oldest unacknowledged report. -/
  | reportResend
  /-- R382. SPDM GET_VERSION request answered with version 1.2. -/
  | getVersion (t : SpdmPath)
  /-- R382. SPDM GET_CAPABILITIES request answered with the supported capabilities. -/
  | getCapabilities (t : SpdmPath)
  /-- R382. SPDM NEGOTIATE_ALGORITHMS request selects the supported algorithms. -/
  | negotiateAlgorithms (t : SpdmPath) (offered : BitVec 4)
  /-- R382. SPDM GET_DIGESTS request returns the digest of certificate slot 0. -/
  | getDigests (t : SpdmPath)
  /-- R382. SPDM GET_CERTIFICATE request returns the device certificate chain. -/
  | getCertificate (t : SpdmPath) (slot : BitVec 4) (off len : BitVec 16)
  /-- R382. SPDM CHALLENGE request answered with a signature by the device identity key. -/
  | challenge (t : SpdmPath) (slot : BitVec 4) (nonce : BitVec 256)
  /-- R383. SPDM GET_MEASUREMENTS request returns the measurement blocks at one instant. -/
  | getMeasurements (t : SpdmPath) (index : BitVec 8) (signed : Bool) (nonce : BitVec 256)
  /-- R382. SPDM KEY_EXCHANGE request begins a secured session. -/
  | keyExchange (t : SpdmPath) (body : List Byte)
  /-- R382. SPDM FINISH request completes the session handshake. -/
  | finish (t : SpdmPath) (body : List Byte)
  /-- R382. SPDM END_SESSION request closes the session. -/
  | endSession (t : SpdmPath)
  /-- R382. SPDM HEARTBEAT request keeps a session alive. -/
  | heartbeat (t : SpdmPath)
  /-- R382. SPDM KEY_UPDATE request updates session keys. -/
  | keyUpdate (t : SpdmPath)
  /-- R382. Any other SPDM request is answered with ERROR UnsupportedRequest. -/
  | spdmUnsupportedRequest (t : SpdmPath) (code : BitVec 8)
  /-- R384. IDE_KM over a secured session keys and enables the link IDE stream. -/
  | ideKm (k : IdeRequest)
  /-- R384. A TLP fails its integrity check, is dropped, and the stream moves to Insecure. -/
  | ideFailed
  /-- R198. Runs the linked list of op descriptors starting at FIRST_OP and completes with the combined status. -/
  | opProgram (ring : Fin 64)
  /-- R436. The sequencer reads the next op descriptor into the ready window when it has room, or stops the program on a bad list. -/
  | opTake (ring : Fin 64)
  /-- R227. Copies bytes between host and device memory with optional reshuffling. -/
  | dmaCopy (ring : Fin 64)
  /-- R225. A host read completion returns to a DMA copy; a failed one ends the copy with ADDRESS_FAULT. -/
  | hostReadCompletion (ring : Fin 64) (r : HostRead)
  /-- R320. Opens a step, makes an ordinary boundary, starts a replay, or is refused, and applies layout-epoch actions. -/
  | stepMark (ring : Fin 64)
  /-- R199. Returns the state of the queried step and the newest proved step. -/
  | proveStatus (ring : Fin 64)
  /-- R339. At the next step boundary, copies a boundary or full image of the closing step to DEST. -/
  | snapshot (ring : Fin 64)
  /-- R344. Writes the newest proved cut to a RoCEv2 target slot and seals it with a signed contact sheet. -/
  | checkpoint (ring : Fin 64)
  /-- R345. Ends all work in flight with ABORTED, sends dirty verdicts, forgets open and latent steps and sets the kept table aside. -/
  | evacuate (ring : Fin 64)
  /-- R392. Scrubs all memory, destroys the key set, resets setup blocks and enters safelight. -/
  | handover (ring : Fin 64) (run : HandoverRun)
  /-- R201. Waits for every earlier command of its ring and the masked rings to complete. -/
  | fence (ring : Fin 64)
  /-- R199. Validates and writes scale book entry images. -/
  | scaleSet (ring : Fin 64)
  /-- R311. Runs the selected non-destructive tests and writes a result record. -/
  | fieldTest (ring : Fin 64) (run : FieldTestRun)
  /-- R267. Copies a member table into the group directory as an active or pending definition. -/
  | groupSetup (ring : Fin 64)
  /-- R335. Sets the mirror partner and store, and optionally restores a committed cut from another node. -/
  | mirrorSetup (ring : Fin 64)
  /-- R199. Writes scale book images, gradient-statistics groups or a TELEMETRY copy to DEST. -/
  | counterRead (ring : Fin 64)
  /-- R54. A MATMUL op is checked, reads its scale entries and requests its frank before streaming passes. -/
  | matmul (op : Nat)
  /-- R42. A pass finishes streaming; column sums are folded and the next pass or a re-run pass starts. -/
  | platePassEnd (op : Nat) (c : PassFaults) (f : DieVotes)
  /-- R300. A disagreement under FULL runs the vote run V once its frank is granted and decides the culprit. -/
  | fullVotePass (op : Nat) (v : VotePass)
  /-- R43. A block's drain finishes, freeing result slots for the next block. -/
  | blockDrain (op : Nat) (v : DieVotes)
  /-- R118. A run ends and the sequencer decides whether a bracket re-run is needed. -/
  | matmulRunEnd (op : Nat)
  /-- R118. A bracket re-run with a larger output scale starts once its frank is granted. -/
  | matmulBracket (op : Nat)
  /-- R57. The MATMUL writes its scale book updates, result record and health events. -/
  | matmulComplete (op : Nat)
  /-- R137. Loads a vector program, checks it, sets scalar arguments and executes it on one or both dies. -/
  | vec (op : Nat)
  /-- R152. A VEC finishes; slot entries are updated and its result record written. -/
  | vecComplete (op : Nat)
  /-- R163. After earlier ops complete, reads a summary register and passes it to Rolrohan for a decision. -/
  | branch (op : Nat)
  /-- R163. Rolrohan's decision arrives and the sequencer resumes at TAKEN or NEXT. -/
  | branchDecision (op : Nat)
  /-- R163. No decision within 10 ms; the BRANCH completes with FIRMWARE_FAULT. -/
  | branchTimeout (op : Nat)
  /-- R252. Copies rows of bytes among local memories and tray peers, then increments a semaphore. -/
  | move (op : Nat)
  /-- R204. After earlier ops complete and are visible, adds to or sets a semaphore, locally or on a tray peer. -/
  | signal (op : Nat)
  /-- R205. Holds its program until a semaphore meets its condition, optionally consuming it. -/
  | wait (op : Nat)
  /-- R205. A WAIT's condition has not held within TIMEOUT_US, and it completes with PEER_LOST. -/
  | waitTimeout (op : Nat)
  /-- R321. The STEP op closes the open step and opens the next. -/
  | step (op : Nat)
  /-- R319. Once all issued ops and started copies have drained, the open step closes, the verdict is formed and the next step opens. -/
  | stepBoundary
  /-- R270. A collective op is checked and sends its blocks as NPT chunks. `v`: what the adders of R276 found in its own leaves, then
  in each chunk held for it; nothing given is agreement. -/
  | coll (c : CollStart)
  /-- R280. All blocks are acknowledged and chunks merged; outputs and entries are written and the record follows. -/
  | collComplete (op : Nat)
  /-- R281. No packet from a waited-on member for COLL_TIMEOUT/4; a HELLO is sent. -/
  | collSilenceHello (who : Waiter) (rank : Nat)
  /-- R281. No packet from a member for COLL_TIMEOUT; the COLL ends with PEER_LOST. -/
  | collPeerTimeout (op : Nat) (rank : Nat)
  /-- R234. Loss of signal, alignment or excess FEC errors takes a port down and starts retraining. -/
  | linkDown (port : Fin 24) (fall : LinkFall)
  /-- R237. A port achieves PCS alignment, enters LABEL_WAIT and sends an LLDPDU. -/
  | linkUp (port : Fin 24)
  /-- R237. Every 1 s the module sends an LLDPDU with its label on each linked port. -/
  | lldpSend
  /-- R241. A received LLDPDU is evaluated against the topology entry and the port enters UP or DEAD_LETTER. -/
  | lldpduReceive (port : Fin 24) (l : Lldpdu)
  /-- R241. No label within 100 ms, or a label's TTL expires, and the port enters DEAD_LETTER or UP per its kind. -/
  | labelTimeout (port : Fin 24)
  /-- R247. A received WRITE frame is applied in sequence and acknowledged once visible. -/
  | yehosenWrite (port : Fin 24) (hdr payload : List Byte)
  /-- R247. A received READ_REQ is served after earlier frames and answered with READ_RESP. -/
  | yehosenReadReq (port : Fin 24) (hdr payload : List Byte)
  /-- R247. A received READ_RESP is matched by tag to its request. -/
  | yehosenReadResp (port : Fin 24) (hdr payload : List Byte)
  /-- R246. A received ACK releases acknowledged frames from the channel. -/
  | yehosenAck (port : Fin 24) (hdr payload : List Byte)
  /-- R246. A received NAK triggers replay or reports a refused address. -/
  | yehosenNak (port : Fin 24) (hdr payload : List Byte)
  /-- R247. A received SEM_ADD increments a semaphore after all earlier frames. -/
  | yehosenSemAdd (port : Fin 24) (hdr payload : List Byte)
  /-- R246. No progress acknowledged for 4 us; the channel replays from the first unacknowledged frame. -/
  | yehosenReplayTimeout (member : Fin 4)
  /-- R249. An operation waiting on an unreachable tray peer for COLL_TIMEOUT completes with PEER_LOST. -/
  | trayPeerTimeout (member : Fin 4)
  /-- R279. A complete chunk is merged, held early, discarded or refused by the decision table. -/
  | nptData (a : Arrival) (h : NptHeader) (chunk : List Byte) (ce : Nat) (v : UnitVote)
  /-- R256. A chunk ACK releases the chunk and adjusts the rate by its CE count. -/
  | nptAck (k : Packet)
  /-- R278. A NACK causes missing packets to be re-sent, or delivers a refusal or abandon notice. -/
  | nptNack (k : Packet) (words : List (BitVec 16))
  /-- R255. A received HELLO reopens the session and is answered with HELLO_ACK. -/
  | hello (k : Packet) (label : List Byte)
  /-- R255. A received HELLO_ACK opens the session or puts the peer in dead-letter. -/
  | helloAck (k : Packet) (label : List Byte)
  /-- R256. A chunk has waited 50 us for missing packets; a NACK is sent. -/
  | nptNackTimer (h : NptHeader) (missing : List (BitVec 16))
  /-- R256. No ACK 200 us after a chunk's last packet, or a BUSY wait ends; the chunk is re-sent. -/
  | nptResendTimeout (chunk : Nat)
  /-- R257. No marks for 50 us raise a destination's rate by 1/32 of the port sum. -/
  | nptRateIncrease (node : BitVec 17)
  /-- R323. A received verdict message is combined up the tree or, as the outcome, proves or fails the step. -/
  | verdict (k : Packet) (payload : List Byte)
  /-- R324. A tree neighbour is silent for COLL_TIMEOUT; the step fails with cause SILENT. -/
  | verdictSilenceTimeout (step : Nat) (rank : Nat)
  /-- R336. A received mirror page is staged in the store. -/
  | mirrorPage (a : Arrival) (h : NptHeader) (step region page : Nat) (bytes : List Byte)
  /-- R336. A received scale book image of a cut is staged in the store. -/
  | mirrorScaleImage (k : Packet) (step : Nat) (image : List Byte)
  /-- R336. The partner's acknowledgement of a cut lets the step's verdict be sent. -/
  | mirrorAck (k : Packet) (step : Nat) (answer : MirrorAnswer)
  /-- R337. A refused or silent partner fails the cut and dirties the verdict. -/
  | mirrorLost (step : Nat) (silent : Bool)
  /-- R258. A RoCEv2 acknowledgement or read response arrives and the next checkpoint write may start. -/
  | roceResponse (target : BitVec 8) (qp : BitVec 2) (psn : BitVec 24)
  /-- R258. A congestion notification cuts the queue pair's rate. -/
  | roceCnp (target : BitVec 8) (qp : BitVec 2)
  /-- R258. An ACK timeout retransmits, and after 7 retries the queue pair enters ERROR and the command fails with PEER_LOST. -/
  | roceRetryTimeout (target : BitVec 8) (qp : BitVec 2)
  /-- R253. A neighbour solicitation for the module's address is answered. -/
  | neighborSolicitation (port : Option (Fin 24)) (ip : BitVec 128) (from_ : BitVec 48)
  /-- R253. A router advertisement sets the port's next hop. -/
  | routerAdvertisement (port : Fin 24) (mac : BitVec 48)
  /-- R142. Does nothing. -/
  | snop (die : Die) (w : ScalarIssue)
  /-- R142. Ends the vector program. -/
  | send (die : Die) (w : ScalarIssue)
  /-- R142. Sets an S register to the sign-extended immediate. -/
  | smovi (die : Die) (w : ScalarIssue)
  /-- R142. Sets the upper half of an S register to the immediate. -/
  | smovhi (die : Die) (w : ScalarIssue)
  /-- R142. Copies one S register to another. -/
  | smov (die : Die) (w : ScalarIssue)
  /-- R142. Adds two S registers. -/
  | sadd (die : Die) (w : ScalarIssue)
  /-- R142. Adds an immediate to an S register. -/
  | saddi (die : Die) (w : ScalarIssue)
  /-- R142. Subtracts two S registers. -/
  | ssub (die : Die) (w : ScalarIssue)
  /-- R142. Multiplies two S registers, keeping the low 64 bits. -/
  | smul (die : Die) (w : ScalarIssue)
  /-- R142. Bitwise AND of two S registers. -/
  | sand (die : Die) (w : ScalarIssue)
  /-- R142. Bitwise OR of two S registers. -/
  | sor (die : Die) (w : ScalarIssue)
  /-- R142. Bitwise XOR of two S registers. -/
  | sxor (die : Die) (w : ScalarIssue)
  /-- R142. Shifts an S register left. -/
  | sshl (die : Die) (w : ScalarIssue)
  /-- R142. Shifts an S register logically right. -/
  | sshr (die : Die) (w : ScalarIssue)
  /-- R142. Decrements the loop counter and jumps back while it exceeds 1. -/
  | sloop (die : Die) (w : ScalarIssue)
  /-- R142. Jumps forward when its condition holds. -/
  | sjump (die : Die) (w : ScalarIssue)
  /-- R145. Elementwise addition. -/
  | vadd (die : Die) (w : Word) (v : UnitVote)
  /-- R145. Elementwise subtraction. -/
  | vsub (die : Die) (w : Word) (v : UnitVote)
  /-- R145. Elementwise multiplication. -/
  | vmul (die : Die) (w : Word) (v : UnitVote)
  /-- R145. Fused A times B plus C. -/
  | vfma (die : Die) (w : Word) (v : UnitVote)
  /-- R145. Fused A times B minus C. -/
  | vfms (die : Die) (w : Word) (v : UnitVote)
  /-- R145. Fused minus A times B plus C. -/
  | vnfma (die : Die) (w : Word) (v : UnitVote)
  /-- R145. Elementwise division. -/
  | vdiv (die : Die) (w : Word) (v : UnitVote)
  /-- R145. Elementwise square root. -/
  | vsqrt (die : Die) (w : Word) (v : UnitVote)
  /-- R145. Elementwise reciprocal square root. -/
  | vrsqrt (die : Die) (w : Word) (v : UnitVote)
  /-- R145. Elementwise reciprocal. -/
  | vrcp (die : Die) (w : Word) (v : UnitVote)
  /-- R145. Elementwise square. -/
  | vsqr (die : Die) (w : Word) (v : UnitVote)
  /-- R145. Elementwise minimum. -/
  | vmin (die : Die) (w : Word) (v : UnitVote)
  /-- R145. Elementwise maximum. -/
  | vmax (die : Die) (w : Word) (v : UnitVote)
  /-- R145. Element of smaller magnitude. -/
  | vminabs (die : Die) (w : Word) (v : UnitVote)
  /-- R145. Element of larger magnitude. -/
  | vmaxabs (die : Die) (w : Word) (v : UnitVote)
  /-- R145. Elementwise absolute value. -/
  | vabs (die : Die) (w : Word) (v : UnitVote)
  /-- R145. Elementwise negation. -/
  | vneg (die : Die) (w : Word) (v : UnitVote)
  /-- R145. Elementwise absolute difference. -/
  | vabsdiff (die : Die) (w : Word) (v : UnitVote)
  /-- R145. Elementwise sign. -/
  | vsign (die : Die) (w : Word) (v : UnitVote)
  /-- R145. Copies the sign of B onto A. -/
  | vcopysign (die : Die) (w : Word) (v : UnitVote)
  /-- R145. A times 2 to the integer B. -/
  | vscaleb (die : Die) (w : Word) (v : UnitVote)
  /-- R145. Elementwise average of A and B. -/
  | vavg (die : Die) (w : Word) (v : UnitVote)
  /-- R145. Linear interpolation A plus C times B minus A. -/
  | vlerp (die : Die) (w : Word) (v : UnitVote)
  /-- R145. Clamps A into the range B to C. -/
  | vclamp (die : Die) (w : Word) (v : UnitVote)
  /-- R144. Elementwise bitwise AND. -/
  | vand (die : Die) (w : Word) (v : UnitVote)
  /-- R144. Elementwise bitwise OR. -/
  | vor (die : Die) (w : Word) (v : UnitVote)
  /-- R144. Elementwise bitwise XOR. -/
  | vxor (die : Die) (w : Word) (v : UnitVote)
  /-- R144. Elementwise bitwise NOT. -/
  | vnot (die : Die) (w : Word) (v : UnitVote)
  /-- R144. Elementwise shift left. -/
  | vshl (die : Die) (w : Word) (v : UnitVote)
  /-- R144. Elementwise logical shift right. -/
  | vshr (die : Die) (w : Word) (v : UnitVote)
  /-- R144. Elementwise arithmetic shift right. -/
  | vsra (die : Die) (w : Word) (v : UnitVote)
  /-- R144. Elementwise population count. -/
  | vpopc (die : Die) (w : Word) (v : UnitVote)
  /-- R144. Elementwise count of leading zeros. -/
  | vclz (die : Die) (w : Word) (v : UnitVote)
  /-- R144. Copies a vector register. -/
  | vmov (die : Die) (w : Word) (v : UnitVote)
  /-- R144. Broadcasts source B to every element. -/
  | vmovs (die : Die) (w : Word) (v : UnitVote)
  /-- R145. Writes an S register plus the element index, saturating. -/
  | viota (die : Die) (w : Word) (v : UnitVote)
  /-- R144. Sets a predicate where A equals B. -/
  | vcmpeq (die : Die) (w : Word) (v : UnitVote)
  /-- R144. Sets a predicate where A differs from B. -/
  | vcmpne (die : Die) (w : Word) (v : UnitVote)
  /-- R144. Sets a predicate where A is less than B. -/
  | vcmplt (die : Die) (w : Word) (v : UnitVote)
  /-- R144. Sets a predicate where A is at most B. -/
  | vcmple (die : Die) (w : Word) (v : UnitVote)
  /-- R144. Sets a predicate where A is greater than B. -/
  | vcmpgt (die : Die) (w : Word) (v : UnitVote)
  /-- R144. Sets a predicate where A is at least B. -/
  | vcmpge (die : Die) (w : Word) (v : UnitVote)
  /-- R144. Sets a predicate where either operand is NaN. -/
  | vcmpun (die : Die) (w : Word) (v : UnitVote)
  /-- R144. Sets a predicate where an element falls in the class mask. -/
  | vclass (die : Die) (w : Word) (v : UnitVote)
  /-- R144. Selects A or B per element by predicate. -/
  | vsel (die : Die) (w : Word) (v : UnitVote)
  /-- R144. ANDs two predicates. -/
  | pand (die : Die) (w : Word) (v : UnitVote)
  /-- R144. ORs two predicates. -/
  | por (die : Die) (w : Word) (v : UnitVote)
  /-- R144. XORs two predicates. -/
  | pxor (die : Die) (w : Word) (v : UnitVote)
  /-- R144. Inverts a predicate. -/
  | pnot (die : Die) (w : Word) (v : UnitVote)
  /-- R144. Sets a predicate's bits. -/
  | pset (die : Die) (w : Word) (v : UnitVote)
  /-- R144. Clears a predicate's bits. -/
  | pclr (die : Die) (w : Word) (v : UnitVote)
  /-- R144. Copies a predicate. -/
  | pmov (die : Die) (w : Word) (v : UnitVote)
  /-- R146. Converts elements from a source type to ETYPE with one rounding. -/
  | vcvt (die : Die) (w : Word) (v : UnitVote)
  /-- R146. Rounds to an integral value under RND. -/
  | vrint (die : Die) (w : Word) (v : UnitVote)
  /-- R146. Rounds toward minus infinity. -/
  | vfloor (die : Die) (w : Word) (v : UnitVote)
  /-- R146. Rounds toward plus infinity. -/
  | vceil (die : Die) (w : Word) (v : UnitVote)
  /-- R146. Rounds toward zero. -/
  | vtrunc (die : Die) (w : Word) (v : UnitVote)
  /-- R144. Shifts elements by a count from an S register. -/
  | vshiftel (die : Die) (w : Word) (v : UnitVote)
  /-- R144. Reverses element order. -/
  | vrev (die : Die) (w : Word) (v : UnitVote)
  /-- R144. Permutes elements by an index register. -/
  | vperm (die : Die) (w : Word) (v : UnitVote)
  /-- R144. Interleaves two registers. -/
  | vzip (die : Die) (w : Word) (v : UnitVote)
  /-- R144. De-interleaves a register pair. -/
  | vunzip (die : Die) (w : Word) (v : UnitVote)
  /-- R144. Broadcasts one element to all elements. -/
  | vbcast (die : Die) (w : Word) (v : UnitVote)
  /-- R144. Packs predicated elements together. -/
  | vcompress (die : Die) (w : Word) (v : UnitVote)
  /-- R144. Spreads packed elements to predicated places. -/
  | vexpand (die : Die) (w : Word) (v : UnitVote)
  /-- R151. Loads elements from memory, scaling under a slot. -/
  | vld (die : Die) (w : Word) (v : UnitVote)
  /-- R152. Stores elements to memory, converting under a slot's scale. -/
  | vst (die : Die) (w : Word) (v : UnitVote)
  /-- R148. Loads one element into all elements. -/
  | vldb (die : Die) (w : Word) (v : UnitVote)
  /-- R150. Loads elements at indexed addresses. -/
  | vgather (die : Die) (w : Word) (v : UnitVote)
  /-- R150. Stores elements at indexed addresses, the higher index landing last. -/
  | vscatter (die : Die) (w : Word) (v : UnitVote)
  /-- R150. Adds elements into indexed locations in ascending order. -/
  | vscatadd (die : Die) (w : Word) (v : UnitVote)
  /-- R149. Loads a predicate from packed bits. -/
  | vldp (die : Die) (w : Word) (v : UnitVote)
  /-- R149. Stores a predicate as packed bits. -/
  | vstp (die : Die) (w : Word) (v : UnitVote)
  /-- R155. Evaluates a forward function table on BF16 elements. -/
  | vlut (die : Die) (w : Word) (v : UnitVote)
  /-- R155. Evaluates a derivative function table on BF16 elements. -/
  | vlutd (die : Die) (w : Word) (v : UnitVote)
  /-- R154. Loads a function table slot from memory. -/
  | vtblld (die : Die) (w : Word) (v : UnitVote)
  /-- R154. Writes a function table slot back to memory. -/
  | vtblst (die : Die) (w : Word) (v : UnitVote)
  /-- R159. Sums present elements into a summary register. -/
  | vrsum (die : Die) (w : Word) (v : UnitVote)
  /-- R159. Sums squares of present elements into a summary register. -/
  | vrsumsq (die : Die) (w : Word) (v : UnitVote)
  /-- R160. Writes the maximum and its first position to a summary register. -/
  | vrmax (die : Die) (w : Word) (v : UnitVote)
  /-- R160. Writes the minimum and its first position. -/
  | vrmin (die : Die) (w : Word) (v : UnitVote)
  /-- R160. Writes the element of largest magnitude. -/
  | vrmaxabs (die : Die) (w : Word) (v : UnitVote)
  /-- R160. Counts set bits of the effective predicate. -/
  | vrcnt (die : Die) (w : Word) (v : UnitVote)
  /-- R160. Writes the same as VRMAX. -/
  | vrargmax (die : Die) (w : Word) (v : UnitVote)
  /-- R161. Sums each segment of L elements. -/
  | vsegsum (die : Die) (w : Word) (v : UnitVote)
  /-- R161. Sums squares of each segment. -/
  | vsegsumsq (die : Die) (w : Word) (v : UnitVote)
  /-- R161. Maximum of each segment. -/
  | vsegmax (die : Die) (w : Word) (v : UnitVote)
  /-- R161. Minimum of each segment. -/
  | vsegmin (die : Die) (w : Word) (v : UnitVote)
  /-- R161. Largest magnitude of each segment. -/
  | vsegmaxabs (die : Die) (w : Word) (v : UnitVote)
  /-- R160. Clears a summary register. -/
  | qclr (die : Die) (w : Word) (v : UnitVote)
  /-- R135. Copies an S register into a summary register. -/
  | qset (die : Die) (w : Word) (v : UnitVote)
  /-- R135. Copies one summary register to another. -/
  | qmov (die : Die) (w : Word) (v : UnitVote)
  /-- R158. Writes a dropout predicate from random words against a threshold. -/
  | vdrop (die : Die) (w : Word) (v : UnitVote)
  /-- R165. Folds a sum of squares and units into a gradient-statistics group. -/
  | gstat (die : Die) (w : Word) (v : UnitVote)
  /-- R401. MOD_RESET# goes high after a module reset; the straps are sampled and the start-up sequence begins from that edge. -/
  | modResetRelease (tray : BitVec 2) (slot : BitVec 4)
  /-- R409. The PCIe link partner requests Loopback, and the module takes the follower role, holding its PCIe requests and polling while the loop lasts. -/
  | loopbackFollower
  /-- R338. A request from another node to fetch the committed cut, or poisoned blocks of it, that this module holds in its mirror store is served from the store. -/
  | committedCutFetch (k : Packet) (blocks : List (Nat × Nat))
  /-- R413. An IEEE 1149.1 instruction is shifted in and updated through the test access port, acting as BYPASS unless MOD_RESET# is low for the boundary-scan instructions. -/
  | jtagInstruction (i : JtagInstr)
  deriving DecidableEq, Repr

end Sys2Proof
end

