-- ==== Sys2Proof/Decode.lean ====
section
/-! DEFINITION. The command table gives its rows no bits, so no word spells a command. -/

namespace Sys2Proof

/-- The command a word spells by the table's bits: no row gives any (spec/opcode_table.json), so none. -/
def decodeTableWord (_nbits _w : Nat) : Option Instr := none

end Sys2Proof
end

