-- ==== Sys2Proof/Machine/Numeric.lean ====
section
/-! DEFINITION. Exact numbers and their one rounding: the formats of R66, round to nearest even, toward zero and
stochastically (R92), the A24 fold of R73, the tile sums of R69 to R72 and the fold tree of R82. -/

namespace Sys2Proof.Machine

/-- How a magnitude is rounded to a whole number of units in the last place. `stoch w` carries the random word of
R94. `down` and `up` are toward minus and plus infinity. -/
inductive Rnd where
  | nearest
  | stoch (w : BitVec 32)
  | zero
  | down
  | up
  deriving DecidableEq, Repr

/-- An exact value: NaN, an infinity, or (−1)^neg × n / d × 2^e with d > 0. A zero keeps its sign. -/
inductive Val where
  | nan
  | inf (neg : Bool)
  | num (neg : Bool) (n d : Nat) (e : Int)
  deriving DecidableEq, Repr

/-- A float format of R66: F fraction bits, the exponent of its least magnitude, the code of its largest finite
magnitude, the bit of its sign, and the codes of infinity and of the NaN it writes (R67, R122, R145). -/
structure FloatFmt where
  frac   : Nat
  qmin   : Int
  maxFin : Nat
  sign   : Nat
  inf    : Option Nat
  nan    : Option Nat
  deriving DecidableEq, Repr

def fmtBF16 : FloatFmt := ⟨7, -133, 0x7F7F, 15, some 0x7F80, some 0x7FC0⟩
def fmtFP16 : FloatFmt := ⟨10, -24, 0x7BFF, 15, some 0x7C00, some 0x7E00⟩
def fmtE4M3 : FloatFmt := ⟨3, -9, 0x7E, 7, none, some 0x7F⟩
def fmtE5M2 : FloatFmt := ⟨2, -16, 0x7B, 7, some 0x7C, some 0x7E⟩
def fmtE2M1 : FloatFmt := ⟨1, -1, 7, 3, none, none⟩
def fmtA24  : FloatFmt := ⟨15, -141, 0x7F7FFF, 23, some 0x7F8000, some 0x7FC000⟩

/-- 2^k as a fraction (numerator, denominator). -/
def pow2Frac (k : Int) : Nat × Nat :=
  if 0 ≤ k then (2 ^ k.toNat, 1) else (1, 2 ^ (-k).toNat)

/-- floor(log2(n / d)) for n, d > 0. -/
def floorLog2 (n d : Nat) : Int :=
  let a : Int := (Nat.log2 n : Int) - (Nat.log2 d : Int)
  let p := pow2Frac a
  if d * p.1 ≤ n * p.2 then a else a - 1

/-- ceil(log2(n / d)) for n, d > 0 (R112). -/
def ceilLog2 (n d : Nat) : Int :=
  let f := floorLog2 n d
  let p := pow2Frac f
  if d * p.1 = n * p.2 then f else f + 1

/-- n / d rounded to a whole number; `neg` is the sign of the value whose magnitude this is. -/
def roundDiv (rm : Rnd) (neg : Bool) (n d : Nat) : Nat :=
  let q := n / d
  let r := n % d
  match rm with
  | .nearest => if d < 2 * r ∨ (2 * r = d ∧ q % 2 = 1) then q + 1 else q
  | .stoch w => if w.toNat < r * 2 ^ 32 / d then q + 1 else q
  | .zero => q
  | .down => if neg ∧ r ≠ 0 then q + 1 else q
  | .up => if ¬ neg ∧ r ≠ 0 then q + 1 else q

/-- The magnitude code of n / d × 2^e rounded to F fraction bits above the least exponent: codes rise with the
magnitude, across the subnormal boundary and past the largest finite one. -/
def magCode (f : FloatFmt) (rm : Rnd) (neg : Bool) (n d : Nat) (e : Int) : Nat :=
  if n = 0 then 0
  else
    let q := max (floorLog2 n d + e - f.frac) f.qmin
    let p := pow2Frac (e - q)
    let k := roundDiv rm neg (n * p.1) (d * p.2)
    (q - f.qmin).toNat * 2 ^ f.frac + k

/-- The exact value of a magnitude code, as integer × 2^exponent. -/
def magValue (f : FloatFmt) (c : Nat) : Nat × Int :=
  let x := c / 2 ^ f.frac
  let m := c % 2 ^ f.frac
  if x = 0 then (m, f.qmin) else (2 ^ f.frac + m, f.qmin + (x : Int) - 1)

/-- The code with its sign bit. -/
def withSign (f : FloatFmt) (neg : Bool) (c : Nat) : Nat :=
  if neg then 2 ^ f.sign + c else c

/-- Value of a code (R66). Codes above the largest finite one are the infinity or a NaN of the format. -/
def decodeFloat (f : FloatFmt) (code : Nat) : Val :=
  let neg := code / 2 ^ f.sign % 2 == 1
  let c := code % 2 ^ f.sign
  if c ≤ f.maxFin then
    let v := magValue f c
    .num neg v.1 1 v.2
  else if f.inf = some c then .inf neg
  else .nan

/-- R92: a magnitude beyond the largest finite one is not rounded stochastically. -/
def pastMax (f : FloatFmt) (rm : Rnd) (n d : Nat) (e : Int) : Bool :=
  match rm with
  | .stoch _ => decide (f.maxFin < magCode f .up false n d e)
  | _ => false

/-- Rounds once under IEEE rules, with overflow to infinity of the sign and the canonical NaN (R73, R145, R151).
A format without an infinity saturates, and one without a NaN gives +0, as R122 writes them. Rounding toward zero (RND = 2) keeps an
exact result between the largest finite value and the next power of two at the largest finite value (DESIGN CHOICE, log 79). -/
def roundFloat (f : FloatFmt) (rm : Rnd) (v : Val) : Nat :=
  match v with
  | .nan => f.nan.getD 0
  | .inf neg => withSign f neg (f.inf.getD f.maxFin)
  | .num neg n d e =>
    let c := magCode f rm neg n d e
    if f.maxFin < c ∨ pastMax f rm n d e then
      withSign f neg (f.inf.getD f.maxFin)
    else withSign f neg c

/-! ### Exact arithmetic -/

def Val.isNan : Val → Bool
  | .nan => true
  | _ => false

def Val.isZero : Val → Bool
  | .num _ n _ _ => n == 0
  | _ => false

def Val.isFinite : Val → Bool
  | .num .. => true
  | _ => false

def Val.isNeg : Val → Bool
  | .nan => false
  | .inf s => s
  | .num s _ _ _ => s

def Val.neg : Val → Val
  | .nan => .nan
  | .inf s => .inf (!s)
  | .num s n d e => .num (!s) n d e

def Val.abs : Val → Val
  | .nan => .nan
  | .inf _ => .inf false
  | .num _ n d e => .num false n d e

def Val.zero : Val := .num false 0 1 0

/-- The integer x as a value. -/
def Val.ofInt (x : Int) : Val := .num (decide (x < 0)) x.natAbs 1 0

/-- 2^k. -/
def Val.pow2 (k : Int) : Val := .num false 1 1 k

/-- Multiplies by 2^k exactly. -/
def Val.scale (v : Val) (k : Int) : Val :=
  match v with
  | .num s n d e => .num s n d (e + k)
  | w => w

def Val.mul : Val → Val → Val
  | .nan, _ => .nan
  | _, .nan => .nan
  | .inf s, .inf t => .inf (s != t)
  | .inf s, .num t n _ _ => if n = 0 then .nan else .inf (s != t)
  | .num t n _ _, .inf s => if n = 0 then .nan else .inf (s != t)
  | .num s n d e, .num t m c x => .num (s != t) (n * m) (d * c) (e + x)

/-- IEEE division: 0/0 and inf/inf are NaN, x/0 is an infinity (R145). -/
def Val.div : Val → Val → Val
  | .nan, _ => .nan
  | _, .nan => .nan
  | .inf _, .inf _ => .nan
  | .inf s, .num t _ _ _ => .inf (s != t)
  | .num s _ _ _, .inf t => .num (s != t) 0 1 0
  | .num s n d e, .num t m c x =>
    if m = 0 then (if n = 0 then .nan else .inf (s != t))
    else .num (s != t) (n * c) (d * m) (e - x)

/-- The signed numerator of a finite value over a common denominator d × 2^-g. -/
def signedAt (neg : Bool) (n : Nat) : Int := if neg then -(n : Int) else n

/-- IEEE addition, exact: a zero sum of non-zero or unlike-signed values is +0; (−0) + (−0) is −0. -/
def Val.add : Val → Val → Val
  | .nan, _ => .nan
  | _, .nan => .nan
  | .inf s, .inf t => if s = t then .inf s else .nan
  | .inf s, _ => .inf s
  | _, .inf t => .inf t
  | .num s n d e, .num t m c x =>
    if n = 0 ∧ m = 0 then .num (s && t) 0 1 0
    else
      let g := min e x
      let a := signedAt s (n * c * 2 ^ (e - g).toNat)
      let b := signedAt t (m * d * 2 ^ (x - g).toNat)
      .num (decide (a + b < 0)) (a + b).natAbs (d * c) g

def Val.sub (a b : Val) : Val := a.add b.neg

/-- Integer square root by bits: the largest r < 2^k × (already found) with r² ≤ n. -/
def isqrtFrom (n : Nat) : Nat → Nat → Nat
  | 0, r => r
  | k + 1, r => isqrtFrom n k (if (r + 2 ^ k) * (r + 2 ^ k) ≤ n then r + 2 ^ k else r)

def isqrt (n : Nat) : Nat := isqrtFrom n (Nat.log2 n / 2 + 1) 0

/-- sqrt(n / d × 2^e) carried to at least 40 significant bits with a sticky bit below: enough for one correct
rounding to any format here (R145: correctly rounded). -/
def sqrtMag (n d : Nat) (e : Int) : Nat × Int :=
  let s : Int := 2 * (40 + (Nat.log2 d : Int)) + (e % 2)
  let num := n * 2 ^ s.toNat
  let q := num / d
  let r := isqrt q
  let exact := decide (r * r = q ∧ num % d = 0)
  (2 * r + (if exact then 0 else 1), (e - s) / 2 - 1)

def Val.sqrt : Val → Val
  | .nan => .nan
  | .inf s => if s then .nan else .inf false
  | .num s n d e =>
    if n = 0 then .num s 0 1 0
    else if s then .nan
    else let r := sqrtMag n d e; .num false r.1 1 r.2

/-- 1 / sqrt(x) as one correctly rounded operation: sqrt of the exact reciprocal. -/
def Val.rsqrt : Val → Val
  | .nan => .nan
  | .inf s => if s then .nan else .num false 0 1 0
  | .num s n d e =>
    if n = 0 then .inf s
    else if s then .nan
    else let r := sqrtMag d n (-e); .num false r.1 1 r.2

/-- Compares two values that are not NaN, with −0 = +0: less, equal or greater. -/
def Val.cmp (a b : Val) : Ordering :=
  match a, b with
  | .inf s, .inf t => if s = t then .eq else if s then .lt else .gt
  | .inf s, _ => if s then .lt else .gt
  | _, .inf t => if t then .gt else .lt
  | .num s n d e, .num t m c x =>
    let g := min e x
    compare (signedAt s (n * c * 2 ^ (e - g).toNat)) (signedAt t (m * d * 2 ^ (x - g).toNat))
  | _, _ => .eq

def Val.lt (a b : Val) : Bool := !a.isNan && !b.isNan && a.cmp b == .lt
def Val.le (a b : Val) : Bool := !a.isNan && !b.isNan && a.cmp b != .gt
def Val.eqv (a b : Val) : Bool := !a.isNan && !b.isNan && a.cmp b == .eq

/-- R126's order: −inf < finite < +inf and −0 below +0. NaNs are not ordered. -/
def Val.ordLt (a b : Val) : Bool :=
  match a.cmp b with
  | .lt => true
  | .gt => false
  | .eq => a.isZero && b.isZero && a.isNeg && !b.isNeg

/-! ### Tile sums and folds (R67 to R73) -/

def a24NaN : BitVec 24 := 0x7FC000
def a24Zero : BitVec 24 := 0
def a24Value (x : BitVec 24) : Val := decodeFloat fmtA24 x.toNat
def a24Round (v : Val) : BitVec 24 := BitVec.ofNat 24 (roundFloat fmtA24 .nearest v)

/-- R73: IEEE addition in A24, to nearest, ties to even. -/
def fold (x y : BitVec 24) : BitVec 24 := a24Round ((a24Value x).add (a24Value y))

/-- Exact sum of values; NaN and opposite infinities give NaN (R72). An exact zero sum is +0. -/
def sumVals : List Val → Val
  | [] => .zero
  | v :: vs => v.add (sumVals vs)

/-- R69, R72: the exact sum of the products of one tile, rounded once to A24; a zero sum is +0. -/
def tileSum (ps : List Val) : BitVec 24 :=
  let s := sumVals ps
  if s.isZero then a24Zero else a24Round s

/-- floor(log2 |p|) of a non-zero dyadic product. -/
def valLog2 : Val → Int
  | .num _ n d e => floorLog2 n d + e
  | _ => 0

/-- One term of the window of R71: truncated toward zero to a multiple of 2^q, and whether bits were lost. -/
def windowTerm (q : Int) : Val → Int × Bool
  | .num s n _ e =>
    if q ≤ e then (signedAt s (n * 2 ^ (e - q).toNat), false)
    else
      let k := n / 2 ^ (q - e).toNat
      (signedAt s k, decide (n % 2 ^ (q - e).toNat ≠ 0))
  | _ => (0, false)

/-- R71: round to nearest, but an exact half with the sticky bit set goes to the larger magnitude. -/
def windowRound (t q : Int) (sticky : Bool) : BitVec 24 :=
  let neg := decide (t < 0)
  let lo := magValue fmtA24 (magCode fmtA24 .zero false t.natAbs 1 q)
  let hi := magValue fmtA24 (magCode fmtA24 .zero false t.natAbs 1 q + 1)
  let half := ((Val.num false t.natAbs 1 (q + 1)).eqv ((Val.num false lo.1 1 lo.2).add (.num false hi.1 1 hi.2)))
  if sticky && half then a24Round (.num neg (2 * t.natAbs + 1) 1 (q - 1))
  else a24Round (.num neg t.natAbs 1 q)

/-- The window of R71 over the products of a 16-bit tile: its integer t in units 2^q, q, and whether bits were lost; none where
every product is zero. -/
def windowOf (ps : List Val) : Option (Int × Int × Bool) :=
  let nz := ps.filter (fun p => !p.isZero)
  match nz with
  | [] => none
  | p :: rest =>
    let e := rest.foldl (fun m x => max m (valLog2 x)) (valLog2 p)
    let q := e - 95
    let ws := nz.map (windowTerm q)
    some (ws.foldl (fun s x => s + x.1) 0, q, ws.any (·.2))

/-- R71, R72: the tile sum of a column in 16-bit mode, through the 96-bit window, its window sum changed by `e` units (0
without a fault); a tile with no nonzero product has no window. -/
def windowSumWith (ps : List Val) (e : Int) : BitVec 24 :=
  if ps.all Val.isFinite then
    match windowOf ps with
    | none => a24Zero
    | some w => if w.1 + e = 0 then a24Zero else windowRound (w.1 + e) w.2.1 w.2.2
  else tileSum ps

/-- R82: the value of the node at level `l` whose first position is `lo`, over the present leaves (position,
value); an absent child passes its sibling up unrounded. -/
def nodeValue (leaves : List (Nat × BitVec 24)) : Nat → Nat → Option (BitVec 24)
  | 0, lo => (leaves.find? (fun p => p.1 == lo)).map (·.2)
  | l + 1, lo =>
    let here := leaves.filter (fun p => lo ≤ p.1 && p.1 < lo + 2 ^ (l + 1))
    if here.isEmpty then none
    else
      match nodeValue here l lo, nodeValue here l (lo + 2 ^ l) with
      | some x, some y => some (fold x y)
      | some x, none => some x
      | none, y => y

/-- The tree of R82 "continued upward without a window limit" over leaves 0 .. n−1. -/
def openTree (leaves : List (Nat × BitVec 24)) : Option (BitVec 24) :=
  let top := leaves.foldl (fun m p => max m (p.1 + 1)) 0
  nodeValue leaves (Nat.log2 top + 1) 0

/-- The root window values of R81, in ascending order of window. -/
def windowRoots (leaves : List (Nat × BitVec 24)) : List (Nat × BitVec 24) :=
  let wins := (leaves.map (fun p => p.1 / 4096)).foldl (fun ws w => if ws.contains w then ws else ws ++ [w]) []
  let sorted := wins.mergeSort (· ≤ ·)
  sorted.filterMap (fun w =>
    (nodeValue (leaves.filter (fun p => p.1 / 4096 == w)) 12 (w * 4096)).map (fun v => (w, v)))

/-- R87: rounds a ladder sum stochastically to A24; a sum beyond the range becomes an infinity, NaN and
infinities follow R73. -/
def srA24 (w : BitVec 32) (v : Val) : BitVec 24 := BitVec.ofNat 24 (roundFloat fmtA24 (.stoch w) v)

/-- R87: the ladder over the window roots; `rand r` is the random word for sub-stream r. -/
def ladderFrom (rand : Nat → BitVec 32) : BitVec 24 → List (Nat × BitVec 24) → BitVec 24
  | lam, [] => lam
  | lam, (r, v) :: rest => ladderFrom rand (srA24 (rand r) ((a24Value lam).add (a24Value v))) rest

/-- R83: the tree value V of an element from its present leaves. -/
def treeValue (rand : Nat → BitVec 32) (leaves : List (Nat × BitVec 24)) : BitVec 24 :=
  match windowRoots leaves with
  | [] => a24Zero
  | (_, v) :: rest => ladderFrom rand v rest

/-- Clamps an integer to a range (R74, R145). -/
def clampInt (lo hi x : Int) : Int := max lo (min hi x)

/-- Two's-complement value of the low `w` bits. -/
def sintOf (w x : Nat) : Int :=
  let y := x % 2 ^ w
  if y < 2 ^ (w - 1) then (y : Int) else (y : Int) - 2 ^ w

/-- The low `w` bits of an integer. -/
def natOfInt (w : Nat) (x : Int) : Nat := (x % (2 ^ w : Int)).toNat

/-- Rounds a finite value to an integer (R146); magnitudes are exact. -/
def roundInt (rm : Rnd) (neg : Bool) (n d : Nat) (e : Int) : Int :=
  let p := pow2Frac e
  signedAt neg (roundDiv rm neg (n * p.1) (d * p.2))

end Sys2Proof.Machine
end

