-- ==== Sys2Proof/Config.lean ====
section
/-! DEFINITION. What the manual leaves open: free values and uninterpreted functions, none with a body
(assumption log 10 and 17). Nothing can be proved of a value of any of them. -/

namespace Sys2Proof

/-- FREE VALUE (log 10): the contents, `w` bits wide, that draw number `gen` left at `key` where the manual calls
contents undefined (R56, R60, R77, R170, R216, R252, R272, R293). -/
opaque Config.freeBits (w gen key : Nat) : BitVec w

/-- FREE FUNCTION (log 17): SHA-512 of a byte string (64 bytes), named by R343, R374, R381. -/
opaque Config.sha512 (bytes : List Byte) : BitVec 512

/-- FREE FUNCTION (log 17): RSASSA-PSS signature by the device identity key (R343, R382). -/
opaque Config.signPss (message : List Byte) (salt : Nat) : BitVec 4096

/-- FREE FUNCTION (log 17): whether the signer certificate is a code-signing certificate for KIND under the
fused root, and the signature over the header verifies under it (R375). -/
opaque Config.imageSigned (header signature certificate : List Byte) : Bool

/-- FREE FUNCTION (log 17): the secrets of an SPDM session opened by a KEY_EXCHANGE (R382, R391). -/
opaque Config.sessionSecret (draw : Nat) (requester : List Byte) : BitVec 512

/-- FREE FUNCTION (log 17): whether the FINISH of a session verifies (R382). -/
opaque Config.finishVerifies (secret : BitVec 512) (finish : List Byte) : Bool

/-- FREE FUNCTION (log 17): the certificate chain of R381 as the flash holds it. -/
opaque Config.certificateChain (serial : BitVec 64) : List Byte

/-- FREE FUNCTION (log 17): the device certificate of R381. -/
opaque Config.deviceCertificate (serial : BitVec 64) : List Byte

/-- FREE VALUE (log 17): the SHA-512 digest of the boot ROM (R383 block 1). -/
opaque Config.romDigest : BitVec 512

/-- FREE FUNCTION (log 17): the 64-bit signature a column forms of its tile sums in row order (R300). -/
opaque Config.columnSignature (sums : List (BitVec 48)) : BitVec 64

/-- FREE FUNCTION (log 76): where in the turn of R256 the packets of a chunk (`key`; 0 for a message that is not kept) begin. -/
opaque Config.firstInTurn (node key : Nat) : Nat

/-- FREE FUNCTION (log 76): the UDP source port of a packet, varied per packet path (R253). -/
opaque Config.udpSource (node port : Nat) : BitVec 16

/-- FREE FUNCTION (log 76): the MAC address a port sends to while it has learned no next hop (R253). -/
opaque Config.unlearnedHop (port : Nat) : BitVec 48

/-- FREE FUNCTION (log 30): whether one use of a memory outside the address map (R305) reads a block of it. -/
opaque Config.usesBlock (memory use block : Nat) : Bool

/-- FREE FUNCTION (log 80): offset of the last block of a memory outside the address map. -/
opaque Config.lastHidden (memory : Nat) : Nat

/-- FREE FUNCTION (log 78): the setup registers of Gyton's domain, none of which the manual gives an offset (R370, R371). -/
opaque Config.gytonRegister (offset : Nat) : Bool

/-! Results of vector words that the spec leaves open. R3, R172 and R175 make every result a function of the word's inputs, so
each is a function of them, the same at every run (log 50, 52, 54, 55). -/

/-- FREE FUNCTION (log 50, 52): an element whose result the spec does not state, from the opcode, ETYPE and what the word reads. -/
opaque Config.wordResult (opcode etype : Nat) (inputs : List Nat) : BitVec 32

/-- FREE VALUE (log 52): whether VSHIFTEL moves elements to higher numbers. -/
opaque Config.shiftsUp : Bool

/-- FREE FUNCTION (log 52): which of A's and then B's elements becomes element `index` of a VUNZIP of `count` elements. -/
opaque Config.unzipSource (count index : Nat) : Nat

/-- FREE FUNCTION (log 54): the ignored bits of a segment that VTBLST writes, from the segment as VTBLLD read it. -/
opaque Config.segmentSpare (segment : BitVec 64) : BitVec 16

/-- FREE FUNCTION (log 55): AUX of VRCNT, from the predicate it counts and the register before. -/
opaque Config.countAux (predicate : List Bool) (old : BitVec 64) : BitVec 32

/-- FREE FUNCTION (log 55): LOCAL_SQ after a GSTAT of integers, from LOCAL_SQ before and the elements. -/
opaque Config.integerStat (old : BitVec 24) (elements : List Int) : BitVec 24

end Sys2Proof
end

