-- ==== Sys2Proof/Machine/Store.lean ====
section
/-! DEFINITION. Sparse storage as plain data in one canonical form. `SMap β` is a list of (key, value) pairs with
strictly rising keys and no entry equal to the default; `Store w` is such a list of `w`-bit cells whose default is 0,
beside the ranges (holes) whose contents the manual leaves undefined (log 10). Device memory, the vector registers,
predicates, summary registers, function tables and semaphores are Stores; every register array is an SMap. -/

namespace Sys2Proof.Machine

/-- A map as a list of pairs, keys rising; absent keys read as a default the accessor names. -/
abbrev SMap (β : Type) := List (Nat × β)

/-- Value at a key, or the default. -/
def SMap.get {β : Type} (m : SMap β) (d : β) (k : Nat) : β :=
  match m with
  | [] => d
  | (j, v) :: t => if j = k then v else SMap.get t d k

/-- Inserts a pair in key order, replacing the key's old one. -/
def SMap.put {β : Type} (m : SMap β) (k : Nat) (v : β) : SMap β :=
  match m with
  | [] => [(k, v)]
  | (j, x) :: t =>
    if k < j then (k, v) :: (j, x) :: t
    else if k = j then (k, v) :: t
    else (j, x) :: SMap.put t k v

/-- Removes a key. -/
def SMap.drop {β : Type} (m : SMap β) (k : Nat) : SMap β := m.filter (fun p => p.1 != k)

/-- Writes a value: the default removes the entry, so equal contents are equal lists. -/
def SMap.set {β : Type} [DecidableEq β] (m : SMap β) (d : β) (k : Nat) (v : β) : SMap β :=
  if v = d then SMap.drop m k else SMap.put m k v

/-- Keys strictly rising from `lo` on, and no entry equal to the default. -/
def SMap.sorted {β : Type} [DecidableEq β] (d : β) : Nat → SMap β → Bool
  | _, [] => true
  | lo, (k, v) :: t => decide (lo ≤ k) && decide (v ≠ d) && SMap.sorted d (k + 1) t

/-- The canonical form. -/
def SMap.wf {β : Type} [DecidableEq β] (d : β) (m : SMap β) : Bool := SMap.sorted d 0 m

/-- A range of keys, lo ≤ key < hi, whose contents are undefined, and the draw that names its free values. -/
structure Hole where
  lo  : Nat
  hi  : Nat
  gen : Nat
  deriving DecidableEq, Repr

/-- Cells of `w` bits: canonical list of those that are not 0, and the undefined ranges. -/
structure Store (w : Nat) where
  cells : List (Nat × BitVec w)
  holes : List Hole
  deriving DecidableEq, Repr

/-- All zero, nothing undefined (R401, R407: zeros with valid check bits). -/
def Store.empty (w : Nat) : Store w := ⟨[], []⟩

/-- The hole that covers a key, if any. -/
def holeAt (hs : List Hole) (k : Nat) : Option Hole := hs.find? (fun h => h.lo ≤ k && k < h.hi)

/-- Contents of one cell: a free value inside a hole. -/
def Store.get {w : Nat} (s : Store w) (k : Nat) : BitVec w :=
  match holeAt s.holes k with
  | some h => Config.freeBits w h.gen k
  | none => SMap.get s.cells 0 k

/-- What remains of a range when [lo, hi) is taken out of it. -/
def Hole.cut (lo hi : Nat) (h : Hole) : List Hole :=
  if h.hi ≤ lo ∨ hi ≤ h.lo then [h]
  else
    (if h.lo < lo then [{ h with hi := lo }] else []) ++ (if hi < h.hi then [{ h with lo := hi }] else [])

/-- Takes [lo, hi) out of every hole: those keys are defined from now on. -/
def cutHoles (hs : List Hole) (lo hi : Nat) : List Hole := hs.flatMap (Hole.cut lo hi)

/-- Cells outside [lo, hi). -/
def dropRange {β : Type} (m : SMap β) (lo hi : Nat) : SMap β :=
  m.filter (fun p => p.1 < lo || hi ≤ p.1)

/-- The non-zero cells of consecutive values from key `k` on. -/
def cellsFrom {w : Nat} (k : Nat) : List (BitVec w) → List (Nat × BitVec w)
  | [] => []
  | v :: vs => if v = 0 then cellsFrom (k + 1) vs else (k, v) :: cellsFrom (k + 1) vs

/-- Writes consecutive cells from key `lo` on. -/
def Store.write {w : Nat} (s : Store w) (lo : Nat) (vs : List (BitVec w)) : Store w :=
  match vs with
  | [] => s
  | _ =>
    let hi := lo + vs.length
    { cells := s.cells.filter (fun p => p.1 < lo) ++ cellsFrom lo vs ++ s.cells.filter (fun p => hi ≤ p.1)
      holes := cutHoles s.holes lo hi }

/-- Writes one cell. -/
def Store.set {w : Nat} (s : Store w) (k : Nat) (v : BitVec w) : Store w := s.write k [v]

/-- The cells of keys k to k + n − 1 laid out in order, the first of two entries with one key counting. -/
def layOut {w : Nat} (k n : Nat) (m : SMap (BitVec w)) : Array (BitVec w) :=
  m.foldr (fun c a => if k ≤ c.1 then a.setIfInBounds (c.1 - k) c.2 else a) (Array.replicate n 0)

/-- What holes leave of consecutive cells from key `k` on: a free value in each. -/
def overHoles {w : Nat} (hs : List Hole) : Nat → List (BitVec w) → List (BitVec w)
  | _, [] => []
  | k, v :: vs =>
    (match holeAt hs k with
      | some h => Config.freeBits w h.gen k
      | none => v) :: overHoles hs (k + 1) vs

/-- Reads `n` consecutive cells from key `k` on, walking the list once. -/
def Store.read {w : Nat} (s : Store w) (k n : Nat) : List (BitVec w) :=
  let vs := (layOut k n s.cells).toList
  if s.holes.isEmpty then vs else overHoles s.holes k vs

/-- Makes [lo, hi) undefined under a fresh draw. -/
def Store.undef {w : Nat} (s : Store w) (lo hi gen : Nat) : Store w :=
  if lo < hi then
    { cells := dropRange s.cells lo hi
      holes := cutHoles s.holes lo hi ++ [⟨lo, hi, gen⟩] }
  else s

/-- Sets [lo, hi) to zero. -/
def Store.zero {w : Nat} (s : Store w) (lo hi : Nat) : Store w :=
  { cells := dropRange s.cells lo hi, holes := cutHoles s.holes lo hi }

/-- The canonical form of a Store: cells canonical with default 0, none inside a hole. -/
def Store.wf {w : Nat} (s : Store w) : Bool :=
  SMap.wf (0 : BitVec w) s.cells && s.cells.all (fun p => (holeAt s.holes p.1).isNone)

end Sys2Proof.Machine
end

