-- ==== Sys2Proof/Machine/Bits.lean ====
section
/-! DEFINITION. Bit fields, sign extension and little-endian byte order (R4), used by every descriptor, record and
register layout, and the random words of R93 to R95. -/

namespace Sys2Proof.Machine

/-- Bits [hi:lo] of a number. -/
def bits (x hi lo : Nat) : Nat := x / 2 ^ lo % 2 ^ (hi + 1 - lo)

/-- Bit i of a number. -/
def bit (x i : Nat) : Bool := x / 2 ^ i % 2 == 1

def bitOf (b : Bool) : Nat := if b then 1 else 0

/-- R4: value of bytes, least significant first. -/
def leNat : List Byte → Nat
  | [] => 0
  | b :: bs => b.toNat + 256 * leNat bs

/-- R4: the `n` low bytes of a number, least significant first. -/
def leBytes : Nat → Nat → List Byte
  | 0, _ => []
  | n + 1, x => BitVec.ofNat 8 x :: leBytes n (x / 256)

/-- Value of bytes, most significant first (R375, R386). -/
def beNat (bs : List Byte) : Nat := leNat bs.reverse

/-- `n` bytes, most significant first. -/
def beBytes (n x : Nat) : List Byte := (leBytes n x).reverse

/-- `n` bytes at offset `off` of a record, as a number; bytes past its end count as 0. -/
def field (bs : List Byte) (off n : Nat) : Nat := leNat ((bs.drop off).take n)

/-- The 64-bit word at a byte offset. -/
def word64 (bs : List Byte) (off : Nat) : Nat := field bs off 8

/-- Overwrites bytes of a record from offset `off` on. -/
def patch (bs : List Byte) (off : Nat) (new : List Byte) : List Byte :=
  bs.take off ++ new ++ bs.drop (off + new.length)

def zeros (n : Nat) : List Byte := List.replicate n 0

/-- A record padded with zeros to `n` bytes, or cut to them. -/
def padTo (n : Nat) (bs : List Byte) : List Byte := bs.take n ++ zeros (n - bs.length)

/-- 64-byte blocks a byte range touches. -/
def blocksOf (addr n : Nat) : List Nat :=
  if n = 0 then [] else (List.range ((addr + n - 1) / 64 - addr / 64 + 1)).map (· + addr / 64)

/-- Number of blocks of size `b` that hold `n`. -/
def ceilDiv (n b : Nat) : Nat := (n + b - 1) / b

/-- A saturating count. -/
def satCount (w x : Nat) : Nat := min x (2 ^ w - 1)

/-! ### Philox4x32-10 (R93, R94) -/

/-- One round of R93 on (x0, x1, x2, x3) with round keys k0, k1. -/
def philoxRound (x : Nat × Nat × Nat × Nat) (k0 k1 : Nat) : Nat × Nat × Nat × Nat :=
  let p0 := 0xD2511F53 * x.1
  let p1 := 0xCD9E8D57 * x.2.2.1
  (Nat.xor (Nat.xor (p1 / 2 ^ 32) x.2.1) k0, p1 % 2 ^ 32,
   Nat.xor (Nat.xor (p0 / 2 ^ 32) x.2.2.2) k1, p0 % 2 ^ 32)

/-- Ten rounds, the keys rising by the Weyl constants between rounds. -/
def philoxRounds : Nat → Nat × Nat × Nat × Nat → Nat → Nat → Nat × Nat × Nat × Nat
  | 0, x, _, _ => x
  | n + 1, x, k0, k1 =>
    philoxRounds n (philoxRound x k0 k1) ((k0 + 0x9E3779B9) % 2 ^ 32) ((k1 + 0xBB67AE85) % 2 ^ 32)

def philox (c0 c1 c2 c3 k0 k1 : Nat) : Nat × Nat × Nat × Nat := philoxRounds 10 (c0, c1, c2, c3) k0 k1

/-- R94: the random word for element index `i` of a use. -/
def randWord (seed : Word) (tid : BitVec 32) (use step stream sub i : Nat) : BitVec 32 :=
  let k0 := Nat.xor (seed.toNat % 2 ^ 32) tid.toNat
  let k1 := Nat.xor (seed.toNat / 2 ^ 32) (step % 2 ^ 32)
  let q := i / 4
  let r := philox (q % 2 ^ 32) (q / 2 ^ 32 % 2 ^ 14 + use * 2 ^ 16) stream sub k0 k1
  BitVec.ofNat 32 (match i % 4 with
    | 0 => r.1
    | 1 => r.2.1
    | 2 => r.2.2.1
    | _ => r.2.2.2)

end Sys2Proof.Machine
end

