-- ==== Sys2Proof/Machine/State.lean ====
section
/-! DEFINITION. The state of one NK3220 module, as plain data, and its value at reset. Each structure gathers one
chapter's state; each field's docstring cites the rule that names it. Arrays are sparse maps keyed by index (an
absent key reads as the array's reset value). -/

namespace Sys2Proof.Machine

/-! ### Identity, start-up, pins and clocks -/

/-- The two ordering codes of R1. -/
inductive Variant where
  | alc
  | elc
  deriving DecidableEq, Repr

/-- What is fixed at manufacture (R1, R2, R31, R260, R263, R377, R381, R406, R413). -/
structure Fuses where
  variant   : Variant
  stepping  : BitVec 8
  vendorId  : BitVec 16
  serial    : Word
  oui       : BitVec 24
  macBase   : BitVec 48
  jedecId   : BitVec 11
  fuseCount : Nat
  /-- fused spare maps of C0 and C1 (R61, R402 step 5). -/
  spares0   : Word
  spares1   : Word
  /-- QP_BASE of each port (R263). -/
  qpBase    : SMap (BitVec 16)
  deriving DecidableEq, Repr

/-- Why the clocks stand still (R17, R310, R360). -/
inductive StopCause where
  | clockLost
  | lockstep
  | thermtrip
  deriving DecidableEq, Repr

/-- Where the module stands between supplies and READY (R376, R400 to R403). -/
inductive Phase where
  | off
  | inReset
  | starting
  | recovery
  | held
  | ready
  | stopped (c : StopCause)
  deriving DecidableEq, Repr

/-- Start-up, pins, straps and clocks (R14 to R18, R395, R397 to R411). -/
structure Life where
  phase       : Phase
  /-- IDENT.START_STAGE. -/
  stage       : Nat
  startFailed : Bool
  startFault  : BitVec 16
  startUnit   : BitVec 16
  readyMs     : BitVec 16
  resetCause  : BitVec 2
  /-- sampled straps (R399). -/
  tray        : BitVec 2
  slot        : BitVec 4
  /-- MOD_PWRGD released high (R398). -/
  pwrgd       : Bool
  /-- THERMTRIP# low, until power is cycled (R360). -/
  thermtrip   : Bool
  /-- ALERT# asserted by hardware or in recovery (R376, R389), beside a report in the queue (R388). -/
  alertHw     : Bool
  rootLocked  : Bool
  /-- SCLK on the internal oscillator (R17, R402). -/
  oscillator  : Bool
  safelight   : Bool
  /-- failed in-package links, first failure first (R11). -/
  failedLinks : List Nat
  /-- START_TESTS.EXTENDED and START_TEST_RESULT (R411, R412). -/
  extended    : Bool
  lanesRepaired : BitVec 8
  rowsRepaired  : BitVec 8
  sramRemaps    : BitVec 8
  extendedRan   : Bool
  /-- JTAG instruction in force (R413). -/
  jtag        : JtagInstr
  deriving DecidableEq, Repr

/-- R178, R179: STREAM_ACLK and the eight IDLE counters of one die. -/
structure DieCount where
  (stream empty dependency memory peer host frank thermal proof : Nat)
  deriving DecidableEq, Repr

def DieCount.zero : DieCount := ⟨0, 0, 0, 0, 0, 0, 0, 0, 0⟩

/-- What time alone moves (R15, R18, R178): no command changes it but those that start or reset the module. -/
structure Clock where
  /-- MODULE_TIME in CCLK cycles. -/
  time       : Nat
  /-- ACLK cycles since READY; the time base of ELAPSED (R208). -/
  aclk       : Nat
  /-- root periods not yet used by an ACLK cycle, and the cycle's place in the stretch pattern (R363). -/
  rootLeft   : Nat
  stretchPos : Nat
  /-- STRETCHED_ACLK (R369). -/
  stretched  : Nat
  /-- the cycle counters of C0 and C1. -/
  die0       : DieCount
  die1       : DieCount
  deriving DecidableEq, Repr

def Clock.reset : Clock := ⟨0, 0, 0, 0, 0, DieCount.zero, DieCount.zero⟩

/-- The IDE stream (R384). -/
inductive IdeState where
  | off
  | keyed
  | secure
  | insecure
  deriving DecidableEq, Repr

/-- The PCIe function and link (R182 to R184, R384, R405, R409, R412). -/
structure Pcie where
  linkUp       : Bool
  cfgReady     : Bool
  d3hot        : Bool
  ide          : IdeState
  ideKeyRx     : BitVec 256
  ideKeyTx     : BitVec 256
  loopMode     : BitVec 2
  loopMs       : BitVec 16
  loopActive   : Bool
  follower     : Bool
  loopErrors   : BitVec 32
  loopLanes    : BitVec 16
  /-- AER: a host read of the module timed out, or returned a poisoned completion (R182). -/
  aerTimeout   : Bool
  aerPoisoned  : Bool
  deriving DecidableEq, Repr

/-! ### Host side -/

/-- A command fetched from a ring and not completed (R193, R194): fetch order, descriptor bytes, sequence number,
ACLK count at fetch, and whether it has started. -/
structure FetchedCmd where
  id      : Nat
  bytes   : List Byte
  seq     : Nat
  fetched : Nat
  started : Bool
  /-- its status and detail, once only the acknowledgement of frames to a tray peer is awaited (R247). -/
  due     : Option (Nat × Nat)
  deriving DecidableEq, Repr

/-- A submission ring and its registers (R192 to R195, R229). -/
structure Ring where
  base     : Word
  log2     : Nat
  cq       : Nat
  enable   : Bool
  fetched  : Nat
  producer : Nat
  stopped  : Bool
  cause    : Nat
  cmds     : List FetchedCmd
  deriving DecidableEq, Repr

def Ring.reset : Ring := ⟨0, 4, 0, false, 0, 0, false, 0, []⟩

/-- A completion queue and its registers (R209 to R212, R229): records written since enable, and those not yet
covered by an interrupt. -/
structure CQ where
  base      : Word
  log2      : Nat
  enable    : Bool
  irqEnable : Bool
  irqCount  : Nat
  irqTimeUs : Nat
  written   : Nat
  uncovered : Nat
  deriving DecidableEq, Repr

def CQ.reset : CQ := ⟨0, 4, false, false, 0, 0, 0, 0⟩

/-- An MSI-X table entry (R185, R186). -/
structure MsixEntry where
  addr : Word
  data : BitVec 32
  mask : Bool
  deriving DecidableEq, Repr

def MsixEntry.reset : MsixEntry := ⟨0, 0, true⟩

/-- An event record before it is written (R220): `detail` is bytes 32 to 63. -/
structure EventRec where
  kind    : Nat
  code    : Nat
  step    : Nat
  opTag   : BitVec 32
  subject : BitVec 32
  detail  : List Byte
  time    : Nat
  mgmt    : Bool
  deriving DecidableEq, Repr

/-- A UDP packet over IPv6 as it leaves a port, in an untagged frame (R232, R253, R254): its payload follows the UDP header. -/
structure UdpPacket where
  port         : Nat
  (destMac srcMac : BitVec 48)
  (srcIp destIp : BitVec 128)
  trafficClass : BitVec 8
  (srcPort destPort checksum : BitVec 16)
  payload      : List Byte
  deriving DecidableEq, Repr

/-- A packet of an RDMA WRITE as it leaves a port (R258 to R260): the fields the spec names, and the bytes it writes at `addr`. -/
structure RocePacket where
  port         : Nat
  (destMac srcMac : BitVec 48)
  (srcIp destIp : BitVec 128)
  trafficClass : BitVec 8
  flowLabel    : BitVec 20
  hopLimit     : BitVec 8
  pkey         : BitVec 16
  (srcQp destQp psn : BitVec 24)
  rkey         : BitVec 32
  addr         : Word
  bytes        : List Byte
  deriving DecidableEq, Repr

/-- A message of the module to the outside, in the order sent (log 18). -/
inductive Output where
  | hostWrite (addr : Nat) (bytes : List Byte) (relaxed : Bool)
  | hostRead (addr : Nat) (n : Nat)
  | msix (vector : Nat)
  | barData (bytes : List Byte)
  | barPoison (addr : Nat)
  | frame (port : Nat) (mac : BitVec 48) (bytes : List Byte)
  | udp (p : UdpPacket)
  | roce (p : RocePacket)
  | mgmt (code : Nat) (response : Bool) (seq : Nat) (body : List Byte)
  | collector (ip : BitVec 128) (udp : BitVec 16) (body : List Byte)
  | fixedReport (code : Nat)
  | spdm (path : SpdmPath) (code : Nat) (body : List Byte)
  | advert (port : Option Nat) (dest : BitVec 48) (ip : BitVec 128)
  | tdo (bits : BitVec 32)
  deriving DecidableEq, Repr

/-- What waits while the function may issue no PCIe request (R184, R409): a completion record with its queue, ring,
command header, result, fetch time and the number of buffered events raised before it (R214), or another host write. -/
inductive Held where
  | record (cq ring seq : Nat) (tag : List Byte) (status : Nat) (hostDetail : Bool) (detail fetched : Nat) (irq : Bool)
      (events : Nat)
  | other (o : Output)
  deriving DecidableEq, Repr

/-- A DMA_COPY in flight (R223 to R228): source bytes read so far, and the step it belongs to. -/
structure DmaRun where
  ring : Nat
  cmd  : Nat
  root : Word
  got  : List Byte
  step : Option Nat
  deriving DecidableEq, Repr

/-- The host side: rings, queues, doorbell, MSI-X, windows (07). -/
structure HostSide where
  rings      : SMap Ring
  cqs        : SMap CQ
  msix       : SMap MsixEntry
  msixFnMask : Bool
  msixEnable : Bool
  msixPend   : SMap Bool
  /-- DOORBELL_PAGE and DOORBELL_POLL_NS. -/
  pageEnable : Bool
  pageAddr   : Word
  pollNs     : Nat
  polling    : Bool
  failedPolls : Nat
  faultTime  : Option Nat
  /-- the event queue and buffer (R218, R219). -/
  eqEnable   : Bool
  eqBase     : Word
  eqLog2     : Nat
  eqWritten  : Nat
  eqConsumed : Nat
  dropped    : Nat
  droppedNew : Nat
  buffer     : List EventRec
  bar2Base   : Word
  bar2Fault  : Option Nat
  dma        : List DmaRun
  /-- completion records and other host writes held while the function cannot write (R184, R409). -/
  held       : List Held
  deriving DecidableEq, Repr

/-! ### Scale book, numerics, plate -/

/-- A scale (R105): 2^E, or a BF16 value. -/
inductive Scale where
  | exp (e : Int)
  | bf (code : BitVec 16)
  deriving DecidableEq, Repr

/-- A scale book entry (R109). -/
structure Entry where
  tensorId    : BitVec 32
  bound       : Bool
  pinned      : Bool
  curValid    : Bool
  amaxValid   : Bool
  histLen     : Nat
  histCount   : Nat
  histHead    : Nat
  scaleCur    : BitVec 16
  pinScale    : BitVec 16
  amaxCur     : BitVec 16
  curFmt      : Nat
  marginExp   : Nat
  uses        : Nat
  runUnder    : Nat
  runZero     : Nat
  elements    : Nat
  nonfinite   : Nat
  zeros       : Nat
  flushes     : Nat
  subnormals  : Nat
  saturations : Nat
  hist        : SMap (BitVec 16)
  deriving DecidableEq, Repr

def Entry.free : Entry :=
  ⟨0, false, false, false, false, 0, 0, 0, 0, 0, 0, 0, 0, 0, 0, 0, 0, 0, 0, 0, 0, 0, []⟩

/-- Pending tree state of one element (R82, R87): the ladder value so far and the leaves of the latest window. -/
structure ElemAcc where
  lam    : Option (BitVec 24)
  leaves : List (Nat × BitVec 24)
  deriving DecidableEq, Repr

/-- An open fold chain (R84, R85). -/
structure Chain where
  accBase  : Nat
  accSize  : Nat
  spill    : Nat
  outTid   : BitVec 32
  m        : Nat
  n        : Nat
  band     : Nat
  accAdd   : Bool
  mode     : Nat
  float    : Bool
  /-- product of the operands' BF16 scales of an integer chain (R106). -/
  product  : Option Val
  nextPos  : Nat
  kTiles   : Nat
  /-- largest aA × aB over the members so far (R115). -/
  bound    : Val
  elems    : SMap ElemAcc
  ints     : SMap Int
  /-- another agent wrote the region while the chain was open (R85). -/
  spoiled  : Bool
  /-- the MATMUL that begins it, while that has not completed (R85). -/
  opening  : Option Nat
  deriving DecidableEq, Repr

/-- The NUMERICS block and the scale book (R96, R107, R130). -/
structure Numerics where
  seed      : Word
  seedValid : Bool
  histLen   : Nat
  marginExp : Nat
  flushLog2 : Nat
  runLength : Nat
  book      : SMap Entry
  chains    : List Chain
  deriving DecidableEq, Repr

/-- A MATMUL descriptor's fields (R52, R53). -/
structure MatDesc where
  (check barrier band : Nat)
  tag : BitVec 32
  next : Nat
  (aAddr b0Addr b1Addr out0Addr out1Addr : Nat)
  (smoothPage rowstatPage : Nat)
  resultAddr : Nat
  (m n mblock k kTileBase : Nat)
  (aStride bStride outStride spillPage : Nat)
  (aTid bTid outTid : BitVec 32)
  (accBase accSize : Nat)
  (aFmt bFmt outFmt : Nat)
  (aLoadq bLoadq transA transB : Bool)
  (rotA rotB : Nat)
  (smooth split accAdd foldCont foldKeep rowmax rowsum sr : Bool)
  srUse : Nat
  deriving DecidableEq, Repr

/-- Counters of one use of an entry: a drain, a load or the stores under a slot (R127, R152). -/
structure SlotUse where
  scale       : Scale
  fmt         : Nat
  (elements nonfinite zeros flushes subnormals saturations : Nat)
  amax        : Val
  deriving DecidableEq, Repr

/-- A MATMUL between its frank's request and its completion. -/
structure MatRun where
  op       : Nat
  d        : MatDesc
  /-- effective checking mode 1 to 3 (R288), and whether a band op runs whole (R50). -/
  check    : Nat
  asWhole  : Bool
  aEntry   : Entry
  bEntry   : Entry
  oEntry   : Entry
  aScale   : Scale
  bScale   : Scale
  outScale : Scale
  resident : Bool
  boundScaled : Bool
  /-- next pass in the order of R42, and the tiles (row, column) withheld while a re-run or vote pass is owed, with the faults of
  the first run (under FULL, of run P, then of run D) and the residue failures whose outcome is not yet known: the failing
  physical cell column and the COLUMNS of its event (R293, R299, R300). -/
  pass     : Nat
  owed     : List (Nat × Nat)
  first    : List TileFault
  dup      : List TileFault
  residues : List (Nat × List Nat)
  /-- blocks drained in this run. -/
  drained  : Nat
  elems    : SMap ElemAcc
  ints     : SMap Int
  /-- result slots C, by element index: A24 code or I48 two's complement. -/
  results  : SMap (BitVec 48)
  /-- counters of the current run (R127), saturations of I48 results (R74), the largest |value / scale| that saturated,
  and the counters of the loads (R117). -/
  cnt      : SlotUse
  intSat   : Nat
  aSat     : Val
  aUse     : Option SlotUse
  bUse     : Option SlotUse
  brackets : Nat
  /-- 0: in progress; 1: bracket due; 2: final. -/
  decided  : Nat
  (ladder masked ramped partner : Bool)
  voted    : Bool
  culprit  : Nat
  /-- L_B and T_start of the run, ACLK of its amax passes, W of each of its franks, and ACLK so far (R63, R64, R117). -/
  (lb start extra watts plateAclk : Nat)
  /-- a forward band's A rows cross the link (R51). -/
  slowA    : Bool
  /-- ACLK count at which the first row of the pass at hand streams, and whether the plate ramps until then (R64, R357). -/
  rowsFrom : Nat
  ramping  : Bool
  /-- DUET_ENABLE as latched. -/
  duet     : Bool
  /-- ranges of the output that overlap operands (R56). -/
  overlap  : List (Nat × Nat)
  failure  : Option (Nat × Option Word)
  /-- votes on each die: drain rows and folds (R295, R296), and the event code and die of a vote in which no two agreed. -/
  (drainVotes0 drainVotes1 foldVotes0 foldVotes1 : Nat)
  lostVote : Option (Nat × Nat)
  deriving DecidableEq, Repr

/-- The PLATE block and plate status (R31, R61, R304, R317, R357). -/
structure Plate where
  checkDefault : BitVec 2
  duet         : Bool
  spares0      : Word
  spares1      : Word
  matmulCount  : Nat
  warm         : Bool
  /-- ACLK count at which the plate, cooling, gated its first column group (R357). -/
  cooling      : Option Nat
  /-- height of the last pass streamed and MODULE_TIME at its end (R64). -/
  lastPass     : Option (Nat × Nat)
  scrubSram    : Bool
  scrubHbm     : Bool
  /-- memories of R305 over which a scrub pass is under way, and SRAMs scrubbed since SCRUB_PASSES last counted (R317, R318). -/
  scrubbing    : List Nat
  scrubbed     : List Nat
  sramMin      : Nat
  hbmHours     : Nat
  /-- times at which each physical cell column was the culprit of a masked fault (R304). -/
  culprits     : List (Nat × Nat)
  /-- columns scheduled for a spare (R304), and switches recorded in flash (R338). -/
  scheduled    : List Nat
  laneCulprits : List (Nat × Nat)
  lanesScheduled : List Nat
  laneSpares   : List Nat
  coresScheduled : List Nat
  coreRetired  : Option Nat
  watchTimes   : List (Nat × Nat)
  running      : List MatRun
  deriving DecidableEq, Repr

/-! ### Vector engines -/

/-- A result and when it is available, for the timing of R168: the names it covers (lo ≤ name < hi), start, occupancy,
latency. -/
structure Pipe where
  lo    : Nat
  hi    : Nat
  start : Nat
  occ   : Nat
  lat   : Nat
  deriving DecidableEq, Repr

/-- The VEC an engine runs (R137): program, next word, the slots' entries as read, scales and counters of its
stores, words executed, and the timing scoreboard. -/
structure VecRun where
  op      : Nat
  prog    : List Word
  pc      : Nat
  ended   : Bool
  check   : Nat
  root    : Word
  seed    : Word
  step    : Nat
  tids    : List (BitVec 32)
  useCtr  : List (BitVec 16)
  valid   : List Bool
  entries : List Entry
  uses    : SMap (Option SlotUse)
  words   : Nat
  failure : Option (Nat × Nat)
  faultPc : Option Nat
  masked  : Bool
  lastStart : Nat
  lastOcc : Nat
  busyEnd : Nat
  pipes   : List Pipe
  /-- statistics groups of the engine as they stood at the start (R170), and the virtual ranges written. -/
  gstat0  : SMap (BitVec 24 × Nat)
  wrote   : List (Nat × Nat)
  deriving DecidableEq, Repr

/-- One vector engine (R132, R154, R165): element i of Vn is cell n × 65,536 + i, likewise for predicates; segment
s of table slot t is cell t × 4,096 + s. A group holds LOCAL_SQ and LOCAL_UNITS. -/
structure Engine where
  v      : Store 16
  s      : SMap Word
  p      : Store 1
  q      : Store 64
  tables : Store 64
  gstat  : SMap (BitVec 24 × Nat)
  run    : Option VecRun
  deriving DecidableEq, Repr

def Engine.reset : Engine := ⟨Store.empty 16, [], Store.empty 1, Store.empty 64, Store.empty 64, [], none⟩

/-- Both engines, the reduced statistics (R275), and the VECTOR counters (R171). -/
structure Vectors where
  e0 : Engine
  e1 : Engine
  reduced : SMap (BitVec 24 × Nat)
  vecCount0 : Nat
  vecCount1 : Nat
  branchCount : Nat
  branchMaxNs : Nat
  deriving DecidableEq, Repr

/-! ### Sequencer -/

/-- An OP_PROGRAM in flight (R29, R62, R97, R131, R198): what it latched, the next op, and its statuses so far. -/
structure Program where
  ring      : Nat
  cmd       : Nat
  root      : Word
  check     : BitVec 2
  duet      : Bool
  seed      : Word
  histLen   : Nat
  marginExp : Nat
  flushLog2 : Nat
  runLength : Nat
  /-- address of the next op to take; none: the list has ended or the program has stopped. -/
  next      : Option Nat
  stopped   : Bool
  completed : Nat
  /-- first failure: status, OP_TAG, and the R19 detail of an ADDRESS_FAULT. -/
  failure   : Option (Nat × BitVec 32 × Option Word)
  saturated : Option (BitVec 32)
  best      : Nat
  bestTag   : BitVec 32
  proofFailed : Bool
  deriving DecidableEq, Repr

/-- How far an op in the ready window has come: taken, asking for a frank, or issued. -/
inductive OpPhase where
  | taken
  | asking
  | issued
  deriving DecidableEq, Repr

/-- An op in the ready window (R52, R55): take order is `id`; the descriptor's address and 128 bytes; the step it belongs to
once issued; MODULE_TIME at issue. `sum` is kind-specific progress (bytes written by a MOVE, issue order of a WAIT, Q as a
BRANCH read it);
`begun`: its effect has begun. -/
structure Op where
  id    : Nat
  ring  : Nat
  kind  : Nat
  addr  : Nat
  desc  : List Byte
  phase : OpPhase
  step  : Option Nat
  issueTime : Nat
  sum   : Nat
  begun : Bool
  /-- a MOVE that failed while frames of it were on their way: its status and detail (R252). -/
  ending : Option (Nat × Option Word)
  deriving DecidableEq, Repr

/-- Programs and the ready window. -/
structure Seq where
  programs : List Program
  window   : List Op
  sems     : Store 32
  /-- by ring: MODULE_TIME at the issue of a BRANCH whose target has issued nothing yet (R171). -/
  branches : SMap (Option Nat)
  deriving DecidableEq, Repr

/-! ### Network -/

/-- An Ethernet port (R231 to R243, R263, R408, R412). -/
structure Port where
  (enable gen medium role : Nat)
  state      : Nat
  dead       : Nat
  numDiffers : Bool
  negMinor   : Nat
  peerNode   : BitVec 32
  heard      : Option Lldpdu
  nextHop    : Option (BitVec 48)
  fecCorrected : Nat
  fecUncorrected : Nat
  dropped    : Nat
  loopMode   : Nat
  loopPattern : Nat
  laneErrors : Word
  sent       : BitVec 32
  good       : BitVec 32
  deriving DecidableEq, Repr

def Port.reset : Port :=
  ⟨0, 3, 2, 0, 0, 0, false, 0, 0, none, none, 0, 0, 0, 0, 0, 0, 0, 0⟩

/-- A topology entry (R239). -/
structure TopoEntry where
  (kind peerPort peerMember peerNode : Nat)
  chassis : List Byte
  deriving DecidableEq, Repr

def TopoEntry.unused : TopoEntry := ⟨0, 0, 0, 0, []⟩

/-- A Yehosen frame kept by its sender or held by its receiver (R245, R246): `op` is the op waiting for it. -/
structure YeFrame where
  seq     : Nat
  typ     : Nat
  addr    : Nat
  len     : Nat
  tag     : Nat
  payload : List Byte
  op      : Option Nat
  deriving DecidableEq, Repr

/-- A READ_REQ for blocks of a peer's tray window (R22, R247): its tag, the offset and length asked for, the op or command
that needs them, and the data once its READ_RESP has come. -/
structure WindowRead where
  tag   : Nat
  off   : Nat
  len   : Nat
  actor : Nat
  data  : Option (List Byte)
  deriving DecidableEq, Repr

/-- The two directions of the channel with one tray peer (R246). -/
structure Channel where
  nextSeq : Nat
  unacked : List YeFrame
  applied : Nat
  early   : List YeFrame
  nextTag : Nat
  /-- blocks the present event needs of the peer's window, by offset and length (the model's own: none between events), and the
  reads of the window (R22). -/
  wanted  : List (Nat × Nat)
  windows : List WindowRead
  /-- TRAY_PEER_LOST was written since the pair was last UP (R249). -/
  lost    : Bool
  deriving DecidableEq, Repr

def Channel.reset : Channel := ⟨0, [], 0xFFFFFF, [], 0, [], [], false⟩

/-- A read outstanding at a tray peer for a MOVE (R247): tag, destination and row bytes. -/
structure YeRead where
  member : Nat
  tag    : Nat
  op     : Nat
  dst    : Nat
  virt   : Bool
  len    : Nat
  deriving DecidableEq, Repr

/-- An NPT session with a node (R255, R257). -/
structure Session where
  isOpen    : Bool
  dead      : Bool
  numerics  : Nat
  label     : List Byte
  /-- rate as a fraction of the ports' sum, in units of 2^-32. -/
  rate      : Nat
  lastCut   : Option Nat
  deriving DecidableEq, Repr

def Session.none : Session := ⟨false, false, 0, [], 2 ^ 32, .none⟩

/-- A chunk kept until it is acknowledged (R256). -/
structure OutChunk where
  id     : Nat
  node   : Nat
  /-- TYPE of R254: 1 a chunk, 6 a message. -/
  kind   : Nat
  h      : NptHeader
  bytes  : List Byte
  op     : Option Nat
  /-- it has been sent once; it waits for a session or a port; its receiver answered BUSY. -/
  gone   : Bool
  waits  : Bool
  busy   : Bool
  /-- a port that carried it has failed since it went out (R235). -/
  failed : Bool
  /-- how often it has gone out, and the ports its packets took the last time (R256). -/
  tries  : Nat
  ports  : List Nat
  deriving DecidableEq, Repr

/-- An entry of the target table (R259). -/
structure Target where
  addr  : BitVec 128
  rkey  : BitVec 32
  qpn   : Nat
  base  : Nat
  limit : Nat
  ports : List Nat
  deriving DecidableEq, Repr

def Target.none : Target := ⟨0, 0, 0, 0, 0, []⟩

/-- What the run-time writes in a queue pair's context (R260), but for SQ_PSN. -/
structure QpContext where
  nextHop    : BitVec 48
  ackTimeout : Nat
  rnrRetry   : Nat
  trafficClass : BitVec 8
  hopLimit   : BitVec 8
  flowLabel  : BitVec 20
  pkey       : BitVec 16
  deriving DecidableEq, Repr

def QpContext.none : QpContext := ⟨0, 0, 0, 0, 0, 0, 0⟩

/-- A queue pair (R258, R260, R261). -/
structure QP where
  state   : Nat
  psn     : Nat
  unacked : List (Nat × Nat × List Byte)
  retries : Nat
  /-- rate as a fraction of the port's, in units of 2^-32, and when it was last cut (R257). -/
  rate    : Nat
  lastCut : Option Nat
  inUse   : Bool
  /-- the context as LOAD read it, and the target's entry as the command that uses the queue pair read it. -/
  ctx     : QpContext
  remote  : Target
  deriving DecidableEq, Repr

def QP.reset : QP := ⟨0, 0, [], 0, 2 ^ 32, none, false, .none, .none⟩

/-- A group definition (R266). -/
structure GroupDef where
  epoch   : Nat
  members : List Nat
  deriving DecidableEq, Repr

/-- The fields of a COLL descriptor (R268). -/
structure CollDesc where
  kind : Nat
  (inTidv outTidv sr widen : Bool)
  tag : BitVec 32
  group : Nat
  collId : BitVec 32
  (inAddr outAddr stageAddr resultAddr : Nat)
  (count inFmt outFmt leafLog2 peer srUse : Nat)
  (inStride outStride stageBytes : Nat)
  (inTid outTid : BitVec 32)
  gstatGroup : Nat
  gstatEn : Bool
  gstatUnits : Nat
  deriving DecidableEq, Repr

/-- A merged chunk (R277, R278). -/
structure RxChunk where
  (phase rank index : Nat)
  scale : Int
  bytes : List Byte
  deriving DecidableEq, Repr

/-- A COLL in flight (R268 to R285). -/
structure CollRun where
  op      : Nat
  d       : CollDesc
  g       : GroupDef
  rank    : Nat
  /-- C of R272. -/
  chunk   : Nat
  /-- own input in wire form, its scale as an exponent and as the entry holds it, and E_out (R273, R274). -/
  own     : List Byte
  inExp   : Int
  inScale : Scale
  outExp  : Int
  rx      : List RxChunk
  /-- own drained shard, once formed, and the counters of its drain (R274). -/
  drained : Option (List Byte)
  counters : Option SlotUse
  /-- block bytes sent, and chunks sent again after a port failure (R285). -/
  sent    : Nat
  resent  : Nat
  early   : Bool
  masked  : Bool
  scalesDiffer : Bool
  culpritRank : Option Nat
  deriving DecidableEq, Repr

/-- A chunk held before its COLL starts (R279). -/
structure EarlyChunk where
  node  : Nat
  h     : NptHeader
  bytes : List Byte
  deriving DecidableEq, Repr

/-- The network side: ports, tray channels, NPT, RoCEv2 and the collectives engine (08, 09). -/
structure Net where
  nodeId    : BitVec 17
  nodeValid : Bool
  topoBase  : Word
  topoGen   : BitVec 32
  topo      : SMap TopoEntry
  collTimeout : Nat
  group     : Nat
  udpPort   : Nat
  dscp      : Nat
  chunkLog2 : Nat
  prefix6   : Word
  rdmaTargets : Word
  qpBaseReg : Word
  qpResult  : Nat
  ports     : SMap Port
  channels  : SMap Channel
  reads     : List YeRead
  /-- reads of a MOVE that wait for a free tag, each with the peer address it reads (R247). -/
  pulls     : List (Nat × YeRead)
  sessions  : SMap Session
  out       : List OutChunk
  qps       : SMap QP
  active    : SMap (Option GroupDef)
  pendingGroups : SMap (Option GroupDef)
  epoch     : Nat
  colls     : List CollRun
  closed    : List (BitVec 32 × Nat × Nat × Option Nat)
  early     : List EarlyChunk
  collCount : Nat
  deriving DecidableEq, Repr

/-! ### Proof, mirror, checkpoint -/

/-- A region of the kept table (R326). -/
structure KeptRegion where
  vbase : Nat
  pages : Nat
  id    : Nat
  replicated : Bool
  checkpoint : Bool
  group : Nat
  offset : Nat
  deriving DecidableEq, Repr

/-- The kept table in force (R326): contact sheet offset and regions. -/
structure KeptTable where
  sheet   : Nat
  regions : List KeptRegion
  deriving DecidableEq, Repr

/-- A redirection in the negative log (R327). -/
structure Redir where
  step : Nat
  page : Nat
  pte  : Nat
  old  : Nat
  new  : Nat
  deriving DecidableEq, Repr

/-- States of a step that is not PROVED (R321). -/
inductive StepState where
  | isOpen
  | replaying
  | latent
  | failed
  deriving DecidableEq, Repr

/-- A step not yet proved (R321 to R325): the epoch it runs under, causes found so far, the verdict's parts, and
the scale book at its start (R329). -/
structure StepRec where
  num    : Nat
  st     : StepState
  epoch  : Nat
  /-- own cause of a dirty verdict: 0 none, else the code of R346. -/
  cause  : Nat
  /-- verdict formed at close; children heard with the combined cause and lowest failing rank. -/
  closed : Bool
  heard  : List Nat
  combined : Nat
  lowest : Nat
  sentUp : Bool
  outcome : Option Nat
  /-- the node its cut was sent to when it closed, and whether that node has acknowledged it (R336). -/
  mirrorTo : Option Nat
  mirrorAcked : Bool
  /-- the proof group's definition when the step closed (R322). -/
  group  : Option GroupDef
  book   : SMap Entry
  deriving DecidableEq, Repr

/-- A mirror cut (R336): step, pages by region and page number, scale image. -/
structure Cut where
  step  : Nat
  pages : List (Nat × Nat × List Byte)
  image : Option (List Byte)
  whole : Bool
  deriving DecidableEq, Repr

/-- The store a module keeps for its source (R335). -/
structure MirrorStore where
  base   : Nat
  pages  : Nat
  source : Nat
  valid  : Bool
  staged : List Cut
  committed : Option Cut
  deriving DecidableEq, Repr

def MirrorStore.none : MirrorStore := ⟨0, 0, 0, false, [], .none⟩

/-- What a step boundary is waited for by (R319): a STEP_MARK command or a STEP op. -/
inductive BoundaryBy where
  | mark (ring : Nat) (cmd : Nat)
  | op (id : Nat)
  deriving DecidableEq, Repr

/-- A boundary in progress (R319, R320, R333). -/
structure Boundary where
  by_    : BoundaryBy
  step   : Nat
  epoch  : Nat
  replay : Bool
  /-- the kept table that applies from the step it opens. -/
  table  : Option KeptTable
  /-- replay: poisoned blocks of kept pages not repaired, redirections undone, steps forgotten, and its start. -/
  bad    : List Nat
  undone : Nat
  forgotten : Nat
  since  : Nat
  deriving DecidableEq, Repr

/-- A checkpoint in progress (R340 to R344): target, queue pair, slot, step, mode, the writes to come (remote address
and bytes, the first outstanding), bytes written. -/
structure CkptRun where
  ring   : Nat
  cmd    : Nat
  target : Nat
  qp     : Nat
  step   : Nat
  mode   : Nat
  slot   : Nat
  writes : List (Nat × List Byte)
  done   : Nat
  deriving DecidableEq, Repr

/-- The PROOF block and what stands behind it (11). -/
structure Proof where
  depth      : Nat
  group      : Nat
  depthLatched : Nat
  keptBase   : Word
  keptWritten : Bool
  keptDirty  : Bool
  poolBase   : Word
  poolPages  : Nat
  mirrorCap  : Nat
  nextSlot   : Nat
  stepNow    : Nat
  stepProved : Nat
  steps      : List StepRec
  boundary   : Option Boundary
  kept       : Option KeptTable
  free       : List Nat
  low        : Nat
  lowTold    : Bool
  log        : List Redir
  partner    : Option Nat
  partnerWhole : Bool
  mirrorStep : Nat
  store      : MirrorStore
  restore    : Option (Nat × Nat × Nat)
  repair     : Option (List (Nat × Nat))
  ckpt       : Option CkptRun
  /-- the SNAPSHOTs that wait for a boundary: ring, command, PT_ROOT as latched (R339). -/
  snapshots  : List (Nat × Nat × Word)
  /-- the cycle counters at the previous step boundary (R181). -/
  idle0      : DieCount
  idle1      : DieCount
  /-- the boundary in progress has closed its step and waits for the proof window (R325). -/
  waiting    : Bool
  /-- layout epoch of the newest proved step (R343). -/
  provedEpoch : Nat
  /-- the newest SCOPE 1 snapshot of each step: the step, and where it lies (R340). -/
  fullImages : List (Nat × Nat)
  deriving DecidableEq, Repr

/-! ### Power -/

/-- An energy class (R350, R361, R368): TABLE_W in mW, operations measured. -/
structure EnergyClass where
  tableMw  : Nat
  measured : Nat
  deriving DecidableEq, Repr

def EnergyClass.reset : EnergyClass := ⟨0, 0⟩

/-- What a frank is for (R349): a run of an op, the FULL pair, a bracket, a vote, or a top-up (R362). -/
inductive FrankUse where
  | run
  | bracket
  | vote
  | topUp
  deriving DecidableEq, Repr

/-- A request or a held frank (R351 to R356, R361): W in watts, duration in µs; share and duty as numerator over 6
and over 2 L_B for attribution; energy attributed so far in mW·µs and µs held. -/
structure Frank where
  id       : Nat
  op       : Nat
  use_     : FrankUse
  cls      : Nat
  watts    : Nat
  dur      : Nat
  band     : Nat
  shareNum : Nat
  shareDen : Nat
  dutyNum  : Nat
  dutyDen  : Nat
  denied   : Bool
  /-- its denial has been counted (R369), MODULE_TIME since which it is denied, and FRANK_CONFIG as the request found it (R368). -/
  counted  : Bool
  deniedAt : Nat
  timeoutMs : Nat
  ageUs    : Nat
  aged     : Bool
  thermalOnly : Bool
  energy   : Int
  ran      : Nat
  /-- MODULE_TIME of the request, then of the grant. -/
  since    : Nat
  /-- for a top-up, the held frank it tops up. -/
  parent   : Nat
  deriving DecidableEq, Repr

/-- The POWER block, sensors and governor (12). -/
structure Power where
  limitRequest : Nat
  boardCap     : Nat
  timeoutMs    : Nat
  ageUs        : Nat
  classes      : SMap EnergyClass
  l85          : Nat
  theta        : List Nat
  standingMw   : Nat
  held         : List Frank
  requests     : List Frank
  dieMax       : List Int
  dieAvg       : List Int
  dieIdx       : List (BitVec 6)
  hbmTemp      : List Int
  inlet        : Int
  hold         : Bool
  stacksRefuse : List Nat
  stretch      : Nat
  drift        : Bool
  driftTopUp   : Bool
  /-- excess over P_charged of the latest consecutive samples above it, newest first, at most 20 (R362). -/
  overs        : List Nat
  clampMs      : Bool
  clampUs      : Bool
  clampTime    : Option Nat
  samples      : List Nat
  peak10       : Nat
  vinMv        : BitVec 16
  iin10ma      : BitVec 16
  deriving DecidableEq, Repr

/-! ### Firmware and management -/

/-- What acceptance of an image reads from it (R374, R375). -/
structure ImageInfo where
  version    : BitVec 32
  secVersion : Nat
  digest     : BitVec 512
  deriving DecidableEq, Repr

/-- A flash slot (R373): a factory image (log 7), or staged bytes in an erased slot. -/
structure Slot where
  factory : Option ImageInfo
  bytes   : Store 8
  deriving DecidableEq, Repr

/-- Slots and the boot record of one image kind (R373, R376): active slot, pending slot, verified staging. -/
structure ImageBank where
  a : Slot
  b : Slot
  active   : Nat
  pending  : Option Nat
  tried    : Bool
  running  : Option ImageInfo
  deriving DecidableEq, Repr

/-- Which path holds the update lock (R378). -/
inductive LockHolder where
  | host
  | controller
  deriving DecidableEq, Repr

/-- A report in Gyton's queue (R386, R388). -/
structure Report where
  seq     : Nat
  event   : EventRec
  evSeq   : Option Nat
  dropped : Nat
  deriving DecidableEq, Repr

/-- An SPDM connection on one transport (R382). -/
structure Spdm where
  version : Bool
  caps    : Bool
  algs    : Bool
  session : Option (BitVec 512)
  established : Bool
  keyGen  : Nat
  deriving DecidableEq, Repr

def Spdm.reset : Spdm := ⟨false, false, false, none, false, 0⟩

/-- Gyton's domain: images, mailbox, management path, attestation (13). -/
structure Firmware where
  gyton    : ImageBank
  rolrohan : ImageBank
  bootGen  : Nat
  fellBack : Bool
  lock     : Option LockHolder
  stagedKind : Nat
  verified : Bool
  mboxArgs : SMap Word
  mboxResult : BitVec 8
  mboxTag  : BitVec 16
  mboxDetail : BitVec 32
  handovers : Nat
  /-- the firewall on X is set, and Rolrohan's code memory write-locked (R371). -/
  firewall : Bool
  eid      : BitVec 8
  requester : BitVec 8
  i3c      : Option (BitVec 7)
  collector : Option (BitVec 128 × BitVec 16)
  collIface : BitVec 8
  /-- events bound for the management path that have not reached the queue (R387). -/
  bound    : List (EventRec × Option Nat)
  queue    : List Report
  nextSeq  : Nat
  mgmtDropped : Nat
  droppedSince : Nat
  spdmDoe  : Spdm
  spdmMctp : Spdm
  /-- secrets of every session opened since the last HANDOVER or reset (R391). -/
  secrets  : List (BitVec 512)
  /-- HBM rows recorded for repair, by frame number (R309). -/
  repairs  : List Nat
  rowErrors : List (Nat × Nat)
  deriving DecidableEq, Repr

/-- HBM_TEST and its results (R410, R412). -/
structure HbmTest where
  stack    : Nat
  mode     : Nat
  busy     : Bool
  pass     : Bool
  refused  : Bool
  fails    : BitVec 32
  firstRow : BitVec 32
  deriving DecidableEq, Repr

/-! ### Memory -/

/-- Device memory (R19, R28, R307): contents, poisoned 64-byte blocks, cell errors not yet met (1 correctable,
2 uncorrectable, by block number), the translation cache keyed by (root, page), and PT_CONTROL. -/
structure Memory where
  ram      : Store 8
  poison   : SMap Bool
  latent   : SMap Nat
  ptRoot   : Word
  invBusy  : Bool
  tlb      : List ((Nat × Nat) × Word)
  /-- last MEM_CORRECTED event per memory (R306). -/
  corrTime : SMap (Option Nat)
  corrAddr : SMap (Option Nat)
  deriving DecidableEq, Repr

/-- The module. -/
structure State where
  /-- commands waiting, first in first out (the model's own). -/
  pending  : List Instr
  /-- messages sent, oldest first (the model's own, log 18). -/
  outbox   : List Output
  /-- draws of free values so far (the model's own, log 10). -/
  freeGen  : Nat
  /-- names given so far to commands, ops, requests and chunks (the model's own, log 1). -/
  nextId   : Nat
  /-- the op or command an event acts for, and its OP_TAG: none between events (the model's own, log 68). -/
  actor    : Option (Nat × Nat)
  fuses    : Fuses
  life     : Life
  clock    : Clock
  pcie     : Pcie
  host     : HostSide
  mem      : Memory
  numerics : Numerics
  plate    : Plate
  vec      : Vectors
  seq      : Seq
  net      : Net
  proof    : Proof
  power    : Power
  fw       : Firmware
  hbmTest  : HbmTest
  /-- the event counters of the TELEMETRY block, by byte offset from 0x009_0000 (R318, R369). -/
  tele     : SMap Nat
  deriving DecidableEq, Repr

/-- Reasons a step may stop with a fault: there are none. Every error the manual describes is a status, an event, a
held or stopped module, all of them states. -/
inductive Fault where
  deriving DecidableEq, Repr

/-- Reasons a step may be refused. -/
inductive Refusal where
  /-- Raised by the dispatcher for a command that has no meaning in this model. Safe: nothing is claimed. -/
  | notModelled (mnemonic : String)
  deriving DecidableEq, Repr

/-! ### Reset -/

/-- Log 4: the manual gives these no numbers; the reset state is an ELC module, stepping A0, zeros elsewhere. -/
def Fuses.reset : Fuses := ⟨.elc, 0, 0, 0, 0, 0, 0, 0, 0xFFFFFFFFFFFFFFFF, 0xFFFFFFFFFFFFFFFF, []⟩

def Life.reset : Life :=
  { phase := .off, stage := 0, startFailed := false, startFault := 0, startUnit := 0, readyMs := 0, resetCause := 1
    tray := 0, slot := 0, pwrgd := false, thermtrip := false, alertHw := false, rootLocked := false
    oscillator := true, safelight := false, failedLinks := []
    extended := false, lanesRepaired := 0, rowsRepaired := 0, sramRemaps := 0, extendedRan := false, jtag := .bypass }

def Pcie.reset : Pcie := ⟨false, false, false, .off, 0, 0, 0, 0, false, false, 0, 0, false, false⟩

/-- R229: the RINGS block and what hangs on it. -/
def HostSide.reset : HostSide :=
  { rings := [], cqs := [], msix := [], msixFnMask := false, msixEnable := false, msixPend := []
    pageEnable := false, pageAddr := 0, pollNs := 0x1F4, polling := false, failedPolls := 0, faultTime := none
    eqEnable := false, eqBase := 0, eqLog2 := 0xA, eqWritten := 0, eqConsumed := 0, dropped := 0, droppedNew := 0
    buffer := [], bar2Base := 0, bar2Fault := none, dma := [], held := [] }

/-- R96, R109, R130. -/
def Numerics.reset : Numerics := ⟨0, false, 0x10, 1, 4, 0x20, [], []⟩

/-- R61, R317, R407: LIGHT, no duet, plate cold, scrubbing on at the default periods. -/
def Plate.reset : Plate :=
  { checkDefault := 2, duet := false, spares0 := 0xFFFFFFFFFFFFFFFF, spares1 := 0xFFFFFFFFFFFFFFFF
    matmulCount := 0, warm := false, cooling := none, lastPass := none
    scrubSram := true, scrubHbm := true, scrubbing := [], scrubbed := [], sramMin := 0x3C, hbmHours := 0x18
    culprits := [], scheduled := [], laneCulprits := [], lanesScheduled := [], laneSpares := []
    coresScheduled := [], coreRetired := none, watchTimes := [], running := [] }

def Vectors.reset : Vectors := ⟨Engine.reset, Engine.reset, [], 0, 0, 0, 0⟩

def Seq.reset : Seq := ⟨[], [], Store.empty 32, []⟩

/-- R263, R287. -/
def Net.reset : Net :=
  { nodeId := 0, nodeValid := false, topoBase := 0, topoGen := 0, topo := [], collTimeout := 0xC350, group := 0
    udpPort := 0x4E50, dscp := 0x1A, chunkLog2 := 0x10, prefix6 := 0, rdmaTargets := 0, qpBaseReg := 0, qpResult := 0
    ports := [], channels := [], reads := [], pulls := [], sessions := [], out := [], qps := [], active := []
    pendingGroups := [], epoch := 0, colls := [], closed := [], early := [], collCount := 0 }

/-- R347. -/
def Proof.reset : Proof :=
  { depth := 1, group := 0, depthLatched := 1, keptBase := 0, keptWritten := false, keptDirty := false
    poolBase := 0, poolPages := 0, mirrorCap := 0xF, nextSlot := 0, stepNow := 0, stepProved := 0, steps := []
    boundary := none, kept := none, free := [], low := 0, lowTold := false, log := [], partner := none
    partnerWhole := false, mirrorStep := 0, store := MirrorStore.none, restore := none, repair := none, ckpt := none
    snapshots := [], idle0 := DieCount.zero, idle1 := DieCount.zero, waiting := false
    provedEpoch := 0, fullImages := [] }

/-- R368, R369; θ of R358 in millionths of °C/W. -/
def Power.reset : Power :=
  { limitRequest := 0x898, boardCap := 0x898, timeoutMs := 0x32, ageUs := 0x32, classes := [], l85 := 0
    theta := [75000, 75000, 90000], standingMw := 0, held := [], requests := [], dieMax := [0, 0, 0]
    dieAvg := [0, 0, 0], dieIdx := [0, 0, 0], hbmTemp := [], inlet := 0, hold := false, stacksRefuse := []
    stretch := 0, drift := false, driftTopUp := false, overs := [], clampMs := false
    clampUs := false, clampTime := none, samples := [], peak10 := 0, vinMv := 0, iin10ma := 0 }

/-- Log 7: the factory image the reset state finds in slot A of each kind. -/
def Slot.factoryA : Slot := ⟨some ⟨0, 0, 0⟩, Store.empty 8⟩
def Slot.erased : Slot := ⟨none, Store.empty 8⟩
def ImageBank.reset : ImageBank := ⟨Slot.factoryA, Slot.erased, 0, none, false, none⟩

def Firmware.reset : Firmware :=
  { gyton := ImageBank.reset, rolrohan := ImageBank.reset, bootGen := 0, fellBack := false, lock := none
    stagedKind := 0, verified := false, mboxArgs := [], mboxResult := 0, mboxTag := 0, mboxDetail := 0
    handovers := 0, firewall := false, eid := 0, requester := 0, i3c := none, collector := none, collIface := 0, bound := []
    queue := [], nextSeq := 0, mgmtDropped := 0, droppedSince := 0, spdmDoe := Spdm.reset
    spdmMctp := Spdm.reset, secrets := [], repairs := [], rowErrors := [] }

def HbmTest.reset : HbmTest := ⟨0, 0, false, false, false, 0, 0⟩

def Memory.reset : Memory := ⟨Store.empty 8, [], [], 0, false, [], [], []⟩

/-- The module with every register at its reset value, before its supplies arrive (log 3). -/
def State.reset : State :=
  { pending := [], outbox := [], freeGen := 0, nextId := 0, actor := none, fuses := Fuses.reset, life := Life.reset
    clock := Clock.reset
    pcie := Pcie.reset, host := HostSide.reset, mem := Memory.reset, numerics := Numerics.reset, plate := Plate.reset
    vec := Vectors.reset, seq := Seq.reset, net := Net.reset, proof := Proof.reset, power := Power.reset
    fw := Firmware.reset, hbmTest := HbmTest.reset, tele := [] }

end Sys2Proof.Machine
end

