-- ==== Sys2Proof/Machine/Events.lean ====
section
/-! DEFINITION. What the module sends: host writes, MSI-X messages, completion records (R208 to R212), event records
(R218 to R222) and reports bound for the management path (R387). -/

namespace Sys2Proof.Machine

/-- Sends a message of the module to the outside. -/
def State.send (s : State) (o : Output) : State := { s with outbox := s.outbox ++ [o] }

/-- A fresh name for a command, op, request or chunk. -/
def State.fresh (s : State) : Nat × State := (s.nextId, { s with nextId := s.nextId + 1 })

/-- The next draw of free values (log 10). -/
def State.draw (s : State) : Nat × State := (s.freeGen, { s with freeGen := s.freeGen + 1 })

/-- The module runs and answers its rings (R230, R404). -/
def State.isReady (s : State) : Bool := s.life.phase == .ready

/-- The function may issue PCIe requests: link up, configuration ready, D0, no loop (R184, R409). -/
def State.mayRequest (s : State) : Bool :=
  s.pcie.linkUp && s.pcie.cfgReady && !s.pcie.d3hot && !s.pcie.loopActive && !s.pcie.follower

/-- OP_TAG of the op an event acts for (R220): 0 for a command, and where no op is concerned. -/
def State.actorTag (s : State) : Nat := (s.actor.map (·.2)).getD 0

/-- The open step's record, if a step is open (R319). -/
def State.openStep (s : State) : Option StepRec :=
  s.proof.steps.find? (fun r => r.st == .isOpen || r.st == .replaying ||
    (r.st == .failed && !r.closed))

/-- The step an event or op raised now belongs to: the open step, or 0 (R319). -/
def State.currentStep (s : State) : Nat := (s.openStep.map (·.num)).getD 0

/-- R182: AER records a host read that timed out or returned a poisoned completion. -/
def State.noteFail (s : State) (how : HostFail) : State :=
  match how with
  | .timeout => { s with pcie := { s.pcie with aerTimeout := true } }
  | .poisoned => { s with pcie := { s.pcie with aerPoisoned := true } }
  | _ => s

/-! ### Host writes and interrupts -/

/-- Sends a host write or read now, or holds it while the function may not issue requests. -/
def State.sendHost (s : State) (o : Output) : State :=
  if s.mayRequest && s.host.held.isEmpty then s.send o
  else { s with host := { s.host with held := s.host.held ++ [.other o] } }

/-- R186: whether vector v is masked, by the function or by its table entry. -/
def State.vectorMasked (s : State) (v : Nat) : Bool :=
  s.host.msixFnMask || !s.host.msixEnable || (s.host.msix.get MsixEntry.reset v).mask

/-- R186: sends vector v, or sets its pending bit while it is masked. -/
def State.fireVector (s : State) (v : Nat) : State :=
  if s.vectorMasked v then { s with host := { s.host with msixPend := s.host.msixPend.set false v true } }
  else s.sendHost (.msix v)

/-- R186: sends the pending messages among `vs` whose vector is no longer masked. -/
def State.sendPending (s : State) : List Nat → State
  | [] => s
  | v :: vs =>
    let s1 := if s.host.msixPend.get false v && !s.vectorMasked v then
        ({ s with host := { s.host with msixPend := s.host.msixPend.set false v false } }).sendHost (.msix v)
      else s
    s1.sendPending vs

/-- PHASE of position `written` of a queue of 2^log2 records (R209). -/
def phaseOf (written log2 : Nat) : Bool := written / 2 ^ log2 % 2 == 0

/-- R208: the 32 bytes of a completion record. -/
def completionBytes (tag : List Byte) (seq status : Nat) (phase hostDetail : Bool) (ring detail elapsed : Nat) :
    List Byte :=
  padTo 8 tag ++ leBytes 4 seq ++ leBytes 1 status ++ leBytes 1 (bitOf phase + 2 * bitOf hostDetail) ++
    leBytes 2 ring ++ leBytes 8 detail ++ leBytes 8 elapsed

/-- R208 to R212: writes a completion record to queue `q`, then its interrupt if one is due. -/
def State.writeRecord (s : State) (q ring seq : Nat) (tag : List Byte) (status : Nat) (hostDetail : Bool)
    (detail fetched : Nat) (irq : Bool) : State :=
  let c := s.host.cqs.get CQ.reset q
  let pos := c.written % 2 ^ c.log2
  let bytes := completionBytes tag seq status (phaseOf c.written c.log2) hostDetail ring detail
    ((s.clock.aclk - fetched) / 64)
  let s1 := s.send (.hostWrite (c.base.toNat + 32 * pos) bytes false)
  let due := c.irqEnable && (irq || decide (max 1 c.irqCount ≤ c.uncovered + 1))
  let c1 : CQ := { c with written := (c.written + 1) % 2 ^ 32, uncovered := if due then 0 else c.uncovered + 1 }
  let s2 := { s1 with host := { s1.host with cqs := s1.host.cqs.set CQ.reset q c1 } }
  if due then s2.fireVector q else s2

/-! ### Events -/

/-- R220: the 64 bytes of an event record with EVENT_SEQ `seq`. -/
def eventBytes (e : EventRec) (phase : Bool) (seq : Nat) : List Byte :=
  leBytes 1 e.kind ++ leBytes 1 (bitOf phase + 2 * bitOf e.mgmt) ++ leBytes 2 e.code ++ leBytes 4 seq ++
    leBytes 8 e.time ++ leBytes 8 e.step ++ leBytes 4 e.opTag.toNat ++ leBytes 4 e.subject.toNat ++
    padTo 32 e.detail

/-- R387: whether an event goes to the management path: every FAULT, HEALTH, LINK and FIRMWARE event, and those that
R286, R346 and R367 name. -/
def mgmtCopied (kind code : Nat) : Bool :=
  match kind with
  | 1 => true
  | 2 => true
  | 3 => [2, 6, 8, 9].contains code
  | 6 => true
  | 7 => [1, 2, 3].contains code
  | 8 => [2, 4, 6].contains code
  | 9 => true
  | _ => false

/-- R313, R367: events that reach the management path only. -/
def mgmtOnly (kind code : Nat) : Bool :=
  (kind == 1 && (code == 0x0E || code == 0x10)) || (kind == 8 && code == 6)

/-- Puts the EVENT_SEQ of a record just written into its copy bound for the management path. -/
def numberCopy (e : EventRec) (seq : Nat) : List (EventRec × Option Nat) → List (EventRec × Option Nat)
  | [] => []
  | (x, n) :: t => if x = e ∧ n = none then (x, some seq) :: t else (x, n) :: numberCopy e seq t

/-- R218, R219: writes buffered events to the host's queue while it has room the host has consumed. -/
def State.drainEvents : Nat → State → State
  | 0, s => s
  | fuel + 1, s =>
    match s.host.buffer with
    | [] => s
    | e :: rest =>
      if s.host.eqEnable && s.mayRequest && s.host.held.isEmpty &&
          decide ((s.host.eqWritten + 2 ^ 32 - s.host.eqConsumed) % 2 ^ 32 < 2 ^ s.host.eqLog2) then
        let n := s.host.eqWritten
        let addr := s.host.eqBase.toNat + 64 * (n % 2 ^ s.host.eqLog2)
        let s1 := s.send (.hostWrite addr (eventBytes e (phaseOf n s.host.eqLog2) n) false)
        let told : EventRec :=
          { kind := 0x0A, code := 3, step := s.currentStep, opTag := 0, subject := 0
            detail := leBytes 8 s.host.droppedNew, time := s.clock.time, mgmt := false }
        let buf := if s.host.droppedNew = 0 then rest else rest ++ [told]
        let s2 : State :=
          { s1 with host := { s1.host with buffer := buf, droppedNew := 0, eqWritten := (n + 1) % 2 ^ 32 }
                    fw := { s1.fw with bound := numberCopy e n s1.fw.bound } }
        State.drainEvents fuel (s2.fireVector 64)
      else s

/-- Events the buffer can hold, and one drop notice: enough draining steps. -/
def drainFuel : Nat := 520

/-- R218: holds an event in the buffer of 256 records, or counts it as dropped, then writes what can be written. -/
def State.buffer (s : State) (e : EventRec) : State :=
  if s.host.buffer.length < 256 then
    State.drainEvents drainFuel { s with host := { s.host with buffer := s.host.buffer ++ [e] } }
  else
    { s with host := { s.host with dropped := satCount 32 (s.host.dropped + 1), droppedNew := s.host.droppedNew + 1 } }

/-- Sends what was held while the function could issue no request, in the order it arose; `told` counts the buffered events already
written meanwhile. A record follows every event raised before it (R214, R219). -/
def State.releaseHeld (s : State) (told : Nat) : List Held → State
  | [] => s
  | .record q r n t st hd d f i ev :: hs =>
    let s1 := State.drainEvents (ev - told) s
    (s1.writeRecord q r n t st hd d f i).releaseHeld
      (told + (s1.host.eqWritten + 2 ^ 32 - s.host.eqWritten) % 2 ^ 32) hs
  | .other o :: hs => (s.send o).releaseHeld told hs

/-- R184: the function may issue requests again. -/
def State.flushHeld (s : State) : State :=
  if s.mayRequest then ({ s with host := { s.host with held := [] } }).releaseHeld 0 s.host.held else s

/-- Raises an event: to the host's queue, to the management path, or both. -/
def State.raise (s : State) (kind code step opTag subject : Nat) (detail : List Byte) : State :=
  let e : EventRec :=
    { kind := kind, code := code, step := step, opTag := BitVec.ofNat 32 opTag
      subject := BitVec.ofNat 32 subject, detail := padTo 32 detail, time := s.clock.time
      mgmt := mgmtCopied kind code }
  let s1 := if mgmtCopied kind code then { s with fw := { s.fw with bound := s.fw.bound ++ [(e, none)] } } else s
  if mgmtOnly kind code then s1 else s1.buffer e

/-- R314: detail of a FAULT event. -/
def faultDetail (outcome status unit where_ address : Nat) (columns : List Nat) : List Byte :=
  leBytes 1 outcome ++ leBytes 1 status ++ leBytes 2 unit ++ leBytes 4 (satCount 32 where_) ++ leBytes 8 address ++
    (columns.flatMap (leBytes 2))

/-- Raises a FAULT event (R313) about the current step. -/
def State.fault (s : State) (code opTag subject outcome status unit where_ address : Nat) (columns : List Nat) :
    State :=
  s.raise 1 code s.currentStep opTag subject (faultDetail outcome status unit where_ address columns)

/-- Columns of a FAULT event that concerns none. -/
def noColumns : List Nat := [0xFFFF, 0xFFFF, 0xFFFF]

/-! ### Telemetry counters (R179, R318, R369) -/

/-- Value of a TELEMETRY counter, by offset from 0x009_0000. -/
def State.tele_ (s : State) (off : Nat) : Nat := s.tele.get 0 off

/-- Adds to a 64-bit TELEMETRY counter. -/
def State.count (s : State) (off n : Nat) : State :=
  { s with tele := s.tele.set 0 off ((s.tele.get 0 off + n) % 2 ^ 64) }

end Sys2Proof.Machine
end

