-- ==== Sys2Proof/Machine/Tray.lean ====
section
/-! DEFINITION. The sending side of the Yehosen channels (R244 to R246, R249): frames of one peer are numbered, kept
until acknowledged, and sent on the UP ports of the pair. -/

namespace Sys2Proof.Machine

/-- Port states (the table under R236). -/
def portDown : Nat := 0
def portTraining : Nat := 1
def portLabelWait : Nat := 2
def portUp : Nat := 3
def portDead : Nat := 4

def State.port (s : State) (p : Nat) : Port := s.net.ports.get Port.reset p

def State.setPort (s : State) (p : Nat) (x : Port) : State :=
  { s with net := { s.net with ports := s.net.ports.set Port.reset p x } }

def State.channel (s : State) (m : Nat) : Channel := s.net.channels.get Channel.reset m

def State.setChannel (s : State) (m : Nat) (c : Channel) : State :=
  { s with net := { s.net with channels := s.net.channels.set Channel.reset m c } }

/-- R399: the module's own tray member number. -/
def State.member (s : State) : Nat := s.life.tray.toNat

/-- R244: the two ports that face tray member `m`. -/
def State.pairPorts (s : State) (m : Nat) : List Nat :=
  let k := (m + 4 - s.member) % 4
  if k = 0 then [] else [2 * (k - 1), 2 * (k - 1) + 1]

/-- R244: the member faced by port p < 6. -/
def State.facedMember (s : State) (p : Nat) : Nat := (s.member + p / 2 + 1) % 4

/-- R263: whether member `m` lies in the configured tray group. -/
def State.inGroup (s : State) (m : Nat) : Bool :=
  s.net.group != 0 && decide (m ≤ s.net.group)

/-- Tray-role ports of the pair that are UP. -/
def State.upPair (s : State) (m : Nat) : List Nat :=
  (s.pairPorts m).filter (fun p => (s.port p).role == 1 && (s.port p).state == portUp)

/-- R249: the pair has no UP port and one in DEAD_LETTER. -/
def State.pairDead (s : State) (m : Nat) : Bool :=
  (s.upPair m).isEmpty && (s.pairPorts m).any (fun p => (s.port p).state == portDead)

/-- R245: header of a frame of this module to member `m`, and its payload. -/
def State.yeBytes (s : State) (m typ seq ack addr lenTag : Nat) (payload : List Byte) : List Byte :=
  leBytes 1 typ ++ leBytes 1 (s.member + 4 * m) ++ leBytes 3 seq ++ leBytes 3 ack ++ leBytes 6 addr ++
    leBytes 2 lenTag ++ payload

/-- LEN_TAG of R245: payload length in blocks less 1 (not used by the other types), and the read tag. -/
def yeLenTag (typ len tag : Nat) : Nat :=
  (if typ = 1 ∨ typ = 2 ∨ typ = 3 then (len / 64 - 1) % 64 else 0) + 64 * (tag % 1024)

/-- MAC address learned from the peer port's LLDP Port ID. -/
def State.peerMac (s : State) (p : Nat) : BitVec 48 := (((s.port p).heard).map (·.portMac)).getD 0

/-- Ethernet's least frame payload, to which a READ_REQ is padded (R245). -/
def etherPad (bs : List Byte) : List Byte := bs ++ zeros (46 - bs.length)

/-- Puts one frame on the wire, alternating between the pair's UP ports by SEQ; nothing while none is UP. -/
def State.yeEmit (s : State) (m : Nat) (f : YeFrame) : State :=
  let ports := s.upPair m
  match ports[f.seq % max 1 ports.length]? with
  | none => s
  | some p =>
    s.send (.frame p (s.peerMac p)
      (etherPad (s.yeBytes m f.typ f.seq (s.channel m).applied f.addr (yeLenTag f.typ f.len f.tag) f.payload)))

/-- R246: sends every kept frame again, oldest first. -/
def State.yeReplay (s : State) (m : Nat) : List YeFrame → State
  | [] => s
  | f :: fs => (s.yeEmit m f).yeReplay m fs

/-- R246: numbers a frame, keeps it and sends it. Frames beyond 512 unacknowledged wait in the channel, in order. -/
def State.yeSend (s : State) (m typ addr len tag : Nat) (payload : List Byte) (op : Option Nat) : State :=
  let c := s.channel m
  let f : YeFrame := { seq := c.nextSeq, typ := typ, addr := addr, len := len, tag := tag, payload := payload, op := op }
  let s1 := s.setChannel m { c with nextSeq := (c.nextSeq + 1) % 2 ^ 24, unacked := c.unacked ++ [f] }
  if c.unacked.length < 512 then s1.yeEmit m f else s1

/-- R245: an acknowledgement or refusal, outside the SEQ order. A NAK carries the refused address. -/
def State.yeControl (s : State) (m typ addr : Nat) (payload : List Byte) : State :=
  match s.upPair m with
  | [] => s
  | p :: _ => s.send (.frame p (s.peerMac p) (etherPad (s.yeBytes m typ 0 (s.channel m).applied addr 0 payload)))

/-! ### Reads of a peer's window (R22, R247) -/

/-- Tags of reads outstanding at member `m`. -/
def State.tagsOut (s : State) (m : Nat) : List Nat :=
  (s.net.reads.filter (fun r => r.member == m)).map (·.tag) ++
    ((s.channel m).windows.filter (fun w => w.data.isNone)).map (·.tag)

/-- R247: the next read tag of a channel that no outstanding read holds. -/
def State.freeTag (s : State) (m : Nat) : Option Nat :=
  ((List.range 1024).map (fun i => ((s.channel m).nextTag + i) % 1024)).find? (fun t => !(s.tagsOut m).contains t)

/-- A range of whole blocks in READ_REQs of at most 4,096 bytes (R245): offsets and lengths. -/
def windowPieces (off n : Nat) : List (Nat × Nat) :=
  let lo := off / 64 * 64
  let hi := (off + n + 63) / 64 * 64
  (List.range ((hi - lo + 4095) / 4096)).map (fun i => (lo + 4096 * i, min 4096 (hi - (lo + 4096 * i))))

/-- The data of one piece, if the peer has answered it for this actor. -/
def State.windowData (s : State) (m actor : Nat) (p : Nat × Nat) : Option (List Byte) :=
  ((s.channel m).windows.find? (fun w => w.actor == actor && w.off == p.1 && w.len == p.2)).bind (·.data)

/-- Sends the READ_REQs of pieces not asked for yet, while tags are free. -/
def State.askWindow (s : State) (m actor : Nat) : List (Nat × Nat) → State
  | [] => s
  | p :: ps =>
    let c := s.channel m
    let s1 :=
      if c.windows.any (fun w => w.actor == actor && w.off == p.1 && w.len == p.2) then s
      else
        match s.freeTag m with
        | none => s
        | some tag =>
          (s.setChannel m { c with nextTag := (tag + 1) % 1024, windows := c.windows ++ [⟨tag, p.1, p.2, actor, none⟩] }).yeSend
            m 2 p.1 p.2 tag [] (some actor)
    s1.askWindow m actor ps

/-- Sends the READ_REQs of what an event wanted of each member's window. -/
def State.askWindows (s : State) (actor : Nat) : List (Nat × List (Nat × Nat)) → State
  | [] => s
  | x :: xs => (s.askWindow x.1 actor x.2).askWindows actor xs

/-- Drops the answered reads of an actor. -/
def State.dropWindows (s : State) (actor : Nat) : State :=
  { s with net := { s.net with channels := s.net.channels.map (fun p =>
      (p.1, { p.2 with windows := p.2.windows.filter (fun w => w.actor != actor || w.data.isNone) })) } }

/-- R22: `t`, if the event that leads from `s` to it had every byte of a peer's window it needs; else the event has not happened
yet, and the reads it needs are outstanding. -/
def State.afterPeers (s t : State) : State :=
  let id := (t.actor.map (·.1)).getD 0
  if t.net.channels.any (fun p => !p.2.wanted.isEmpty) then
    s.askWindows id (t.net.channels.map (fun p => (p.1, p.2.wanted)))
  else t.dropWindows id

/-- Cuts bytes into WRITE frames of at most 4,096 bytes. -/
def State.yeWrites (s : State) (m addr : Nat) (op : Option Nat) : Nat → List Byte → State
  | 0, _ => s
  | fuel + 1, bs =>
    match bs with
    | [] => s
    | _ =>
      let now := bs.take 4096
      (s.yeSend m 1 addr now.length 0 now op).yeWrites m (addr + now.length) op fuel (bs.drop 4096)

end Sys2Proof.Machine
end

