-- ==== Sys2Proof/Machine/Mem.lean ====
section
/-! DEFINITION. Device memory: the address map (R19 to R23), translation (R25 to R29), ECC (R305 to R309),
redirect-on-write (R327) and the refusal of physical writes to kept pages (R328). -/

namespace Sys2Proof.Machine

/-! ### The map -/

/-- The ranges of the device physical address map. -/
inductive Zone where
  | hbm
  | local_ (d : Nat)
  | acc (d : Nat)
  | coll
  | tray (m : Nat)
  | setup
  deriving DecidableEq, Repr

/-- R20. -/
def State.hbmBytes (s : State) : Nat :=
  match s.fuses.variant with
  | .alc => 0x6FC23AC000
  | .elc => 0xA7A3582000

/-- The ranges: first address, end, zone. The module's own tray window is not listed; it aliases HBM (R22). -/
def State.ranges (s : State) : List (Nat × Nat × Zone) :=
  [(0, s.hbmBytes, .hbm),
   (0x20000000000, 0x2003C000000, .local_ 0), (0x20040000000, 0x2007C000000, .local_ 1),
   (0x20100000000, 0x20102000000, .acc 0), (0x20102000000, 0x20104000000, .acc 1),
   (0x30000000000, 0x30008000000, .coll)] ++
  (([0, 1, 2, 3].filter (fun m => m != s.member && s.inGroup m)).map
    (fun m => (0x100000000000 + m * 0x10000000000, 0x100000000000 + (m + 1) * 0x10000000000, Zone.tray m))) ++
  [(0x7F0000000000, 0x7F0004000000, .setup)]

/-- R22: offset into the module's own tray window, if the address lies in it. -/
def State.ownWindow (s : State) (a : Nat) : Option Nat :=
  let base := 0x100000000000 + s.member * 0x10000000000
  if base ≤ a ∧ a < base + 0x10000000000 then some (a - base) else none

/-- R19: the zone and the module-local address of `n` bytes at `a`, or the first faulting address. -/
def State.place (s : State) (a n : Nat) : Except Nat (Zone × Nat) :=
  match s.ownWindow a with
  | some o =>
    if o + n ≤ s.hbmBytes then .ok (.hbm, o)
    else if o < s.hbmBytes then .error (a + (s.hbmBytes - o)) else .error a
  | none =>
    match s.ranges.find? (fun r => r.1 ≤ a && a < r.2.1) with
    | none => .error a
    | some r => if a + n ≤ r.2.1 then .ok (r.2.2, a) else .error r.2.1

/-- The zone of one byte. -/
def State.zoneAt (s : State) (a : Nat) : Option Zone :=
  match s.place a 1 with
  | .ok (z, _) => some z
  | .error _ => none

/-- Offset within a peer's HBM of an address in its tray window. -/
def trayOffset (a : Nat) : Nat := a % 0x10000000000

/-- R23: HBM stack of a physical address. -/
def hbmStack (a : Nat) : Nat :=
  let f := a / 4096
  let u := f / 512
  let d := u % 2
  let e := (u / 2) * 512 + f % 512
  let g := e / 10
  let h := g + g / 2 ^ 6 + g / 2 ^ 12 + g / 2 ^ 18 + g / 2 ^ 24
  10 * d + (e % 10 + h) % 10

/-- R23: byte offset within the stack. -/
def hbmStackOffset (a : Nat) : Nat :=
  let f := a / 4096
  let e := (f / 512 / 2) * 512 + f % 512
  (e / 10) * 4096 + a % 4096

/-- Name of byte `o` of a memory outside the address map (R305): memory ID, die, offset (log 30). -/
def hiddenAddr (id die o : Nat) : Nat := id * 2 ^ 48 + die * 2 ^ 40 + o

/-- The device physical address an event carries: 0 for a memory outside the map. -/
def eventAddr (a : Nat) : Nat := if 2 ^ 48 ≤ a then 0 else a

/-- R305: memory ID of an address, and UNIT of R314. -/
def memoryId (a : Nat) : Nat :=
  if 2 ^ 48 ≤ a then a / 2 ^ 48
  else if a < 0x20000000000 then 1
  else if a < 0x20100000000 then 2
  else if a < 0x20104000000 then 3
  else 8

def memoryUnit (a : Nat) : Nat :=
  match memoryId a with
  | 1 => 1 + 256 * hbmStack a
  | 2 => 2 + 256 * (if a < 0x20040000000 then 0 else 1)
  | 3 => 3 + 256 * (if a < 0x20102000000 then 0 else 1)
  | i => i + 256 * (if 4 ≤ i ∧ i ≤ 7 then a / 2 ^ 40 % 2 else 2)

/-- Canonical form of device memory: spans strictly rising, none equal to what unlisted bytes read as (log 10). -/
def Memory.wf (m : Memory) : Bool := m.ram.wf

/-! ### Page tables -/

/-- Outcome of a walk: a fault of R27, a poisoned table, or a leaf: address of its PTE, page base, page size,
WRITE. -/
inductive Walk where
  | fault
  | bad (block : Nat)
  | leaf (pte base size : Nat) (wr : Bool)
  deriving DecidableEq, Repr

/-- Device memory holds the entry at `a` (R25), and no block of it is poisoned. -/
def State.poisoned (s : State) (a n : Nat) : Option Nat :=
  ((blocksOf a n).find? (fun b => s.mem.poison.get false b)).map (· * 64)

def State.ramWord (s : State) (a : Nat) : Nat := leNat (s.mem.ram.read a 8)

/-- Whether `n` bytes at `a` lie in populated HBM. -/
def State.inHbm (s : State) (a n : Nat) : Bool := decide (a + n ≤ s.hbmBytes)

/-- R25 to R27: reserved bits of an entry. -/
def pteReserved (e : Nat) : Bool := bits e 11 3 != 0 || bits e 63 48 != 0

/-- ADDR of an entry. -/
def pteAddr (e : Nat) : Nat := bits e 47 12 * 4096

/-- Level 3 of a walk: table base `t`. -/
def State.walk3 (s : State) (t va : Nat) : Walk :=
  if !s.inHbm t 256 then .fault
  else
    let pa := t + 8 * bits va 20 16
    match s.poisoned pa 8 with
    | some b => .bad b
    | none =>
      let e := s.ramWord pa
      if !bit e 0 || !bit e 1 || pteReserved e || pteAddr e % 0x10000 != 0 then .fault
      else .leaf pa (pteAddr e) 0x10000 (bit e 2)

/-- Level 2 of a walk. A table pointer with WRITE = 1, at this level or level 1, faults the walk: R26's table has the bit 0 there
and R27 does not name it (DESIGN CHOICE, log 69). -/
def State.walk2 (s : State) (t va : Nat) : Walk :=
  if !s.inHbm t 0x10000 || t % 0x10000 != 0 then .fault
  else
    let pa := t + 8 * bits va 33 21
    match s.poisoned pa 8 with
    | some b => .bad b
    | none =>
      let e := s.ramWord pa
      if !bit e 0 || pteReserved e then .fault
      else if bit e 1 then
        if pteAddr e % 0x200000 != 0 then .fault else .leaf pa (pteAddr e) 0x200000 (bit e 2)
      else if bit e 2 then .fault
      else s.walk3 (pteAddr e) va

/-- A walk from PT_ROOT value `root` (R25 to R27, R29). -/
def State.walk (s : State) (root : Word) (va : Nat) : Walk :=
  let r := root.toNat
  let t := bits r 47 17 * 0x20000
  if !bit r 0 || !s.inHbm t 0x20000 then .fault
  else
    let pa := t + 8 * bits va 47 34
    match s.poisoned pa 8 with
    | some b => .bad b
    | none =>
      let e := s.ramWord pa
      if !bit e 0 || bit e 1 || bit e 2 || pteReserved e then .fault
      else s.walk2 (pteAddr e) va

/-! ### Kept pages (R326 to R328) -/

/-- Whether a virtual page number (of 64 KiB) is a kept page. -/
def State.keptPage (s : State) (page : Nat) : Bool :=
  match s.proof.kept with
  | none => false
  | some k => k.regions.any (fun r => r.vbase / 0x10000 ≤ page && page < r.vbase / 0x10000 + r.pages)

/-- The frame that backs a kept page under PT_ROOT: a 64 KiB leaf in HBM. -/
def State.frameOf (s : State) (page : Nat) : Option (Nat × Nat) :=
  match s.walk s.mem.ptRoot (page * 0x10000) with
  | .leaf pte base size _ => if size = 0x10000 && s.inHbm base size then some (pte, base) else none
  | _ => none

/-- Kept pages, in the order of the table. -/
def State.keptPages (s : State) : List Nat :=
  match s.proof.kept with
  | none => []
  | some k => k.regions.flatMap (fun r => (List.range r.pages).map (· + r.vbase / 0x10000))

/-- R328: whether the 64 KiB frame at `frame` belongs to the pool or backs a kept page. -/
def State.protectedFrame (s : State) (frame : Nat) : Bool :=
  let pool := s.proof.poolBase.toNat
  (pool ≤ frame && frame < pool + s.proof.poolPages * 0x10000) ||
  s.proof.free.contains frame || s.proof.log.any (fun r => r.old == frame) ||
  s.keptPages.any (fun p => (s.frameOf p).any (fun x => x.2 == frame))

/-- R328: a physical write of `n` bytes at module-local address `a` is refused. -/
def State.refusesWrite (s : State) (a n : Nat) : Bool :=
  !s.proof.steps.isEmpty && n != 0 && s.inHbm a n &&
  ((List.range ((a + n - 1) / 0x10000 - a / 0x10000 + 1)).any
    (fun i => s.protectedFrame ((a / 0x10000 + i) * 0x10000)))

/-! ### Errors met by reads (R306 to R309) -/

/-- Marks the open step's own cause of a dirty verdict, keeping the first (R312, R322). -/
def State.dirty (s : State) (cause : Nat) : State :=
  { s with proof := { s.proof with steps := s.proof.steps.map (fun r =>
      if (r.st == .isOpen || r.st == .replaying) && r.cause == 0 then { r with cause := cause } else r) } }

/-- R309: an HBM row (R23's row of 4 KiB) recorded for repair. -/
def State.recordRepair (s : State) (a : Nat) : State :=
  if s.fw.repairs.contains (a / 4096) then s
  else
    let s1 := { s with fw := { s.fw with repairs := s.fw.repairs ++ [a / 4096] } }
    s1.fault 9 0 (hbmStack a) 2 0 (memoryUnit a) 0 a noColumns

/-- R306, R309: a corrected error at `a`. At most one event per memory per second. -/
def State.corrected (s : State) (a : Nat) : State :=
  let i := memoryId a
  let s1 := s.count (0x480 + 8 * i) 1
  let recent := (s1.mem.corrTime.get none i).any (fun t => decide (s1.clock.time < t + 1000000000))
  let s2 :=
    if recent then
      match s1.mem.corrAddr.get none i with
      | some _ => s1
      | none => { s1 with mem := { s1.mem with corrAddr := s1.mem.corrAddr.set none i (some a) } }
    else
      let first := (s1.mem.corrAddr.get none i).getD a
      let s2 := { s1 with mem := { s1.mem with corrAddr := s1.mem.corrAddr.set none i none
                                               corrTime := s1.mem.corrTime.set none i (some s1.clock.time) } }
      s2.fault 7 s.actorTag (memoryUnit first) 0 0 (memoryUnit first) 0 (eventAddr first) noColumns
  if i = 1 then
    let day : Nat := 86400000000000
    let errs := (s2.fw.rowErrors.filter (fun p => decide (s2.clock.time < p.2 + day))) ++ [(a / 4096, s2.clock.time)]
    let s3 := { s2 with fw := { s2.fw with rowErrors := errs } }
    if 4 ≤ (errs.filter (fun p => p.1 == a / 4096)).length then s3.recordRepair a else s3
  else s2

/-- R307, R309, R312, R314: poisons the 64-byte block at `a`. The event reports the status of the op or command whose read it was.
A block of a kept page dirties the open step. -/
def State.poisonBlock (s : State) (a : Nat) : State :=
  let s1 := { s with mem := { s.mem with poison := s.mem.poison.set false (a / 64) true } }
  let read := s.actor.isSome
  let s2 := (s1.count (0x500 + 8 * memoryId a) 1).fault 8 s.actorTag (memoryUnit a) (if read then 1 else 2)
    (if read then 0x31 else 0) (memoryUnit a) 0 (eventAddr (a / 64 * 64)) noColumns
  let s3 := if memoryId a = 1 then s2.recordRepair a else s2
  if s3.keptPages.any (fun p => (s3.frameOf p).any (fun x => x.2 == a / 0x10000 * 0x10000)) then s3.dirty 1 else s3

/-- Meets the latent errors of the given blocks, as any read does. -/
def State.meet (s : State) : List Nat → State
  | [] => s
  | b :: bs =>
    match s.mem.latent.get 0 b with
    | 0 => s.meet bs
    | k + 1 =>
      let s1 := { s with mem := { s.mem with latent := s.mem.latent.set 0 b 0 } }
      (if k = 0 then s1.corrected (b * 64) else s1.poisonBlock (b * 64)).meet bs

/-- R305 to R307: a use of a memory outside the address map meets the errors of the blocks it reads; with it, whether one of them is
poisoned. Which blocks a use reads is not stated (log 30). -/
def State.meetHidden (s : State) (memory use : Nat) : State × Bool :=
  let bs := ((s.mem.latent.map (·.1)) ++ (s.mem.poison.map (·.1))).filter
    (fun b => memoryId (b * 64) == memory && Config.usesBlock memory use b)
  let s1 := s.meet bs
  (s1, bs.any (fun b => s1.mem.poison.get false b))

/-- Addresses of the entries a walk reads, level by level (R25). -/
def State.walkEntries (s : State) (root : Word) (va : Nat) : List Nat :=
  let r := root.toNat
  let t1 := bits r 47 17 * 0x20000
  if !bit r 0 || !s.inHbm t1 0x20000 then []
  else
    let p1 := t1 + 8 * bits va 47 34
    let e1 := s.ramWord p1
    let t2 := pteAddr e1
    if !bit e1 0 || bit e1 1 || bit e1 2 || pteReserved e1 || !s.inHbm t2 0x10000 || t2 % 0x10000 != 0 then [p1]
    else
      let p2 := t2 + 8 * bits va 33 21
      let e2 := s.ramWord p2
      let t3 := pteAddr e2
      if !bit e2 0 || pteReserved e2 || bit e2 1 || bit e2 2 || !s.inHbm t3 256 then [p1, p2]
      else [p1, p2, t3 + 8 * bits va 20 16]

/-- Meets the latent errors of entries in turn; a poisoned one ends the walk (R306, R307). -/
def State.meetEntries (s : State) : List Nat → State
  | [] => s
  | p :: ps =>
    let s1 := s.meet (blocksOf p 8)
    if (s1.poisoned p 8).isSome then s1 else s1.meetEntries ps

/-- A walk is a read of device memory: it meets the errors of the entries it reads. -/
def State.meetWalk (s : State) (root : Word) (va : Nat) : State := s.meetEntries (s.walkEntries root va)

/-! ### Accesses -/

/-- Why an access fails: ADDRESS_FAULT with the detail of R19, MEMORY_UNCORRECTABLE at a block, a tray peer whose
pair is in dead-letter (R249), memory beyond a failed in-package link (R11), or a write that waits for a proof to release a frame
(R327): the event that needs it has not happened yet. -/
inductive MemErr where
  | addr (detail : Nat)
  | bad (block : Nat)
  | identity
  | link (l : Nat)
  | wait
  deriving DecidableEq, Repr

/-- R213: the status of a failed access. -/
def MemErr.status : MemErr → Nat
  | .addr _ => 0x21
  | .bad _ => 0x31
  | .identity => 0x42
  | .link _ => 0x60
  | .wait => 0x21

/-- R19: detail with bit 63 set for a virtual address. -/
def virtDetail (va : Nat) : Nat := va % 2 ^ 48 + 2 ^ 63

/-- Notes that an event needs blocks of a peer's window it does not have (R22). -/
def State.want (s : State) (m : Nat) (ps : List (Nat × Nat)) : State :=
  s.setChannel m { s.channel m with wanted := (s.channel m).wanted ++ ps }

/-- Reads `n` bytes at a module-local address: errors are met, poison fails the read (R307). A peer's window is read by READ_REQ:
until every block has come the read only notes what it wants, and `State.afterPeers` puts its event off. -/
def State.readAt (s : State) (z : Zone) (a n : Nat) : State × Except MemErr (List Byte) :=
  match z with
  | .tray m =>
    if s.pairDead m then (s, .error .identity)
    else
      let ps := windowPieces (trayOffset a) n
      let got := ps.map (s.windowData m ((s.actor.map (·.1)).getD 0))
      let missing := (ps.zip got).filterMap (fun x => if x.2.isNone then some x.1 else none)
      (if missing.isEmpty then s else s.want m missing,
       .ok (padTo n (((got.map (fun d => d.getD [])).flatten).drop (a % 64))))
  | .setup => (s, .error (.addr a))
  | _ =>
    let s1 := s.meet (blocksOf a n)
    match s1.poisoned a n with
    | some b => (s1, .error (.bad b))
    | none => (s1, .ok (s1.mem.ram.read a n))

/-- R75: the two bytes of each accumulator window that hold no slot. -/
def noSlot (a : Nat) : Bool :=
  a == 0x20101FFFFFE || a == 0x20101FFFFFF || a == 0x20103FFFFFE || a == 0x20103FFFFFF

/-- Bytes as stored: those that hold no slot stay 0. -/
def keepSlots (a : Nat) : List Byte → List Byte
  | [] => []
  | b :: bs => (if noSlot a then 0 else b) :: keepSlots (a + 1) bs

/-- R307: whole blocks written lose their poison. -/
def State.clearPoison (s : State) (a n : Nat) : State :=
  { s with mem := { s.mem with poison := s.mem.poison.filter (fun p =>
      !(decide (a ≤ p.1 * 64) && decide (p.1 * 64 + 64 ≤ a + n)))
                               latent := s.mem.latent.filter (fun p =>
      !(decide (a ≤ p.1 * 64) && decide (p.1 * 64 + 64 ≤ a + n))) } }

/-- R85: a write that meets a chain's region while the chain is open leaves its final values undefined. -/
def Chain.touched (a n : Nat) (c : Chain) : Chain :=
  let on := fun die =>
    let lo := 0x20100000000 + die * 0x2000000 + c.accBase * 65536
    decide (a < lo + c.accSize * 65536) && decide (lo < a + n)
  { c with spoiled := c.spoiled || (n != 0 && (on 0 || on 1)) }

/-- R85: open chains after a write of `n` bytes at `a`. -/
def State.touchChains (s : State) (a n : Nat) : State :=
  { s with numerics := { s.numerics with chains := s.numerics.chains.map (Chain.touched a n) } }

/-- Writes device memory of this module. -/
def State.store (s : State) (a : Nat) (bs : List Byte) : State :=
  (({ s with mem := { s.mem with ram := s.mem.ram.write a (keepSlots a bs) } }).clearPoison a bs.length).touchChains
    a bs.length

/-- Writes bytes at a module-local address. A window of a peer is written by WRITE frames of whole blocks (R245);
bytes of a block that the access does not cover are those the peer holds (log 26). -/
def State.writeAt (s : State) (z : Zone) (a : Nat) (bs : List Byte) : State × Except MemErr Unit :=
  match z with
  | .tray m =>
    if s.pairDead m then (s, .error .identity)
    else
      let g := s.draw
      let lead := a % 64
      let tail := (64 - (lead + bs.length) % 64) % 64
      let pad := fun i n => (List.range n).map (fun k => Config.freeBits 8 g.1 (i + k))
      let whole := pad (a - lead) lead ++ bs ++ pad (a + bs.length) tail
      (g.2.yeWrites m (trayOffset (a - lead)) (s.actor.map (·.1)) (whole.length / 4096 + 1) whole, .ok ())
  | .setup => (s, .error (.addr a))
  | _ => (s.store a bs, .ok ())

/-- Access rights of a caller to a zone. -/
abbrev Allow := Zone → Bool

/-- Everything an op descriptor may name (R21, R26). -/
def allowOps : Allow
  | .setup => false
  | _ => true

/-- R187, R224, R248: populated HBM, local stores, accumulator memories, collective buffers. -/
def allowOwn : Allow
  | .setup => false
  | .tray _ => false
  | _ => true

/-- R38: local store on either die. -/
def allowLocal : Allow
  | .local_ _ => true
  | _ => false

/-- R339: HBM. -/
def allowHbm : Allow
  | .hbm => true
  | _ => false

/-- Dies that hold `n` bytes at a module-local address; HBM alternates between the dies by 2 MiB units (R23). -/
def zoneDies (z : Zone) (a n : Nat) : List Nat :=
  match z with
  | .local_ d => [d]
  | .acc d => [d]
  | .hbm => if a / 0x200000 = (a + n - 1) / 0x200000 then [a / 0x200000 % 2] else [0, 1]
  | _ => []

/-- R11: the first failed link that an access from X would need: link 1 reaches C0, link 2 C1. -/
def State.linkFailed (s : State) (z : Zone) (a n : Nat) : Option Nat :=
  s.life.failedLinks.find? (fun l => (zoneDies z a n).any (fun d => l == d + 1))

/-- R19: a physical range a caller may use, as zone and module-local address, or its first faulting address. Once a link has failed
no op runs, and every access comes from X (R11, log 75). -/
def State.check (s : State) (allow : Allow) (a n : Nat) : Except MemErr (Zone × Nat) :=
  match s.place a n with
  | .error f => .error (.addr (if (s.zoneAt a).any (fun z => !allow z) then a else f))
  | .ok (z, l) =>
    if !allow z then .error (.addr a)
    else match s.linkFailed z l n with
      | some k => .error (.link k)
      | none => .ok (z, l)

/-- Reads `n` bytes at a physical address. -/
def State.readPhys (s : State) (allow : Allow) (a n : Nat) : State × Except MemErr (List Byte) :=
  if n = 0 then (s, .ok [])
  else
    match s.check allow a n with
    | .error e => (s, .error e)
    | .ok (z, l) => s.readAt z l n

/-- Writes bytes at a physical address, unless R328 refuses. -/
def State.writePhys (s : State) (allow : Allow) (a : Nat) (bs : List Byte) : State × Except MemErr Unit :=
  if bs.isEmpty then (s, .ok ())
  else
    match s.check allow a bs.length with
    | .error e => (s, .error e)
    | .ok (z, l) =>
      if z = .hbm && s.refusesWrite l bs.length then (s, .error (.addr a))
      else s.writeAt z l bs

/-- R28: the cached leaf for a page under a root, or a walk whose leaf is then cached. Walks meet memory errors of
the entries they read. -/
def State.translate (s : State) (root : Word) (va : Nat) (wr : Bool) : State × Except MemErr Nat :=
  let key := (root.toNat, va / 0x10000)
  match s.mem.tlb.find? (fun e => e.1 == key) with
  | some e =>
    let w := e.2.toNat
    if wr && !bit w 0 then (s, .error (.addr (virtDetail va)))
    else (s, .ok (w / 0x10000 * 0x10000 + va % 0x10000))
  | none =>
    let s0 := s.meetWalk root va
    match s0.walk root va with
    | .fault => (s0, .error (.addr (virtDetail va)))
    | .bad b => (s0, .error (.bad b))
    | .leaf _ base size w =>
      let page := base + va % size / 0x10000 * 0x10000
      let e : (Nat × Nat) × Word := (key, BitVec.ofNat 64 (page + bitOf w))
      let s1 := { s0 with mem := { s0.mem with tlb := e :: s0.mem.tlb } }
      if wr && !w then (s1, .error (.addr (virtDetail va)))
      else (s1, .ok (page + va % 0x10000))

/-- Bytes of an access that lie in the page of `va`. -/
def inPage (va n : Nat) : Nat := min n (0x10000 - va % 0x10000)

/-- R19: an address that fails its check is reported as the virtual address that names it. -/
def virtError (va pa : Nat) : MemErr → MemErr
  | .addr f => .addr (virtDetail (va + (f - pa)))
  | e => e

/-- The caller's rights to `n` bytes of one page, and R328's refusal of a write that a leaf takes into the module's own
tray window. Faults name the virtual address. -/
def State.checkPage (s : State) (allow : Allow) (va pa n : Nat) (wr : Bool) : Except MemErr (Zone × Nat) :=
  if wr && (s.ownWindow pa).any (fun o => s.refusesWrite o n) then .error (.addr (virtDetail va))
  else (s.check allow pa n).mapError (virtError va pa)

/-- Physical address of `n` bytes of one page, checked. -/
def State.resolve (s : State) (root : Word) (allow : Allow) (va n : Nat) (wr : Bool) :
    State × Except MemErr (Zone × Nat) :=
  if 2 ^ 48 ≤ va then (s, .error (.addr (virtDetail va)))
  else
    match s.translate root va wr with
    | (s1, .error e) => (s1, .error e)
    | (s1, .ok pa) => (s1, s1.checkPage allow va pa n wr)

/-- Reads virtual memory page by page. -/
def State.readPages (s : State) (root : Word) (allow : Allow) : Nat → Nat → Nat → State × Except MemErr (List Byte)
  | 0, _, _ => (s, .ok [])
  | fuel + 1, va, n =>
    if n = 0 then (s, .ok [])
    else
      let k := inPage va n
      match s.resolve root allow va k false with
      | (s1, .error e) => (s1, .error e)
      | (s1, .ok (z, l)) =>
        match s1.readAt z l k with
        | (s2, .error e) => (s2, .error e)
        | (s2, .ok bs) =>
          match s2.readPages root allow fuel (va + k) (n - k) with
          | (s3, .ok rest) => (s3, .ok (bs ++ rest))
          | r => r

/-- Pages an access can touch. -/
def pageFuel (n : Nat) : Nat := n / 0x10000 + 2

/-- Reads `n` bytes at a virtual address. -/
def State.readVirt (s : State) (root : Word) (allow : Allow) (va n : Nat) : State × Except MemErr (List Byte) :=
  s.readPages root allow (pageFuel n) va n

/-! ### Redirect on write (R327) -/

/-- R327: writes to kept pages are redirected while a step is open, replaying, or failed with work still running. -/
def State.redirecting (s : State) : Option StepRec :=
  if s.proof.kept.isSome then s.openStep else none

/-- Whether the open step has redirected a page. -/
def State.redirected (s : State) (step page : Nat) : Bool :=
  s.proof.log.any (fun r => r.step == step && r.page == page)

/-- Outcome of preparing a write to a page. -/
inductive Prepared where
  | ready
  | waitsProof
  | exhausted
  | fault
  | bad (block : Nat)
  deriving DecidableEq, Repr

/-- R329: pool pages that hold the scale book images of unproved steps and the negative log of `n` redirections. -/
def State.poolHeld (s : State) (n : Nat) : Nat := 48 * s.proof.steps.length + ceilDiv n 4096

/-- POOL_FREE.FREE: frames free for redirection. -/
def State.poolFree (s : State) : Nat := s.proof.free.length - s.poolHeld s.proof.log.length

/-- A free frame exists for one more redirection. -/
def State.poolRoom (s : State) : Bool := decide (s.poolHeld (s.proof.log.length + 1) < s.proof.free.length)

/-- R346: POOL_LOW when free pages first fall below 1/16 of the pool in a step. -/
def State.poolCheck (s : State) : State :=
  let n := s.poolFree
  let s1 := { s with proof := { s.proof with low := min s.proof.low n } }
  if !s1.proof.lowTold && decide (n * 16 < s1.proof.poolPages) then
    ({ s1 with proof := { s1.proof with lowTold := true } }).raise 3 4 s1.currentStep 0 0 (leBytes 4 n)
  else s1

/-- Poison of the blocks of one 64 KiB frame, as it stands for a copy of that frame (R307). -/
def copiedPoison (m : SMap Bool) (src dst : Nat) : SMap Bool → SMap Bool
  | [] => m
  | (b, v) :: t =>
    let m1 := if src / 64 ≤ b ∧ b < src / 64 + 1024 then m.set false (dst / 64 + (b - src / 64)) v else m
    copiedPoison m1 src dst t

/-- A read of the module's own, which no op's status reports: it meets the errors of the blocks it reads (R306, R307). -/
def State.meetOwn (s : State) (bs : List Nat) : State :=
  { ({ s with actor := none } : State).meet bs with actor := s.actor }

/-- R327 step 2: copies a page into a frame; the copy meets the errors of what it reads, and poisoned blocks stay poisoned in it
(log 29). -/
def State.copyPage (s : State) (src dst : Nat) : State :=
  let s0 := s.meetOwn (blocksOf src 0x10000)
  let s1 := { s0 with mem := { s0.mem with ram := s0.mem.ram.write dst (s0.mem.ram.read src 0x10000) } }
  let s2 := s1.clearPoison dst 0x10000
  { s2 with mem := { s2.mem with poison := copiedPoison s2.mem.poison src dst s2.mem.poison } }

/-- R327: a write that finds no free frame waits while a step is latent, and finds the pool exhausted otherwise. -/
def State.noFrame (s : State) : Prepared := if s.proof.steps.any (fun r => r.st == .latent) then .waitsProof else .exhausted

/-- R327 steps 2 to 4: frame `f` takes the place of the page's frame `base` in its table entry `pte`. -/
def State.redirectTo (s : State) (num page pte base f : Nat) (rest : List Nat) (whole : Bool) : State :=
  let s1 := if whole then s else s.copyPage base f
  let new := s1.ramWord pte % 0x10000 + f
  let s2 := { s1 with mem := { s1.mem with ram := s1.mem.ram.write pte (leBytes 8 new)
                                           tlb := s1.mem.tlb.filter (fun e => e.1.2 != page) }
                      proof := { s1.proof with free := rest
                                               log := s1.proof.log ++ [Redir.mk num page pte base f] } }
  s2.poolCheck

/-- R327: the first write of the open step to a kept page is redirected to a free frame; `whole` writes copy nothing. -/
def State.redirect (s : State) (root : Word) (va : Nat) (whole : Bool) : State × Prepared :=
  let page := va / 0x10000
  match s.redirecting with
  | none => (s, .ready)
  | some st =>
    if !s.keptPage page then (s, .ready)
    else
      let s0 := s.meetWalk root (page * 0x10000)
      match s0.walk root (page * 0x10000) with
      | .leaf pte base size wr =>
        if size != 0x10000 || !wr || !s0.inHbm base size then (s0, .fault)
        else if s0.redirected st.num page then (s0, .ready)
        else
          match s0.proof.free with
          | [] => (s0, s0.noFrame)
          | f :: rest =>
            if s0.poolRoom then (s0.redirectTo st.num page pte base f rest whole, .ready) else (s0, s0.noFrame)
      | .bad b => (s0, .bad b)
      | .fault => (s0, .fault)

/-- R327: the write found the pool exhausted with no step latent. -/
def State.poolExhausted (s : State) (va : Nat) : State :=
  (s.raise 3 5 s.currentStep s.actorTag 0 (leBytes 8 va)).dirty 6

/-- Writes virtual memory page by page, redirecting kept pages. -/
def State.writePages (s : State) (root : Word) (allow : Allow) :
    Nat → Nat → List Byte → State × Except MemErr Unit
  | 0, _, _ => (s, .ok ())
  | fuel + 1, va, bs =>
    if bs.isEmpty then (s, .ok ())
    else
      let k := inPage va bs.length
      match s.redirect root va (k == 0x10000) with
      | (s1, .ready) =>
        match s1.resolve root allow va k true with
        | (s2, .error e) => (s2, .error e)
        | (s2, .ok (z, l)) =>
          match s2.writeAt z l (bs.take k) with
          | (s3, .error e) => (s3, .error e)
          | (s3, .ok _) => s3.writePages root allow fuel (va + k) (bs.drop k)
      | (s1, .fault) => (s1, .error (.addr (virtDetail va)))
      | (s1, .bad b) => (s1, .error (.bad b))
      | (s1, .waitsProof) => (s1, .error .wait)
      | (s1, .exhausted) => (s1.poolExhausted va, .error (.addr (virtDetail va)))

/-- Writes bytes at a virtual address. -/
def State.writeVirt (s : State) (root : Word) (allow : Allow) (va : Nat) (bs : List Byte) :
    State × Except MemErr Unit :=
  s.writePages root allow (pageFuel bs.length) va bs

/-- R197: a device address word: bit 63 set for a virtual address, translated with `root`. -/
def State.readDev (s : State) (root : Word) (allow : Allow) (dev n : Nat) : State × Except MemErr (List Byte) :=
  if bit dev 63 then s.readVirt root allow (dev % 2 ^ 48) n else s.readPhys allow (dev % 2 ^ 48) n

def State.writeDev (s : State) (root : Word) (allow : Allow) (dev : Nat) (bs : List Byte) :
    State × Except MemErr Unit :=
  if bit dev 63 then s.writeVirt root allow (dev % 2 ^ 48) bs else s.writePhys allow (dev % 2 ^ 48) bs

/-- Zone and address of a virtual address, with no effect on the state. -/
def State.lieOf (s : State) (root : Word) (va : Nat) : Option (Zone × Nat) :=
  match (s.resolve root allowOps va 1 false).2 with
  | .ok z => some z
  | .error _ => none

/-- Pieces of a range that cross no page, as zones, addresses and lengths. -/
def State.lies (s : State) (root : Word) : Nat → Nat → Nat → List (Zone × Nat × Nat)
  | 0, _, _ => []
  | fuel + 1, va, n =>
    if n = 0 then []
    else
      let k := inPage va n
      ((s.lieOf root va).map (fun z => (z.1, z.2, k))).toList ++ s.lies root fuel (va + k) (n - k)

/-- R75: the bytes of [a, b) that hold no slot keep reading 0. -/
def zeroSlots {w : Nat} (r : Store w) (a b lo : Nat) : Store w :=
  if max a lo < min b (lo + 2) then r.zero (max a lo) (min b (lo + 2)) else r

/-- Makes `n` bytes of memory at a module-local address undefined (log 10). -/
def State.undefAt (s : State) (a n : Nat) : State :=
  let g := (s.touchChains a n).draw
  let r := g.2.mem.ram.undef a (a + n) g.1
  { g.2 with mem := { g.2.mem with ram := zeroSlots (zeroSlots r a (a + n) 0x20101FFFFFE) a (a + n) 0x20103FFFFFE } }

/-- Makes `n` bytes at a virtual address undefined, as far as a write there would reach (R60, R170, R283). -/
def State.undefPages (s : State) (root : Word) : Nat → Nat → Nat → State
  | 0, _, _ => s
  | fuel + 1, va, n =>
    if n = 0 then s
    else
      let k := inPage va n
      match s.redirect root va false with
      | (s1, .ready) =>
        match s1.resolve root allowOps va k true with
        | (s2, .error _) => s2
        | (s2, .ok (.tray _, _)) => s2.undefPages root fuel (va + k) (n - k)
        | (s2, .ok (_, l)) => (s2.undefAt l k).undefPages root fuel (va + k) (n - k)
      | (s1, _) => s1

def State.undefVirt (s : State) (root : Word) (va n : Nat) : State := s.undefPages root (pageFuel n) va n

end Sys2Proof.Machine
end

