-- ==== Sys2Proof/Machine/Ops.lean ====
section
/-! DEFINITION. The named operations the meanings share: how a command answers, the rings' command order (R196, R200
to R202), completion of commands, steps an op belongs to, and the ready window (R55, R59, R198). -/

namespace Sys2Proof.Machine

/-- What a command answers. -/
abbrev Out := Host.Outcome State Fault Refusal

/-- Every command but those that start or reset the module leaves the queue and the clock alone. -/
def done (s t : State) : Out := .next { t with pending := s.pending, clock := s.clock, actor := s.actor }

/-- A command that starts or resets the module leaves the queue alone. -/
def restarted (s t : State) : Out := .next { t with pending := s.pending }

/-- A command whose event can only happen at READY (log 1). -/
def whenReady (s : State) (f : State → State) : Out := done s (if s.isReady then f s else s)

/-- The same, for an event that may have to wait (`none`: it has not happened yet). -/
def whenReadyOr (s : State) (f : State → Option State) : Out :=
  done s (if s.isReady then (f s).getD s else s)

/-- The same, for an event that may need bytes of a tray peer's window (R22). -/
def whenPeersAnswer (s : State) (f : State → Option State) : Out :=
  done s (if s.isReady then ((f s).map s.afterPeers).getD s else s)

/-- A change of state, if its condition holds. -/
def State.onlyIf (s : State) (c : Bool) (f : State → State) : State := if c then f s else s

/-! ### Commands (R196, R197) -/

/-- CMD_TYPE. -/
def FetchedCmd.typ (c : FetchedCmd) : Nat := field c.bytes 0 1
/-- IRQ. -/
def FetchedCmd.irq (c : FetchedCmd) : Bool := bit (field c.bytes 0 8) 8
/-- A 64-bit word of the descriptor. -/
def FetchedCmd.w (c : FetchedCmd) (off : Nat) : Nat := word64 c.bytes off
/-- R5, R196: the header's reserved bits. -/
def FetchedCmd.headerBad (c : FetchedCmd) : Bool := bits (c.w 0) 63 9 != 0
/-- Whether any of the given words (from an offset to the end of the descriptor) is nonzero. -/
def FetchedCmd.restBad (c : FetchedCmd) (off : Nat) : Bool := field c.bytes off (64 - off) != 0

/-- R197: bits [62:48] of a device address are reserved. -/
def devBad (w : Nat) : Bool := bits w 62 48 != 0

def State.ring (s : State) (n : Nat) : Ring := s.host.rings.get Ring.reset n

def State.setRing (s : State) (n : Nat) (r : Ring) : State :=
  { s with host := { s.host with rings := s.host.rings.set Ring.reset n r } }

/-- Fetched and uncompleted commands of the whole module. -/
def State.commands (s : State) : List FetchedCmd := s.host.rings.flatMap (fun p => p.2.cmds)

/-- The oldest command of a ring that has not started. -/
def Ring.waiting (r : Ring) : Option FetchedCmd := r.cmds.find? (fun c => !c.started)

/-- R192 to R194: the next descriptor of the ring may be fetched: one is there, and fewer than 64 are in flight. -/
def State.mayFetch (s : State) (r : Ring) : Bool :=
  r.enable && !r.stopped && s.mayRequest && r.fetched != r.producer && decide (r.cmds.length < 64)

/-- The ring's command with an id. -/
def Ring.cmd (r : Ring) (id : Nat) : Option FetchedCmd := r.cmds.find? (fun c => c.id == id)

def cmdOpProgram : Nat := 1
def cmdDmaCopy : Nat := 2
def cmdStepMark : Nat := 3
def cmdProveStatus : Nat := 4
def cmdSnapshot : Nat := 5
def cmdCheckpoint : Nat := 6
def cmdEvacuate : Nat := 7
def cmdHandover : Nat := 8
def cmdFence : Nat := 9
def cmdScaleSet : Nat := 10
def cmdFieldTest : Nat := 11
def cmdGroupSetup : Nat := 12
def cmdMirrorSetup : Nat := 13
def cmdCounterRead : Nat := 14

/-- The classes of R200: 0 PROGRAM, 1 DMA, 2 CONTROL, 3 FENCE, 4 EVACUATE. -/
def cmdClass (t : Nat) : Nat :=
  if t = 1 then 0 else if t = 2 then 1 else if t = 9 then 3 else if t = 7 then 4 else 2

/-- R311, R410: types that wait for a FIELD_TEST fetched earlier, and for an HBM test. -/
def testHolds (t : Nat) : Bool := [1, 2, 5, 6].contains t

/-- R200, R201, R311, R410: whether the oldest waiting command of ring `n` may start. -/
def State.mayStart (s : State) (n : Nat) (c : FetchedCmd) : Bool :=
  let r := s.ring n
  let all := s.commands
  let sameClass := r.cmds.any (fun d => d.started && cmdClass d.typ == cmdClass c.typ)
  let evacuating := all.any (fun d => d.typ == cmdEvacuate && d.id != c.id)
  let handover := all.any (fun d => d.typ == cmdHandover && d.id < c.id)
  let testing := testHolds c.typ && (all.any (fun d => d.typ == cmdFieldTest && d.id < c.id) || s.hbmTest.busy)
  !evacuating && !handover && !testing &&
  (match cmdClass c.typ with
   | 0 => !sameClass && decide (s.seq.programs.length < 8)
   | 3 =>
     let mask := c.w 0x10
     !(s.host.rings.any (fun p => (p.1 == n || bit mask p.1) && p.2.cmds.any (fun d => d.id < c.id)))
   | _ =>
     if c.typ = cmdHandover then !(all.any (fun d => d.id != c.id && (d.started || decide (d.id < c.id))))
     else if c.typ = cmdFieldTest then !sameClass && !(all.any (fun d => d.started && testHolds d.typ))
     else !sameClass)

/-- R395: starting any command but FENCE, COUNTER_READ, PROVE_STATUS and HANDOVER leaves safelight. -/
def leavesSafelight (t : Nat) : Bool := !([4, 8, 9, 14].contains t)

/-- Marks a command of a ring as started; the module acts for it from now on. -/
def State.markStarted (s : State) (n id : Nat) (t : Nat) : State :=
  let r := s.ring n
  let s1 := s.setRing n { r with cmds := r.cmds.map (fun d => if d.id = id then { d with started := true } else d) }
  let s2 := { s1 with actor := some (id, 0) }
  if leavesSafelight t then { s2 with life := { s2.life with safelight := false } } else s2

/-- R202, R208, R214: completes a command; later commands of its ring go on. -/
def State.complete (s : State) (n id status : Nat) (hostDetail : Bool) (detail : Nat) : State :=
  let r := s.ring n
  match r.cmd id with
  | none => s
  | some c =>
    let s1 := s.setRing n { r with cmds := r.cmds.filter (fun d => d.id != id) }
    let tag := (c.bytes.drop 8).take 8
    if s1.mayRequest && s1.host.held.isEmpty then
      s1.writeRecord r.cq n c.seq tag status hostDetail detail c.fetched c.irq
    else
      { s1 with host := { s1.host with
          held := s1.host.held ++ [.record r.cq n c.seq tag status hostDetail detail c.fetched c.irq s1.host.buffer.length] } }

/-- R197: the types of the table. -/
def knownType (t : Nat) : Bool := decide (1 ≤ t) && decide (t ≤ 14)

/-- Starts the oldest waiting command of ring `n`, if its type is `t` and it may start. -/
def State.startCmd (s : State) (n t : Nat) : Option (FetchedCmd × State) :=
  match (s.ring n).waiting with
  | none => none
  | some c => if c.typ == t && s.mayStart n c then some (c, s.markStarted n c.id t) else none

/-- Completes a just started command with BAD_DESCRIPTOR and no other effect (R5). -/
def State.badCmd (s : State) (n : Nat) (c : FetchedCmd) : State := s.complete n c.id 0x20 false 0

/-- The status and detail of a command whose access failed. -/
def MemErr.detail : MemErr → Nat
  | .addr d => d
  | .bad b => b
  | .identity => 0
  | .link l => l
  | .wait => 0

/-- R200: commands of reserved types that are next on ring `n` and may start complete with BAD_DESCRIPTOR. -/
def State.settleReserved : Nat → Nat → State → State
  | 0, _, s => s
  | fuel + 1, n, s =>
    match (s.ring n).waiting with
    | none => s
    | some c => if !knownType c.typ && s.mayStart n c then State.settleReserved fuel n (s.badCmd n c) else s

/-- The same for every ring. No command of the table starts a reserved type, so it starts at the next fetch or poll (DESIGN CHOICE,
log 20). -/
def State.settleAllReserved (s : State) : State :=
  (s.host.rings.map (·.1)).foldl (fun (x : State) n => x.settleReserved 64 n) s

/-- Completes a command whose access failed (R19, R213): the address in the detail of an ADDRESS_FAULT. -/
def State.failCmd (s : State) (n : Nat) (c : FetchedCmd) (e : MemErr) : State :=
  s.complete n c.id e.status false (match e with | .bad _ => 0 | e => e.detail)

/-- Ends a command of any ring without running it further, with a completion detail. -/
def State.endCmdWith (s : State) (id status detail : Nat) : State :=
  match s.host.rings.find? (fun p => p.2.cmds.any (fun c => c.id == id)) with
  | none => s
  | some p => s.complete p.1 id status false detail

/-- R310, R345: ends a command of any ring without running it further. -/
def State.endCmd (s : State) (id status : Nat) : State := s.endCmdWith id status 0

/-! ### Steps (R312, R322) -/

/-- Records the first own cause of a dirty verdict of step `n`. -/
def State.dirtyStep (s : State) (n cause : Nat) : State :=
  { s with proof := { s.proof with steps := s.proof.steps.map (fun r =>
      if r.num = n && r.cause == 0 then { r with cause := cause } else r) } }

/-- R322: a command or op of a step ended with a status of 0x20 or above. -/
def State.stepStatus (s : State) (step : Option Nat) (status : Nat) : State :=
  match step with
  | some n => if 0x20 ≤ status then s.dirtyStep n 1 else s
  | none => s

/-- The number of the open step, if one is open. -/
def State.openNum (s : State) : Option Nat := s.openStep.map (·.num)

/-- R325: some step is FAILED. -/
def State.stepFailed (s : State) : Bool := s.proof.steps.any (fun r => r.st == .failed)

/-! ### The ready window (R52, R55) -/

def opMatmul : Nat := 1
def opVec : Nat := 2
def opMove : Nat := 3
def opColl : Nat := 4
def opWait : Nat := 5
def opSignal : Nat := 6
def opBranch : Nat := 7
def opStep : Nat := 8

/-- A 64-bit word of an op descriptor. -/
def Op.w (o : Op) (off : Nat) : Nat := word64 o.desc off
def Op.barrier (o : Op) : Bool := bit (o.w 0) 8
def Op.tag (o : Op) : Nat := bits (o.w 0) 63 32

def State.op (s : State) (id : Nat) : Option Op := s.seq.window.find? (fun o => o.id == id)

def State.setOp (s : State) (o : Op) : State :=
  { s with seq := { s.seq with window := s.seq.window.map (fun x => if x.id = o.id then o else x) } }

/-- An op, or a command, has nothing outstanding on any tray channel. -/
def State.quiet (s : State) (id : Nat) : Bool :=
  !(s.net.channels.any (fun p => p.2.unacked.any (fun f => f.op == some id) ||
      p.2.windows.any (fun w => w.actor == id && w.data.isNone))) &&
    !(s.net.reads.any (fun r => r.op == id)) && !(s.net.pulls.any (fun r => r.2.op == id))

/-- A command that wrote its output: it completes once no frame to a tray peer carries that output any more (R214, R247). -/
def State.completeWritten (s : State) (n id status detail : Nat) : State :=
  if !s.quiet id then
    let r := s.ring n
    s.setRing n { r with cmds := r.cmds.map (fun d => if d.id = id then { d with due := some (status, detail) } else d) }
  else s.complete n id status false detail

def State.dropOp (s : State) (id : Nat) : State :=
  { s with seq := { s.seq with window := s.seq.window.filter (fun x => x.id != id) } }

def State.program (s : State) (ring : Nat) : Option Program := s.seq.programs.find? (fun p => p.ring == ring)

def State.setProgram (s : State) (p : Program) : State :=
  { s with seq := { s.seq with programs := s.seq.programs.map (fun x => if x.ring = p.ring then p else x) } }

/-- PT_ROOT as latched for a program's command (R29). -/
def State.rootOf (s : State) (ring : Nat) : Word := ((s.program ring).map (·.root)).getD s.mem.ptRoot

/-- The module acts for an op of the window. -/
def State.acting (s : State) (id : Nat) : State :=
  match s.op id with
  | some o => { s with actor := some (id, o.tag) }
  | none => s

/-- An event of an op that can only happen at READY, and may have to wait. -/
def whenOp (s : State) (op : Nat) (f : State → Option State) : Out :=
  done s (if s.isReady then (f (s.acting op)).getD s else s)

/-- The same, for an op that may need bytes of a tray peer's window (R22). -/
def whenOpPeers (s : State) (op : Nat) (f : State → Option State) : Out :=
  done s (if s.isReady then ((f (s.acting op)).map s.afterPeers).getD s else s)

/-- Earlier ops of the same program that have not completed. -/
def State.earlier (s : State) (o : Op) : List Op :=
  s.seq.window.filter (fun x => x.ring == o.ring && x.id < o.id)

/-- R55, R204, R163, R319, R325: whether the sequencer may start an op: none is held back by a boundary, a failed
step, its program's stop, an earlier WAIT, SIGNAL, BRANCH or STEP, or a barrier. -/
def State.opFree (s : State) (o : Op) : Bool :=
  o.phase == .taken && s.proof.boundary.isNone && !s.stepFailed &&
  (match s.program o.ring with | some p => !p.stopped | none => false) &&
  (let es := s.earlier o
   !es.any (fun x => [opWait, opSignal, opBranch, opStep].contains x.kind) &&
   (!(o.barrier || [opSignal, opBranch, opStep].contains o.kind) || es.isEmpty))

/-- R171: the first issue at a BRANCH's target ends its time. -/
def State.branchTarget (s : State) (ring : Nat) : State :=
  match s.seq.branches.get none ring with
  | none => s
  | some t =>
    { s with vec := { s.vec with branchMaxNs := satCount 32 (max s.vec.branchMaxNs (s.clock.time - t)) }
             seq := { s.seq with branches := s.seq.branches.set none ring none } }

/-- R319: marks an op as issued now, in the open step. -/
def State.issue (s : State) (o : Op) : State × Op :=
  let o1 : Op := { o with phase := .issued, step := s.openNum, issueTime := s.clock.time }
  ((s.branchTarget o.ring).setOp o1, o1)

/-- DST_MEMBER of a MOVE (R250). -/
def Op.moveDstMember (o : Op) : Nat := bits (o.w 0x18) 50 48

/-- Where each op type keeps RESULT_ADDR (R52, R136, R162, R204, R205, R250, R268, R321). -/
def resultOffset (kind : Nat) : Nat :=
  if kind = opMatmul then 0x40
  else if kind = opStep then 0x10
  else if kind = opColl then 0x30
  else 0x20

def Op.resultAddr (o : Op) : Nat := bits (o.w (resultOffset o.kind)) 47 0

/-- R164: the layout shared by BRANCH, MOVE, SIGNAL, WAIT and STEP: status, flags, tag, bytes 16 to 23, END_TIME. -/
def shortRecord (status flags tag value endTime : Nat) : List Byte :=
  leBytes 1 status ++ leBytes 1 flags ++ zeros 6 ++ leBytes 4 tag ++ zeros 4 ++ leBytes 8 value ++ leBytes 8 endTime

/-- A program's statuses after one of its ops completed with `status` (R58, R59, R198). -/
def Program.note (p : Program) (o : Op) (status : Nat) (detail : Option Word) : Program :=
  let tag : BitVec 32 := BitVec.ofNat 32 o.tag
  let p1 := { p with completed := p.completed + 1 }
  if 0x20 ≤ status then
    let p2 := { p1 with stopped := true, next := none }
    if p2.failure.isSome || p2.proofFailed then p2 else { p2 with failure := some (status, tag, detail) }
  else if status = 0x10 then (if p1.saturated.isSome then p1 else { p1 with saturated := some tag })
  else if p1.best < status then { p1 with best := status, bestTag := tag }
  else p1

/-- Status and detail of a program that has ended (R198). -/
def Program.result (p : Program) : Nat × Nat :=
  let det := fun (tag : BitVec 32) => p.completed % 2 ^ 32 + tag.toNat * 2 ^ 32
  match p.failure with
  | some (st, tag, some d) => if st = 0x21 then (st, d.toNat) else (st, det tag)
  | some (st, tag, none) => (st, det tag)
  | none =>
    if p.proofFailed then (0x61, det 0)
    else
      match p.saturated with
      | some tag => (0x10, det tag)
      | none => if p.best = 0 then (0, det 0) else (p.best, det p.bestTag)

/-- R198, R214: completes the program of a ring when its list has ended and no op of it remains. -/
def State.settleProgram (s : State) (ring : Nat) : State :=
  match s.program ring with
  | none => s
  | some p =>
    if p.next.isNone && !s.seq.window.any (fun o => o.ring == ring) then
      let s1 := { s with seq := { s.seq with programs := s.seq.programs.filter (fun x => x.ring != ring) } }
      let r := p.result
      s1.complete ring p.cmd r.1 false r.2
    else s

/-- R85: the chain that a MATMUL was to begin is not opened. -/
def State.dropOpening (s : State) (op : Nat) : State :=
  { s with numerics := { s.numerics with chains := s.numerics.chains.filter (fun c => c.opening != some op) } }

/-- R59: after a stop, ops of the program that have not issued leave the window, and their requests with them. -/
def State.dropUnissued (s0 : State) (ring : Nat) : State :=
  let gone := (s0.seq.window.filter (fun o => o.ring == ring && o.phase != .issued)).map (·.id)
  let s := gone.foldl State.dropOpening s0
  { s with seq := { s.seq with window := s.seq.window.filter (fun o => !(o.ring == ring && o.phase != .issued)) }
           power := { s.power with requests := s.power.requests.filter (fun q => !gone.contains q.op) }
           plate := { s.plate with running := s.plate.running.filter (fun m => !gone.contains m.op) } }

/-- R437: writes the result record of an op, if it has one: its final status and the address of a failed write.
`none`: the write waits (R327). -/
def State.writeResult (s : State) (o : Op) (status : Nat) (detail : Option Word) (record : Nat → List Byte) :
    Option (State × Nat × Option Word) :=
  let a := o.resultAddr
  if a = 0 then some (s, status, detail)
  else if a % 32 != 0 then some (s, if status < 0x20 then 0x20 else status, detail)
  else
    match s.writeVirt (s.rootOf o.ring) allowOps a (record status) with
    | (s1, .ok _) => some (s1, status, detail)
    | (_, .error .wait) => none
    | (s1, .error _) =>
      if status < 0x20 then some (s1, 0x21, some (BitVec.ofNat 64 (virtDetail a))) else some (s1, status, detail)

/-- What follows an op's result record: its counters (R171, R318), its step's verdict (R322), and its program (R59). -/
def State.closeOp (s1 : State) (o : Op) (st : Nat) (d : Option Word) : State :=
  let s2 := (s1.stepStatus o.step st).onlyIf (st == 3) (fun x => x.count 0x420 1)
  let s2b := s2.onlyIf (o.kind == opBranch) (fun x => { x with vec := { x.vec with branchCount := x.vec.branchCount + 1 } })
  let s2c := s2b.onlyIf (o.kind == opMatmul) (fun x => { x with plate := { x.plate with matmulCount := (x.plate.matmulCount + 1) % 2 ^ 64 } })
  let s3 := (s2c.onlyIf (st == 0x30) (fun x => x.count 0x428 1)).dropOp o.id
  let s4 := match s3.program o.ring with
    | none => s3
    | some p => s3.setProgram (p.note o st d)
  let s5 := if 0x20 ≤ st then s4.dropUnissued o.ring else s4
  s5.settleProgram o.ring

/-- Completes an op: its result record, the events `tell` raises of its final status (R219: after the record, before the
completion of its command), and what follows. -/
def State.finishTelling (s : State) (o : Op) (status : Nat) (detail : Option Word) (record : Nat → List Byte)
    (tell : State → Nat → State) : Option State :=
  match s.writeResult o status detail record with
  | none => none
  | some (s1, st, d) => some ((tell s1 st).closeOp o st d)

/-- Completes an op that raises no event of its own. -/
def State.finishOp (s : State) (o : Op) (status : Nat) (detail : Option Word) (record : Nat → List Byte) :
    Option State := s.finishTelling o status detail record (fun x _ => x)

/-- R436: a list that fails stops its program; what has issued runs to completion. -/
def State.stopList (s : State) (p : Program) (status : Nat) (tag : BitVec 32) (detail : Option Word) : State :=
  let p1 : Program := { p with stopped := true, next := none
                               failure := if p.failure.isSome || p.proofFailed then p.failure else some (status, tag, detail) }
  ((s.setProgram p1).dropUnissued p.ring).settleProgram p.ring

/-- The detail a failed access gives its op. -/
def MemErr.word : MemErr → Option Word
  | .addr d => some (BitVec.ofNat 64 d)
  | _ => none

end Sys2Proof.Machine
end

