-- ==== Sys2Proof/Machine/Operands.lean ====
section
/-! DEFINITION. Register writes of 4 and 8 bytes (R185), and the MATMUL descriptor with the geometry that follows from
it: formats, halves, passes, region, fold slots and times (R31 to R64, R76 to R80, R114, R301, R303). -/

namespace Sys2Proof.Machine

/-- R185: value of a 64-bit register after a write of 8 bytes or of one half. -/
def accessValue (a : RegAccess) (old : Nat) : Nat :=
  match a with
  | .wide v => v.toNat
  | .low v => old / 2 ^ 32 * 2 ^ 32 + v.toNat
  | .high v => v.toNat * 2 ^ 32 + old % 2 ^ 32


/-! ### Formats (R35) -/

def codeBF16 : Nat := 0
def codeFP16 : Nat := 1
def codeE4M3 : Nat := 2
def codeE5M2 : Nat := 3
def codeE2M1 : Nat := 4
def codeINT8 : Nat := 5
def codeINT4 : Nat := 6
def codeA24 : Nat := 7
def codeNone : Nat := 15

/-- The float format of a code, if it is one. -/
def floatFmt (c : Nat) : Option FloatFmt :=
  match c with
  | 0 => some fmtBF16
  | 1 => some fmtFP16
  | 2 => some fmtE4M3
  | 3 => some fmtE5M2
  | 4 => some fmtE2M1
  | 7 => some fmtA24
  | _ => none

def isIntCode (c : Nat) : Bool := c == codeINT8 || c == codeINT4

/-- Bits of a stored element. -/
def codeBits (c : Nat) : Nat :=
  match c with
  | 0 => 16
  | 1 => 16
  | 4 => 4
  | 6 => 4
  | 7 => 24
  | _ => 8

/-- R112: the largest finite magnitude of a format, as a value. -/
def fMax (c : Nat) : Val :=
  match c with
  | 5 => .ofInt 127
  | 6 => .ofInt 7
  | _ =>
    match floatFmt c with
    | some f => let v := magValue f f.maxFin; .num false v.1 1 v.2
    | none => .zero

/-- The three modes of the plate. -/
inductive PlateMode where
  | bit4
  | bit8
  | bit16
  deriving DecidableEq, Repr

/-- R34: the mode of an operand pair, if the plate accepts it. -/
def plateMode (a b : Nat) : Option PlateMode :=
  let eights := fun c => c == codeE4M3 || c == codeE5M2 || c == codeE2M1
  if (a = 4 ∧ b = 4) ∨ (a = 6 ∧ b = 6) then some .bit4
  else if eights a && eights b then some .bit8
  else if isIntCode a && isIntCode b then some .bit8
  else if (a = 0 ∧ b = 0) ∨ (a = 1 ∧ b = 1) then some .bit16
  else none

/-- K-tile of a mode (R34). -/
def PlateMode.ktile : PlateMode → Nat
  | .bit4 => 1536
  | .bit8 => 768
  | .bit16 => 384

/-- R40: N-tile width W and C0 share S of a band. -/
def PlateMode.ws (m : PlateMode) (band : Nat) : Nat × Nat :=
  let x := match band with
    | 1 => (1024, 1024)
    | 2 => (2048, 512)
    | _ => (3072, 1536)
  match m with
  | .bit16 => (x.1 / 2, x.2 / 2)
  | _ => x

/-! ### The MATMUL descriptor (R52, R53) -/

def matDesc (o : Op) : MatDesc :=
  let a := fun off => bits (o.w off) 47 0
  let lo := fun off => bits (o.w off) 31 0
  let hi := fun off => bits (o.w off) 63 32
  let m := lo 0x78
  { check := bits (o.w 0) 10 9, barrier := bits (o.w 0) 8 8, band := bits (o.w 0) 12 11
    tag := BitVec.ofNat 32 o.tag, next := a 8
    aAddr := a 0x10, b0Addr := a 0x18, b1Addr := a 0x20, out0Addr := a 0x28, out1Addr := a 0x30
    smoothPage := lo 0x38, rowstatPage := hi 0x38, resultAddr := a 0x40
    m := bits (o.w 0x48) 23 0, n := bits (o.w 0x48) 47 24, mblock := bits (o.w 0x48) 63 48
    k := lo 0x50, kTileBase := hi 0x50, aStride := lo 0x58, bStride := hi 0x58
    outStride := lo 0x60, spillPage := hi 0x60
    aTid := BitVec.ofNat 32 (lo 0x68), bTid := BitVec.ofNat 32 (hi 0x68), outTid := BitVec.ofNat 32 (lo 0x70)
    accBase := bits (o.w 0x70) 40 32, accSize := bits (o.w 0x70) 50 41
    aFmt := bits m 3 0, bFmt := bits m 7 4, outFmt := bits m 11 8
    aLoadq := bit m 12, bLoadq := bit m 13, transA := bit m 14, transB := bit m 15
    rotA := bits m 17 16, rotB := bits m 19 18, smooth := bit m 20, split := bit m 21, accAdd := bit m 22
    foldCont := bit m 23, foldKeep := bit m 24, rowmax := bit m 25, rowsum := bit m 26, sr := bit m 27
    srUse := bits (o.w 0x78) 47 32 }

/-- R52, R53: reserved bits of the descriptor, and reserved codes other than formats (step 1 of R54). -/
def matReserved (o : Op) (d : MatDesc) : Bool :=
  bits (o.w 0) 31 13 != 0 || d.band == 3 ||
  [0x08, 0x10, 0x18, 0x20, 0x28, 0x30, 0x40].any (fun off => bits (o.w off) 63 48 != 0) ||
  bits (o.w 0x70) 63 51 != 0 || bits (o.w 0x78) 31 28 != 0 || bits (o.w 0x78) 63 48 != 0 ||
  d.rotA == 3 || d.rotB == 3

/-- R35: a reserved code, or one in a field that does not allow it (step 2 of R54). -/
def matFormatBad (d : MatDesc) : Bool :=
  6 < d.aFmt || 6 < d.bFmt || (7 < d.outFmt && d.outFmt != codeNone)

/-- The mode the plate runs in. An operand pair that R34 does not list has none; the 8-bit mode stands in for it where a
descriptor is checked or recorded before step 4 of R54 refuses the pair (DESIGN CHOICE, log 72). -/
def MatDesc.mode (d : MatDesc) : PlateMode := (plateMode d.aFmt d.bFmt).getD .bit8

def MatDesc.isInt (d : MatDesc) : Bool := isIntCode d.aFmt
/-- Slots per element, e of R77. -/
def MatDesc.e (d : MatDesc) : Nat := if d.isInt then 2 else 1
def MatDesc.kt (d : MatDesc) : Nat := ceilDiv d.k d.mode.ktile
/-- R77: whole form. -/
def MatDesc.whole (d : MatDesc) : Bool := d.accAdd || d.foldKeep || d.foldCont || d.outFmt == codeA24
def MatDesc.chainMember (d : MatDesc) : Bool := d.foldKeep || d.foldCont
/-- Whether the MATMUL drains into memory or sets its entry (R114, R116). -/
def MatDesc.drains (d : MatDesc) : Bool := d.outFmt != codeNone
/-- Whether bytes of an output are stored. -/
def MatDesc.stores (d : MatDesc) : Bool := d.outFmt != codeNone && d.outFmt != codeA24

/-- R77: columns n < N of half (and die) `h` under W and S. -/
def halfCols (w sh n h : Nat) : Nat :=
  let c0 := n / w * sh + min (n % w) sh
  if h = 0 then c0 else n - c0

/-- R40, R77: the half a column belongs to, and its place among that half's columns. -/
def halfOf (w sh n : Nat) : Nat × Nat :=
  if n % w < sh then (0, n / w * sh + n % w) else (1, n / w * (w - sh) + (n % w - sh))

def MatDesc.halves (d : MatDesc) (h : Nat) : Nat :=
  let x := d.mode.ws d.band
  halfCols x.1 x.2 d.n h

/-- Bits of a stored element of A and of B (R39). -/
def MatDesc.aBits (d : MatDesc) : Nat := if d.aLoadq then 16 else codeBits d.aFmt
def MatDesc.bBits (d : MatDesc) : Nat := if d.bLoadq then 16 else codeBits d.bFmt

/-- Bytes of a stored row of `n` elements. -/
def rowBytes (n bitsPer : Nat) : Nat := ceilDiv (n * bitsPer) 8

/-- Columns of the widest stored half of B or of the output. -/
def MatDesc.storedCols (d : MatDesc) : Nat := if d.split then max (d.halves 0) (d.halves 1) else d.n

/-- Whether positions lie in more than one root window (R78). -/
def MatDesc.manyWindows (d : MatDesc) : Bool := d.kTileBase / 4096 != (d.kTileBase + d.kt - 1) / 4096

/-- Bit length. -/
def bitLength (n : Nat) : Nat := if n = 0 then 0 else Nat.log2 n + 1

/-- R78: fold slots per element. -/
def MatDesc.foldSlots (d : MatDesc) : Nat :=
  if d.isInt then 0
  else if d.chainMember || d.manyWindows then 13
  else let b := d.kTileBase % 4096; bitLength (Nat.xor b (b + d.kt - 1))

/-- R79: fold slots held in the region. -/
def MatDesc.regionSlots (d : MatDesc) : Nat :=
  if d.spillPage = 0 then d.foldSlots else if 4 < d.foldSlots then 4 else d.foldSlots

/-- R76: first slot and capacity of the region. -/
def MatDesc.firstSlot (d : MatDesc) : Nat := ceilDiv (d.accBase * 65536) 3
def MatDesc.capacity (d : MatDesc) : Nat := (d.accBase + d.accSize) * 65536 / 3 - d.firstSlot

/-- R42: block height. -/
def MatDesc.blockRows (d : MatDesc) : Nat := if d.mblock = 0 ∨ d.m < d.mblock then d.m else d.mblock

/-- R80: columns per block per die in the layout that executes. -/
def MatDesc.blockCols (d : MatDesc) (asWhole : Bool) (die : Nat) : Nat :=
  let x := d.mode.ws (if asWhole then 0 else d.band)
  if die = 0 then x.2 else x.1 - x.2

/-- R301: slots of the check buffer of a FULL operation on each die. -/
def MatDesc.checkBuffer (d : MatDesc) (full : Bool) (rows : Nat) : Nat :=
  if full then rows * d.blockCols true 0 * d.e else 0

/-- R80, R301: the region holds `blocks` blocks of `rows` rows, in block form, on a die. -/
def MatDesc.fitsBlocks (d : MatDesc) (full asWhole : Bool) (blocks rows die : Nat) : Bool :=
  decide (rows * d.blockCols asWhole die * d.e * (blocks + d.regionSlots) + d.checkBuffer full rows ≤ d.capacity)

/-- R80, R301: the whole-form row fits on a die. -/
def MatDesc.fitsWhole (d : MatDesc) (full asWhole : Bool) (die : Nat) : Bool :=
  let res := d.m * d.halves die * d.e
  let fold := if d.chainMember then d.m * d.halves die * d.e * d.regionSlots
    else d.blockRows * d.blockCols asWhole die * d.e * d.regionSlots
  decide (res + fold + d.checkBuffer full d.blockRows ≤ d.capacity)

/-- R54: the region holds one block, or the whole form. -/
def MatDesc.regionHolds (d : MatDesc) (full : Bool) : Bool :=
  [0, 1].all (fun die =>
    if d.whole then d.fitsWhole full full die else d.fitsBlocks full full 1 d.blockRows die)

/-- R43, R80: two blocks fit, so a drain overlaps the next block; whole form always overlaps. -/
def MatDesc.overlaps (d : MatDesc) (full asWhole : Bool) (rows : Nat) : Bool :=
  d.whole || [0, 1].all (fun die => d.fitsBlocks full asWhole 2 rows die)

/-- R54: the cases of the rule (step 3). The manual gives an operand pair that R34 does not list no mode; the model takes the
stored-row widths of SPLIT = 1 with the W and S of the 8-bit mode for it (`MatDesc.mode`) and leaves out the two cases that need a
K-tile, the region and the last position, so that step 4 refuses such a pair (DESIGN CHOICE, log 72). -/
def matRuleBad (d : MatDesc) (full : Bool) : Bool :=
  let addrs := [d.aAddr, d.b0Addr, d.b1Addr, d.out0Addr, d.out1Addr]
  let strides := [d.aStride, d.bStride, d.outStride]
  let noOut := !d.stores
  let aRow := rowBytes (if d.transA then d.m else d.k) d.aBits
  let bRow := rowBytes (if d.transB then d.k else d.storedCols) d.bBits
  let oRow := rowBytes d.storedCols (codeBits d.outFmt)
  d.m == 0 || d.n == 0 || d.k == 0 ||
  addrs.any (fun x => x % 64 != 0) || strides.any (fun x => x % 64 != 0) ||
  decide (d.aStride < aRow) || decide (d.bStride < bRow) || (!noOut && decide (d.outStride < oRow)) ||
  (!d.split && (d.b1Addr != 0 || d.out1Addr != 0)) || (d.split && d.band == 1) ||
  (d.split && d.b1Addr == 0) || (d.split && !noOut && d.out1Addr == 0) ||
  (d.rotA != 0 && !d.aLoadq) || (d.rotB != 0 && !d.bLoadq) ||
  (d.rotA == 1 && d.k % 64 != 0) || (d.rotA == 2 && d.k % 256 != 0) ||
  (d.rotB == 1 && d.k % 64 != 0) || (d.rotB == 2 && d.k % 256 != 0) ||
  (d.smooth && (!d.aLoadq || !d.bLoadq || d.rotA != 0 || d.rotB != 0)) ||
  (d.aLoadq && codeBits d.aFmt == 16) || (d.bLoadq && codeBits d.bFmt == 16) ||
  (d.foldKeep && (d.outFmt != codeNone || d.rowmax || d.rowsum || d.sr)) ||
  (d.outFmt == codeNone && !d.foldKeep) ||
  (noOut && (d.out0Addr != 0 || d.outStride != 0)) ||
  (d.sr && noOut) ||
  (!d.smooth && d.smoothPage != 0) || (!d.rowmax && !d.rowsum && d.rowstatPage != 0) || (!d.sr && d.srUse != 0) ||
  d.accSize == 0 || decide (512 < d.accBase + d.accSize) ||
  d.next % 128 != 0 || d.resultAddr % 32 != 0 ||
  ((plateMode d.aFmt d.bFmt).isSome &&
    (!d.regionHolds full || decide (0xFFFFFFFF < d.kTileBase + d.kt - 1)))

/-- R288: the effective checking mode. -/
def effectiveCheck (field : Nat) (latched : BitVec 2) : Nat := if field = 0 then latched.toNat else field

/-- R54, steps 1 to 4: the status of a descriptor's own checks, 0 when all pass. -/
def matTakeCheck (o : Op) (latched : BitVec 2) : Nat :=
  let d := matDesc o
  if matReserved o d || matFormatBad d || matRuleBad d (effectiveCheck d.check latched == 3) then 0x20
  else if d.outFmt = codeINT4 then 0x22
  else if (plateMode d.aFmt d.bFmt).isNone then 0x22
  else 0

/-- Accumulator regions of two descriptors overlap. -/
def MatDesc.regionMeets (d x : MatDesc) : Bool :=
  decide (d.accBase < x.accBase + x.accSize) && decide (x.accBase < d.accBase + d.accSize)

/-! ### Passes (R42) -/

/-- W and S in which a run executes. -/
def MatRun.ws (r : MatRun) : Nat × Nat := r.d.mode.ws (if r.asWhole then 0 else r.d.band)
/-- Block height: a resident drain runs as one block (R42, R114). -/
def MatRun.mb (r : MatRun) : Nat := if r.resident then r.d.m else r.d.blockRows
def MatRun.nt (r : MatRun) : Nat := ceilDiv r.d.n r.ws.1
def MatRun.nb (r : MatRun) : Nat := ceilDiv r.d.m r.mb
def MatRun.blocks (r : MatRun) : Nat := r.nt * r.nb
def MatRun.passes (r : MatRun) : Nat := r.nt * r.nb * r.d.kt

/-- N-tile, block and K-tile of pass i. -/
def MatRun.passAt (r : MatRun) (i : Nat) : Nat × Nat × Nat := (i / r.d.kt / r.nb, i / r.d.kt % r.nb, i % r.d.kt)

/-- Height of block b. -/
def MatRun.height (r : MatRun) (b : Nat) : Nat := min r.mb (r.d.m - b * r.mb)

/-! ### Times (R63, R64, R293, R303) -/

/-- Bytes of one die's B slice in plate format (R293). -/
def sliceBytes : PlateMode → Nat
  | .bit16 => 589824
  | _ => 1179648

/-- R63: L_B with B in the dies' own local stores. -/
def MatDesc.loadTime (d : MatDesc) : Nat :=
  match d.mode with
  | .bit16 => 384
  | .bit8 => if d.bLoadq then 1536 else 768
  | .bit4 => if d.bLoadq then 3072 else 768

/-- R63: L_B when the columns of die `die` lie in the other die's local store. Its bytes are counted as stored (BF16 for a
B_LOADQ operand) and as those of a full slice, also where the K-tile or the N-tile is partial (DESIGN CHOICE, log 72). -/
def MatDesc.crossLoad (d : MatDesc) (asWhole : Bool) (die : Nat) : Nat :=
  ceilDiv (ceilDiv (d.mode.ktile * d.blockCols asWhole die * d.bBits) 8) 232

/-- R44: transposition. -/
def MatDesc.turn (d : MatDesc) : Nat := if d.transA || d.transB then 64 else 0

/-- Drain steps per row: none without a drain, two when resident (R64). An A24 output, of which nothing is stored, counts as a
streaming drain (DESIGN CHOICE, log 72). -/
def MatRun.perRow (r : MatRun) : Nat := if !r.d.drains then 0 else if r.resident then 2 else 1

/-- Sum of `f h` over the heights of every pass. -/
def MatRun.sumPasses (r : MatRun) (f : Nat → Nat) : Nat :=
  r.nt * r.d.kt * ((r.nb - 1) * f r.mb + f (r.height (r.nb - 1)))

/-- T_wait of R64. -/
def MatRun.waitTime (r : MatRun) (full : Bool) : Nat :=
  if r.d.overlaps full r.asWhole r.mb then 0
  else r.perRow * (r.nt * ((r.nb - 1) * r.mb + r.height (r.nb - 1)) - r.height (r.nb - 1))

/-- ACLK in which `h` rows stream: one each, or one every 768 / 232 when a forward band's A rows cross the link (R51). -/
def MatRun.rowAclk (r : MatRun) (h : Nat) : Nat := if r.slowA then ceilDiv (768 * h) 232 else h

/-- T of R64 for one run, from its start term and L_B. -/
def MatRun.runTime (r : MatRun) (start lb : Nat) : Nat :=
  let last := r.height (r.nb - 1)
  start + (r.sumPasses (fun h => max (r.rowAclk h) lb) - max (r.rowAclk last) lb) + r.rowAclk last + 48 +
    r.perRow * last + r.waitTime false + r.d.turn

/-- pair(h) of R303. -/
def pairTime (z h : Nat) : Nat := 2 * h + ceilDiv (z - 232 * h) 1000

/-- T_full of R303. -/
def MatRun.fullTime (r : MatRun) (start : Nat) : Nat :=
  let last := r.height (r.nb - 1)
  let z := sliceBytes r.d.mode
  start + (r.sumPasses (pairTime z) - pairTime z last) + 2 * last + 48 + r.perRow * last + r.waitTime true + 64 + r.d.turn

/-- R293, R303: a re-run or vote pass of height h. -/
def shiftTime (m : PlateMode) (h : Nat) : Nat := h + ceilDiv (sliceBytes m) 2000

/-- R64: T_start: ramp when cold, L_B when idle, the rest of L_B when it directly follows a pass of height h. -/
def startTime (warm : Bool) (follows : Option Nat) (lb : Nat) : Nat :=
  if !warm then 4000 else match follows with
    | some h => lb - h
    | none => lb

/-- ACLK from the first row of pass `i` to that of the next, of the run that streams (R64, R303). -/
def MatRun.passAclk (r : MatRun) (i : Nat) : Nat :=
  let h := r.height (r.passAt i).2.1
  if r.check = 3 then pairTime (sliceBytes r.d.mode) h else max (r.rowAclk h) r.lb

/-- R43: a block may stream while as many earlier blocks wait for their drain as the region holds beside it. -/
def MatRun.blockRoom (r : MatRun) : Bool :=
  !r.d.drains || r.d.whole ||
    decide (r.pass / r.d.kt < r.drained + (if r.d.overlaps (r.check == 3) r.asWhole r.mb then 2 else 1))

/-- Largest number of result columns that either die holds (R114, R118). -/
def MatDesc.nMax (d : MatDesc) : Nat := min d.n (d.mode.ws 0).2

/-- R118: ACLK of a drain that runs alone. -/
def MatRun.drainAclk (r : MatRun) : Nat := r.d.m * ceilDiv r.d.nMax 1536

/-- R57: ACLK of the part of a run that had streamed, or drained, when its MATMUL ended; none of it is in PLATE_ACLK yet. A run
that ends within a pass counts the passes before it (DESIGN CHOICE, log 72). -/
def MatRun.partAclk (r : MatRun) : Nat :=
  if r.decided ≠ 0 then 0
  else if r.brackets ≠ 0 && r.d.whole then min r.drainAclk (r.drained * r.mb * ceilDiv r.d.nMax 1536)
  else if r.pass = 0 then 0
  else r.start + (if r.brackets = 0 then r.extra else 0) + ((List.range r.pass).map r.passAclk).sum

/-- The run of a MATMUL that ends before its time, its PLATE_ACLK complete. -/
def MatRun.cutShort (r : MatRun) : MatRun := { r with plateAclk := r.plateAclk + r.partAclk }

/-- L_B that T_start counts: that of the slices of run D under FULL (R303). -/
def MatRun.startLoad (r : MatRun) : Nat := if r.check = 3 then ceilDiv (sliceBytes r.d.mode) 1000 else r.lb

/-- R114: the drain of a MATMUL with no history and no pin is resident. -/
def MatDesc.resident (d : MatDesc) (histCount : Nat) (pinned : Bool) : Bool :=
  let nMax := d.nMax
  histCount == 0 && !pinned && d.stores && d.outFmt != codeBF16 && decide (d.n ≤ (d.mode.ws 0).1) &&
  [0, 1].all (fun die =>
    if !d.whole then decide (d.m * nMax * d.e * (1 + d.regionSlots) ≤ d.capacity)
    else if d.foldCont then decide (d.m * d.halves die * d.e * (1 + d.regionSlots) ≤ d.capacity)
    else decide (d.m * d.halves die * d.e + d.m * nMax * d.e * d.regionSlots ≤ d.capacity))

end Sys2Proof.Machine
end

