-- ==== Sys2Proof/Machine/Power.lean ====
section
/-! DEFINITION. Power, heat and franking (12): the standing load, the three ledgers, requests and grants, calibration
and drift, the governor and the clamp. Powers are in mW, temperatures in 1/16 °C (log 13). -/

namespace Sys2Proof.Machine

/-! ### Who draws what -/

/-- R350: worst-case ceiling of a class, in W. -/
def ceilingW (v : Variant) (c : Nat) : Nat :=
  match c with
  | 0 => 1150
  | 1 => 1050
  | 2 => 950
  | 3 => 900
  | 4 => match v with
    | .alc => 480
    | .elc => 560
  | _ => 90

/-- Largest x < 2^k + acc with x^400 × 2^1360 ≤ v. -/
def leakSearch (v : Nat) : Nat → Nat → Nat
  | 0, x => x
  | k + 1, x => leakSearch v k (if (x + 2 ^ k) ^ 400 * 2 ^ 1360 ≤ v then x + 2 ^ k else x)

/-- R348: L(T) = L_85 × 2^((T − 85) / 25), rounded down to a mW, with T in 1/16 °C: (T − 1360) / 400 octaves. -/
def leakage (l85 : Nat) (t16 : Int) : Nat :=
  if 0 ≤ t16 then leakSearch (l85 ^ 400 * 2 ^ t16.toNat) 24 0
  else leakSearch (l85 ^ 400 / 2 ^ (-t16).toNat) 24 0

/-- R348: mean of all C-die and X-die sensors: 64, 64 and 16 of them. -/
def State.meanTemp (s : State) : Int :=
  match s.power.dieAvg with
  | [a, b, x] => (64 * a + 64 * b + 16 * x) / 144
  | _ => 0

/-- Number of passes streamed so far is short of the run's passes. -/
def MatRun.streaming (r : MatRun) : Bool := r.pass < r.passes && r.decided == 0 && r.failure.isNone

/-- R349: the op's run holds its frank. -/
def State.holdsFrank (s : State) (op : Nat) : Bool := s.power.held.any (fun f => f.op == op)

/-- R349: the op waits for a frank. -/
def State.asksFrank (s : State) (op : Nat) : Bool := s.power.requests.any (fun f => f.op == op && f.use_ != .topUp)

/-- A row of the run streams: every frank it asked for is held, and passes remain. -/
def State.streams (s : State) (r : MatRun) : Bool :=
  s.holdsFrank r.op && !s.asksFrank r.op && r.streaming

/-- R178: a row of the run streams now: those of the pass at hand, from its first row on, and of both runs under FULL
(log 73). -/
def State.rowsStream (s : State) (r : MatRun) : Bool :=
  let n := (if r.check = 3 && r.owed.isEmpty then 2 else 1) * r.rowAclk (r.height (r.passAt r.pass).2.1)
  s.streams r && r.blockRoom && decide (r.rowsFrom ≤ s.clock.aclk) && decide (s.clock.aclk < r.rowsFrom + n)

def State.anyStreams (s : State) : Bool := s.plate.running.any (fun r => s.streams r)

/-- Standing watts of the SerDes of one port (R348). -/
def Port.serdes (p : Port) : Nat :=
  if p.state = 0 then 0
  else match p.gen with
    | 1 => 3000
    | 2 => 5000
    | _ => 8800

/-- R348: the HBM background term. -/
def State.hbmIdle (s : State) : Nat :=
  if s.life.safelight then 20000 else match s.fuses.variant with
    | .alc => 60000
    | .elc => 70000

/-- R348: the warm-plate term. -/
def State.warmPlate (s : State) : Nat := if s.plate.warm && !s.anyStreams then 100000 else 0

def State.serdesMw (s : State) : Nat := ((List.range 24).map (fun p => (s.port p).serdes)).sum

/-- R348: P_stand, in mW. -/
def State.standing (s : State) : Nat :=
  leakage s.power.l85 s.meanTemp + 25000 + 30000 + s.serdesMw + 20000 +
    (if s.life.safelight then 0 else 300000) + s.hbmIdle + s.warmPlate

def EnergyClass.calibrated (c : EnergyClass) : Bool := decide (1000 ≤ c.measured)

def State.class_ (s : State) (c : Nat) : EnergyClass := s.power.classes.get EnergyClass.reset c

def State.setClass (s : State) (c : Nat) (x : EnergyClass) : State :=
  { s with power := { s.power with classes := s.power.classes.set EnergyClass.reset c x } }

def State.ceilingMw (s : State) (c : Nat) : Nat := 1000 * ceilingW s.fuses.variant c

/-- R351: base of a class, in mW. -/
def State.baseMw (s : State) (c : Nat) : Nat :=
  if (s.class_ c).calibrated then (s.class_ c).tableMw else s.ceilingMw c

/-- R351: W in watts for a base, share and duty: 25 × ceil(1.05 × base × share × duty / 25). -/
def frankWatts (baseMw shareNum shareDen dutyNum dutyDen : Nat) : Nat :=
  25 * ceilDiv (105 * baseMw * shareNum * dutyNum) (100 * 1000 * 25 * shareDen * dutyDen)

/-- W of a frank under the present tables. -/
def State.wattsOf (s : State) (f : Frank) : Nat :=
  frankWatts (s.baseMw f.cls) f.shareNum f.shareDen f.dutyNum f.dutyDen

def State.limit (s : State) : Nat := min s.power.limitRequest s.power.boardCap

/-- H of R352, in W. -/
def State.heldW (s : State) : Nat := (s.power.held.map (·.watts)).sum

/-- P_fast of R352, in mW. -/
def State.fastMw (s : State) : Nat := min (1100 * s.limit) 2640000

/-- P_charged of R362, in mW. -/
def State.chargedMw (s : State) : Nat := s.power.standingMw + 1000 * s.heldW

/-! ### The ledgers (R352, R358, R359) -/

/-- µs of a held frank that remain: 100 once it has outlived its duration (R351). -/
def State.remaining (s : State) (f : Frank) : Nat :=
  let ran := (s.clock.time - f.since) / 1000
  if f.dur ≤ ran then 100 else f.dur - ran

/-- Sum of the newest k samples of 1 µs, in mW·µs. -/
def State.pastEnergy (s : State) (k : Nat) : Nat := (s.power.samples.take k).sum

def State.fitsFast (s : State) (f : Frank) : Bool :=
  decide (s.power.standingMw + 1000 * (s.heldW + f.watts) ≤ s.fastMw)

def State.fitsRegulator (s : State) (f : Frank) : Bool :=
  let d := min f.dur 1000
  decide (s.pastEnergy (1000 - d) + (s.power.held.map (fun h => 1000 * h.watts * min (s.remaining h) d)).sum +
    (s.power.standingMw + 1000 * f.watts) * d ≤ 1000 * s.limit * 1000)

/-- R350: franks of the plate, of HBM streams and of collective bursts. -/
def Frank.isPlate (f : Frank) : Bool := f.cls ≤ 3
def Frank.isHbm (f : Frank) : Bool := f.cls == 4

/-- R358: a plate frank's quarters of power on C0 and on C1, by its band's columns. -/
def plateQuarters (band die : Nat) : Nat :=
  match band, die with
  | 1, 0 => 4
  | 1, _ => 0
  | 2, 0 => 1
  | 2, _ => 3
  | _, _ => 2

/-- R358: 36 × P_die in mW, with the franks given. -/
def State.diePower36 (s : State) (die : Nat) (fs : List Frank) : Nat :=
  let leak := leakage s.power.l85 s.meanTemp
  if die = 2 then
    4 * leak + 36 * (25000 + 30000 + 20000 + s.serdesMw) +
      36000 * ((fs.filter (fun f => f.cls == 5)).map (·.watts)).sum
  else
    16 * leak + 36 * (if s.life.safelight then 0 else 150000) + 18 * s.hbmIdle + 18 * s.warmPlate +
      (fs.map (fun f =>
        if f.isPlate then 9000 * plateQuarters f.band die * f.watts
        else if f.isHbm then 18000 * f.watts else 0)).sum

/-- 1 − exp(−d / 20,000) by nine terms of its series, over `expDen` (log 14). -/
def expTerms : List (Nat × Int) :=
  [(1, 362880), (2, -181440), (3, 60480), (4, -15120), (5, 3024), (6, -504), (7, 72), (8, -9), (9, 1)]

def expNum (d : Nat) : Int := (expTerms.map (fun p => p.2 * ((d ^ p.1 * 20000 ^ (9 - p.1) : Nat) : Int))).sum
def expDen : Int := (362880 * 20000 ^ 9 : Nat)

/-- R352, R358: the model predicts at most 98 °C on the die after d µs. -/
def State.coolEnough (s : State) (die d : Nat) (fs : List Frank) : Bool :=
  let now : Int := s.power.dieMax.getD die 0
  let theta : Nat := s.power.theta.getD die 0
  let unit : Int := 36000000000
  let tss : Int := s.power.inlet * unit + 16 * (theta * s.diePower36 die fs : Nat)
  decide (now * unit * expDen + (tss - now * unit) * expNum d ≤ 98 * 16 * unit * expDen)

def State.fitsThermal (s : State) (f : Frank) : Bool :=
  let d := min f.dur 1000
  [0, 1, 2].all (fun die => s.coolEnough die d (f :: s.power.held))

/-- R359: a hold bars plate and HBM-stream franks; a hot stack bars HBM-stream franks, which touch every stack. -/
def State.barredByHeat (s : State) (f : Frank) : Bool :=
  (s.power.hold && (f.isPlate || f.isHbm)) || (f.isHbm && !s.power.stacksRefuse.isEmpty)

/-- R49: two MATMULs may run side by side. -/
def MatRun.pairs (a b : MatRun) : Bool :=
  a.duet && b.duet && !a.asWhole && !b.asWhole &&
    ((a.d.band == 1 && b.d.band == 2) || (a.d.band == 2 && b.d.band == 1)) && !a.d.regionMeets b.d

/-- MATMULs that hold plate columns: a frank of theirs granted and not yet complete. -/
def State.plateHolders (s : State) : List MatRun :=
  s.plate.running.filter (fun r => s.holdsFrank r.op || (s.op r.op).any (fun o => o.phase == .issued))

/-- R353: the plate columns a run needs are free. -/
def State.plateFree (s : State) (r : MatRun) : Bool :=
  s.plateHolders.all (fun x => x.op == r.op || x.pairs r)

/-- R353: a MATMUL's first run waits for its plate columns too. -/
def State.columnsFree (s : State) (f : Frank) : Bool :=
  f.use_ != .run || ((s.plate.running.find? (fun r => r.op == f.op)).all s.plateFree)

/-- R352, R353, R359: the request may be granted. -/
def State.fits (s : State) (f : Frank) : Bool :=
  s.columnsFree f && s.fitsFast f && s.fitsRegulator f && s.fitsThermal f && !s.barredByHeat f

/-- R359: the thermal ledger alone decides a denial. -/
def State.deniedByHeat (s : State) (f : Frank) : Bool :=
  s.fitsFast f && s.fitsRegulator f && (!s.fitsThermal f || s.barredByHeat f)

/-! ### Requests and grants (R349 to R356) -/

/-- R355: an aged request bars every other, top-ups apart. -/
def State.barredByAge (s : State) (f : Frank) : Bool :=
  f.use_ != .topUp && s.power.requests.any (fun g => g.aged && g.id != f.id)

/-- R353: the request is denied. -/
def State.denies (s : State) (f : Frank) : Bool := !s.fits f || s.barredByAge f

/-- R353, R368: makes a request, under FRANK_CONFIG as it stands. A denial counts once per request. -/
def State.ask (s : State) (f : Frank) : State :=
  let n := s.fresh
  let s1 := n.2
  let ok := !s1.denies { f with id := n.1 }
  let g : Frank := { f with id := n.1, denied := !ok, counted := !ok, deniedAt := s1.clock.time, aged := false
                            timeoutMs := s1.power.timeoutMs, ageUs := s1.power.ageUs
                            thermalOnly := s1.deniedByHeat f, energy := 0, ran := 0, since := s1.clock.time }
  let s2 := { s1 with power := { s1.power with requests := s1.power.requests ++ [g] } }
  if ok then s2 else s2.count 0x240 1

/-- R354: the first by increasing W, then by age, of the requests that fit. -/
def leastWatts : List Frank → Option Frank
  | [] => none
  | f :: fs => match leastWatts fs with
    | none => some f
    | some g => if g.watts < f.watts then some g else some f

/-- R353 to R355: the request to grant next: the aged one alone, top-ups apart; else the oldest if it fits; else the
least of the others that fit. -/
def State.nextGrant (s : State) : Option Frank :=
  let tops := s.power.requests.filter (fun f => f.use_ == .topUp)
  let ops := s.power.requests.filter (fun f => f.use_ != .topUp)
  match tops.find? s.fits with
  | some f => some f
  | none =>
    match ops.find? (·.aged) with
    | some f => if s.fits f then some f else none
    | none =>
      match ops with
      | [] => none
      | f :: rest => if s.fits f then some f else leastWatts (rest.filter s.fits)

/-- R357: ACLK until every column group is enabled: 250 for each gated group, of which a plate that cools has as many as it has
gated so far, and a cold one 16. -/
def State.rampAclk (s : State) : Nat :=
  if s.plate.warm then 0
  else match s.plate.cooling with
    | some t => 250 * min 16 ((s.clock.aclk - t) / 250 + 1)
    | none => 4000

/-- R64, R357: T_start of a run whose franks are all granted now, its first row, and the marks of R57. -/
def State.beginRun (s : State) (r : MatRun) : MatRun :=
  let follows := match s.plate.lastPass with
    | some p => if p.2 = s.clock.time then some p.1 else none
    | none => none
  let t := startTime s.plate.warm follows r.startLoad
  { r with ramped := r.ramped || !s.plate.warm, start := t, ramping := !s.plate.warm
           rowsFrom := s.clock.aclk + (if r.decided = 0 then r.extra else 0) + (if s.plate.warm then t else s.rampAclk) }

/-- R302, R357: a vote pass, or a re-run, that starts now. -/
def State.beginAgain (s : State) (r : MatRun) : MatRun :=
  { r with ramped := r.ramped || !s.plate.warm, ramping := !s.plate.warm, rowsFrom := s.clock.aclk + s.rampAclk }

/-- R57: bands that run side by side from a grant on. -/
def State.pairUp (s : State) (op : Nat) : State :=
  let others := s.plateHolders.filter (fun x => x.op != op)
  if others.isEmpty then s
  else { s with plate := { s.plate with running := s.plate.running.map (fun r =>
      if r.op = op ∨ others.any (fun x => x.op == r.op) then { r with partner := true } else r) } }

/-- R357: a run that starts while the plate is cold ramps it. -/
def State.warmFor (s : State) (f : Frank) : State :=
  if f.isPlate && f.use_ != .topUp then
    let rs := s.plate.running.map (fun r =>
      if r.op ≠ f.op then r else if f.use_ = .vote then s.beginAgain r else s.beginRun r)
    let s1 : State := { s with plate := { s.plate with warm := true, cooling := none, running := rs } }
    s1.pairUp f.op
  else s

/-- R363: the drift that made top-up requests ends as soon as every one of them is granted. -/
def State.settleDrift (s : State) : State :=
  if s.power.drift && s.power.driftTopUp && !s.power.requests.any (fun f => f.use_ == .topUp) then
    { s with power := { s.power with drift := false, driftTopUp := false, stretch := 0 } }
  else s

/-- R352: grants a request. Once an op holds every frank it asked for, its run starts, and the op is issued if it was not
(R319). A top-up joins its op's frank (R362). -/
def State.grant (s : State) (f : Frank) : State :=
  let s1 := ({ s with power := { s.power with requests := s.power.requests.filter (fun r => r.id != f.id) } }).count
    0x238 1
  match f.use_ with
  | .topUp =>
    ({ s1 with power := { s1.power with held := s1.power.held.map (fun (h : Frank) =>
        if h.id = f.parent then { h with watts := h.watts + f.watts } else h) } }).settleDrift
  | _ =>
    let h : Frank := { f with since := s1.clock.time, denied := false }
    let s2 : State := { s1 with power := { s1.power with held := s1.power.held ++ [h] } }
    if s2.asksFrank f.op then s2
    else
      let s3 : State := match s2.op f.op with
        | some o => if o.phase = OpPhase.asking then (s2.issue o).1 else s2
        | none => s2
      s3.warmFor f

/-- R353, R355, R369: tries every request again: marks those that are denied, counting each once; an aged one stays so. -/
def State.retryMarks (s : State) : State :=
  let newly := (s.power.requests.filter (fun f => !f.counted && s.denies f)).length
  let rs := s.power.requests.map (fun (f : Frank) =>
    { f with denied := s.denies f, counted := f.counted || s.denies f
             deniedAt := if f.denied then f.deniedAt else s.clock.time, thermalOnly := s.deniedByHeat f })
  let s1 : State := { s with power := { s.power with requests := rs } }
  s1.count 0x240 newly

/-- Withdraws every request of an op. -/
def State.withdraw (s : State) (op : Nat) : State :=
  { s with power := { s.power with requests := s.power.requests.filter (fun f => f.op != op) } }

/-! ### Attribution (R361) -/

/-- P_op of a frank from the energy attributed to it: energy / time / (share × duty), in mW; a free value when no
1 µs sample fell in the run (log 15). -/
def State.opPower (s : State) (f : Frank) : State × Int :=
  if f.ran = 0 then
    let g := s.draw
    (g.2, ((Config.freeBits 21 g.1 f.id).toNat : Int))
  else (s, f.energy * (f.shareDen * f.dutyDen : Nat) / (f.ran * f.shareNum * f.dutyNum : Nat))

/-- R362, R367: CALIBRATION_DRIFT. -/
def State.driftEvent (s : State) (c oldMw newMw excessMw : Nat) (aboveCeil : Bool) : State :=
  (s.raise 8 1 s.currentStep 0 c (leBytes 2 (oldMw / 1000) ++ leBytes 2 (newMw / 1000) ++ leBytes 2 (excessMw / 1000) ++
    leBytes 1 (bitOf aboveCeil))).count 0x250 1

/-- R361: updates the class's table with the P_op of one op. -/
def State.attribute (s : State) (f : Frank) : State :=
  let r := s.opPower f
  let s1 := r.1
  let p := r.2
  let c := s1.class_ f.cls
  let ceil := s1.ceilingMw f.cls
  let new : Nat :=
    if (c.tableMw : Int) < p then (min p ceil).toNat
    else ((c.tableMw : Int) - ((c.tableMw : Int) - p) / 16).toNat
  let m := satCount 32 (c.measured + 1)
  let s2 := s1.setClass f.cls { tableMw := new, measured := m }
  let s3 := if m = 1000 ∧ c.measured = 999 then s2.raise 8 5 s2.currentStep 0 f.cls (leBytes 2 (new / 1000)) else s2
  if (ceil : Int) < p then s3.driftEvent f.cls c.tableMw new (p - ceil).toNat true else s3

/-- R356: the franks of a run whose request timed out go without a trace. -/
def State.forgetFranks (s : State) (op : Nat) : State :=
  { s with power := { s.power with held := s.power.held.filter (fun f => f.op != op) } }

/-- Attributes every frank of a list. -/
def State.attributeAll (s : State) : List Frank → State
  | [] => s
  | f :: fs => (s.attribute f).attributeAll fs

/-- R351, R353, R361: releases the franks an op holds, attributing each. -/
def State.releaseFranks (s : State) (op : Nat) : State :=
  let mine := s.power.held.filter (fun f => f.op == op)
  let s1 := { s with power := { s.power with held := s.power.held.filter (fun f => f.op != op)
                                             requests := s.power.requests.filter (fun f => f.op != op) } }
  s1.attributeAll mine

/-! ### Samples, drift, clamp (R362 to R364) -/

/-- Average of the newest k samples, in mW. -/
def State.average (s : State) (k : Nat) : Nat := s.pastEnergy k / k

/-- Adds one sample's energy to every held frank, in proportion to base values (R361, log 15). -/
def State.shareSample (s : State) (mw : Nat) : State :=
  let total := (s.power.held.map (fun f => s.baseMw f.cls)).sum
  { s with power := { s.power with held := s.power.held.map (fun f =>
      { f with ran := f.ran + 1
               energy := f.energy + ((mw : Int) - s.power.standingMw) * (s.baseMw f.cls : Nat) / (total : Nat) }) } }

/-- R362 step 2: P_op of a held frank from the samples that started the stretch, energy divided by base values. -/
def State.driftPower (s : State) (meanMw total : Nat) (f : Frank) : Int :=
  ((meanMw : Int) - s.power.standingMw) * (s.baseMw f.cls * f.shareDen * f.dutyDen : Nat) /
    (total * f.shareNum * f.dutyNum : Nat)

/-- R362 steps 2 and 3 for one class: raises its table where the attributed power exceeds it, with one event. -/
def State.driftRaise (s : State) (excessMw cls : Nat) (p : Int) : State :=
  let c := s.class_ cls
  if (c.tableMw : Int) < p then
    let new := (min p (s.ceilingMw cls)).toNat
    if new = c.tableMw then s
    else (s.setClass cls { c with tableMw := new }).driftEvent cls c.tableMw new excessMw
      (decide ((s.ceilingMw cls : Int) < p))
  else s

/-- Every class, by the largest power attributed to a held frank of it; `ps`: class and power of each held frank. -/
def State.driftRaises (s : State) (excessMw : Nat) (ps : List (Nat × Int)) : List Nat → State
  | [] => s
  | c :: cs =>
    (s.driftRaise excessMw c (((ps.filter (fun p => p.1 == c)).map (·.2)).foldl max 0)).driftRaises excessMw ps cs

/-- R362 step 4: a top-up request for one held frank. -/
def State.topUp (s : State) (f : Frank) : State :=
  let w := s.wattsOf f
  if f.watts < w then
    let s1 := s.ask { f with use_ := .topUp, watts := w - f.watts, parent := f.id }
    { s1 with power := { s1.power with driftTopUp := true } }
  else s

def State.topUps (s : State) : List Frank → State
  | [] => s
  | f :: fs => (s.topUp f).topUps fs

/-- R362: a drift begins after 20 samples above P_charged. -/
def State.beginDrift (s : State) : State :=
  let excess := s.power.overs.sum / 20
  let mean := s.average 20
  let total := (s.power.held.map (fun f => s.baseMw f.cls)).sum
  let s1 := { s with power := { s.power with drift := true, driftTopUp := false, stretch := 16, overs := [] } }
  let s2 := if total = 0 then s1
    else s1.driftRaises excess (s1.power.held.map (fun f => (f.cls, s1.driftPower mean total f))) (List.range 6)
  s2.topUps s2.power.held

/-- R367: a CLAMP event, at most one per 10 ms. -/
def State.clampEvent (s : State) (mw window : Nat) : State :=
  if (s.power.clampTime.any (fun t => decide (s.clock.time < t + 10000000))) then s
  else ({ s with power := { s.power with clampTime := some s.clock.time } }).raise 8 4 s.currentStep 0 0
    (leBytes 2 (mw / 1000) ++ leBytes 1 window)

/-- R364: engages the clamp for each window above its limit. -/
def State.clampCheck (s : State) : State :=
  let ms := s.average 1000
  let us := s.average 10
  let s1 := if 1000 * s.limit < ms && !s.power.clampMs then
      ({ s with power := { s.power with clampMs := true } }).clampEvent ms 0 else s
  if s1.fastMw < us && !s1.power.clampUs then
    ({ s1 with power := { s1.power with clampUs := true } }).clampEvent us 1 else s1

/-- POWER_SAMPLE (R361, R362, R364, R369). -/
def powerSample (mw : Nat) (vin iin : BitVec 16) (s : State) : State :=
  let s1 := s.shareSample mw
  let samples := (mw :: s1.power.samples).take 1000
  let s2 := { s1 with power := { s1.power with samples := samples, vinMv := vin, iin10ma := iin } }
  let s3 := { s2 with power := { s2.power with peak10 := max s2.power.peak10 (s2.average 10) } }
  let above := decide (s3.chargedMw < mw)
  let s4 := { s3 with power := { s3.power with
      overs := if above then ((mw - s3.chargedMw) :: s3.power.overs).take 20 else [] } }
  let s5 := if 20 ≤ s4.power.overs.length && !s4.power.drift then s4.beginDrift else s4
  s5.clampCheck

/-- STRETCH_ADJUST (R363). -/
def stretchAdjust (s : State) : State :=
  if !s.power.drift then s
  else
    let pending := s.power.requests.any (fun f => f.use_ == .topUp)
    if s.power.driftTopUp && !pending then
      { s with power := { s.power with drift := false, driftTopUp := false, stretch := 0 } }
    else
      let now := s.power.samples.headD 0
      let st := if s.chargedMw < now then min 16 (s.power.stretch + 4) else s.power.stretch - 1
      { s with power := { s.power with stretch := st, drift := st != 0 } }

/-- CLAMP_RELEASE (R364). -/
def clampRelease (s : State) : State :=
  { s with power := { s.power with
      clampMs := s.power.clampMs && decide (1000 * s.limit < s.average 1000)
      clampUs := s.power.clampUs && decide (s.fastMw < s.average 10) } }

/-- s of R363 in force: 16 under a thermal hold or the clamp. -/
def State.stretchNow (s : State) : Nat :=
  if s.power.hold || s.power.clampMs || s.power.clampUs then 16 else s.power.stretch

/-! ### Heat (R358, R359) -/

/-- R367: THERMAL_HOLD. -/
def State.holdEvent (s : State) (part : Nat) (t : Int) (begun : Bool) : State :=
  s.raise 8 2 s.currentStep 0 part (leBytes 2 (natOfInt 16 t) ++ leBytes 1 (bitOf begun))

/-- The die with the hottest sensor, and its temperature. -/
def hottest (ts : List Int) : Nat × Int :=
  match ts with
  | [a, b, c] => if b ≤ a ∧ c ≤ a then (0, a) else if c ≤ b then (1, b) else (2, c)
  | _ => (0, 0)

/-- R359: a stack begins refusing at 95 °C and ends at 93 °C. -/
def State.stackCheck (s : State) (i : Nat) (t : Int) : State :=
  if s.power.stacksRefuse.contains i then
    if t ≤ 93 * 16 then
      ({ s with power := { s.power with stacksRefuse := s.power.stacksRefuse.filter (· != i) } }).holdEvent (16 + i) t false
    else s
  else if 95 * 16 ≤ t then
    ({ s with power := { s.power with stacksRefuse := s.power.stacksRefuse ++ [i] } }).holdEvent (16 + i) t true
  else s

def State.stackChecks (s : State) (i : Nat) : List Int → State
  | [] => s
  | t :: ts => (s.stackCheck i t).stackChecks (i + 1) ts

/-- SENSOR_SAMPLE. -/
def sensorSample (r : SensorReading) (s : State) : State :=
  let s1 := { s with power := { s.power with dieMax := r.dieMax, dieAvg := r.dieAvg, dieIdx := r.dieIdx
                                             hbmTemp := r.hbm, inlet := r.inlet } }
  let h := hottest r.dieMax
  let s2 :=
    if !s1.power.hold && decide (100 * 16 ≤ h.2) then
      ({ s1 with power := { s1.power with hold := true } }).holdEvent h.1 h.2 true
    else if s1.power.hold && decide (h.2 ≤ 98 * 16) then
      ({ s1 with power := { s1.power with hold := false } }).holdEvent h.1 h.2 false
    else s1
  s2.stackChecks 0 r.hbm

/-- R358: nominal θ of each die in millionths of °C/W. -/
def thetaNominal (die : Nat) : Nat := if die = 2 then 90000 else 75000

/-- R358: a measured θ within 0.8 to 1.25 times the nominal. -/
def thetaBound (die x : Nat) : Nat := max (thetaNominal die * 4 / 5) (min (thetaNominal die * 5 / 4) x)

/-- THETA_CORRECTION: the measured relations of C0, C1 and X. -/
def thetaCorrection (c0 c1 x : Nat) (s : State) : State :=
  { s with power := { s.power with theta := [thetaBound 0 c0, thetaBound 1 c1, thetaBound 2 x] } }

/-- STANDING_LOAD_UPDATE. -/
def standingLoadUpdate (s : State) : State := { s with power := { s.power with standingMw := s.standing } }

/-- FRANK_GRANT: the request named is the one R353 to R355 grant next. -/
def frankGrant (req : Nat) (s : State) : State :=
  match s.nextGrant with
  | some f => if f.id = req then s.grant f else s
  | none => s

/-- FRANK_RETRY: tries denied requests again, granting the one that is due. -/
def frankRetry (s : State) : State :=
  let s1 := s.retryMarks
  match s1.nextGrant with
  | some f => s1.grant f
  | none => s1

/-- FRANK_AGED: the oldest denied request, once it has been denied for its AGE_US, when none is aged and it is no top-up (R355,
R362). -/
def frankAged (req : Nat) (s : State) : State :=
  let ops := s.power.requests.filter (fun f => f.use_ != .topUp)
  match ops.find? (·.denied) with
  | none => s
  | some f =>
    if f.id = req && !(ops.any (·.aged)) && decide (f.deniedAt + 1000 * f.ageUs ≤ s.clock.time) then
      { s with power := { s.power with requests := s.power.requests.map (fun r =>
          if r.id = req then { r with aged := true } else r) } }
    else s

/-- PLATE_COOL: 8,000 ACLK without a streamed row; the plate gates its first column group (R357). -/
def plateCool (s : State) : State :=
  if s.anyStreams || !s.plate.warm then s
  else { s with plate := { s.plate with warm := false, cooling := some s.clock.aclk } }

/-- R366: LIMIT_CHANGED when POWER_LIMIT_ACTIVE changes. -/
def State.limitChanged (old s : State) : State :=
  if s.limit = old.limit then s
  else s.raise 8 3 s.currentStep 0 0 (leBytes 2 s.limit ++ leBytes 2 s.power.limitRequest ++ leBytes 2 s.power.boardCap)

/-- POWER_LIMIT_WRITE (R365, R368): a value outside 1,000 to 2,400 is ignored whole. -/
def powerLimitWrite (a : RegAccess) (s : State) : State :=
  let w := bits (accessValue a s.power.limitRequest) 11 0
  if w < 1000 ∨ 2400 < w then s
  else ({ s with power := { s.power with limitRequest := w } }).limitChanged s

/-! ### The meanings of this family -/

def execSensorSample (r : SensorReading) (s : State) : Out := whenReady s (sensorSample r)
def execThetaCorrection (c0 c1 x : Nat) (s : State) : Out := whenReady s (thetaCorrection c0 c1 x)
def execStandingLoadUpdate (s : State) : Out := whenReady s standingLoadUpdate
def execPowerSample (mw : Nat) (vinMv iin10ma : BitVec 16) (s : State) : Out := whenReady s (powerSample mw vinMv iin10ma)
def execClampRelease (s : State) : Out := whenReady s clampRelease
def execStretchAdjust (s : State) : Out := whenReady s stretchAdjust
def execFrankGrant (req : Nat) (s : State) : Out := whenReady s (frankGrant req)
def execFrankRetry (s : State) : Out := whenReady s frankRetry
def execFrankAged (req : Nat) (s : State) : Out := whenReady s (frankAged req)
def execPlateCool (s : State) : Out := whenReady s plateCool
def execPowerLimitWrite (a : RegAccess) (s : State) : Out := whenReady s (powerLimitWrite a)

end Sys2Proof.Machine
end

