-- ==== Sys2Proof/Machine/Regs.lean ====
section
/-! DEFINITION. The setup registers of BAR0 as an 8-byte read returns them (R61, R96, R130, R171, R179, R206, R229,
R261, R263, R287, R317, R318, R347, R368, R369, R379, R406, R412 and the MEMORY block), and the writes to those with
no behaviour of their own (R185, R404). -/

namespace Sys2Proof.Machine

/-- A field placed at a bit. -/
def at_ (x lo : Nat) : Nat := x * 2 ^ lo

/-- Index n of an array register at `base` with stride `st` and `count` entries, if the offset is one of them. -/
def arrayIndex (off base st count : Nat) : Option Nat :=
  if base ≤ off ∧ off < base + st * count ∧ (off - base) % st = 0 then some ((off - base) / st) else none

/-! ### Derived fields -/

def State.readyBit (s : State) : Nat := bitOf s.isReady

/-- VARIANT of IDENT (R406). -/
def State.variantCode (s : State) : Nat :=
  match s.fuses.variant with
  | .alc => 1
  | .elc => 2

/-- R182: the identity the function shows in configuration space, by offset: vendor and device, revision and class, subsystem (whose
vendor is presumed the function's, log 24). -/
def State.pciIdentity (s : State) (off : Nat) : Nat :=
  match off with
  | 0x00 => s.fuses.vendorId.toNat + at_ 0x3220 16
  | 0x08 => s.fuses.stepping.toNat + at_ 0x120000 8
  | 0x2C => s.fuses.vendorId.toNat + at_ s.variantCode 16
  | _ => 0

def State.identReg (s : State) (off : Nat) : Nat :=
  match off with
  | 0x00 => 0x3220 + at_ s.variantCode 16 + at_ s.fuses.stepping.toNat 24 + at_ 1 32
  | 0x08 => s.fuses.vendorId.toNat
  | 0x10 => s.fuses.serial.toNat
  | 0x18 => s.readyBit + at_ s.life.stage 1 + at_ (bitOf s.life.startFailed) 5 + at_ s.life.resetCause.toNat 6 +
      at_ s.life.startFault.toNat 8 + at_ s.life.startUnit.toNat 32 + at_ s.life.readyMs.toNat 48
  | 0x20 => s.life.tray.toNat + at_ s.life.slot.toNat 2
  | _ => 0

def State.cq (s : State) (n : Nat) : CQ := s.host.cqs.get CQ.reset n

def State.setCq (s : State) (n : Nat) (c : CQ) : State :=
  { s with host := { s.host with cqs := s.host.cqs.set CQ.reset n c } }

def sqSizeReg (r : Ring) : Nat := r.log2 + at_ r.cq 8 + at_ (bitOf r.enable) 16
def sqHeadReg (r : Ring) : Nat := r.fetched + at_ (bitOf r.stopped) 32 + at_ r.cause 33 + at_ r.cmds.length 48
def cqSizeReg (c : CQ) : Nat :=
  c.log2 + at_ (bitOf c.enable) 8 + at_ (bitOf c.irqEnable) 9 + at_ c.irqCount 16 + at_ c.irqTimeUs 32
def cqTailReg (c : CQ) : Nat := c.written + at_ (bitOf (phaseOf c.written c.log2)) 32

def State.ringsReg (s : State) (off : Nat) : Nat :=
  match off with
  | 0x00 => bitOf s.host.pageEnable + s.host.pageAddr.toNat
  | 0x08 => s.host.pollNs
  | 0x10 => bitOf s.host.eqEnable + s.host.eqBase.toNat
  | 0x18 => s.host.eqLog2
  | 0x20 => s.host.eqWritten + at_ s.host.dropped 32
  | 0x28 => s.host.bar2Base.toNat
  | _ =>
    if 0x1000 ≤ off ∧ off < 0x2000 then
      let n := (off - 0x1000) / 0x40
      let r := s.ring n
      let c := s.cq n
      match off % 0x40 with
      | 0x00 => r.base.toNat
      | 0x08 => sqSizeReg r
      | 0x10 => sqHeadReg r
      | 0x18 => c.base.toNat
      | 0x20 => cqSizeReg c
      | 0x28 => cqTailReg c
      | _ => 0
    else 0

def State.memoryReg (s : State) (off : Nat) : Nat :=
  match off with
  | 0x00 => s.mem.ptRoot.toNat
  | 0x08 => s.hbmBytes
  | 0x10 => at_ (bitOf s.mem.invBusy) 1
  | 0x18 => (match s.fuses.variant with | .alc => 5 | .elc => 4) + at_ (bitOf s.life.rootLocked) 4
  | 0x20 => s.clock.time
  | _ => 0

/-- R61: a run streams on the whole plate, on the forward band, or on the backward band. -/
def State.bandStreams (s : State) (b : Nat) : Bool :=
  s.plate.running.any (fun r => s.rowsStream r && (if r.asWhole then b == 0 else r.d.band == b))

def State.plateReg (s : State) (off : Nat) : Nat :=
  match off with
  | 0x00 => s.plate.checkDefault.toNat
  | 0x08 => bitOf s.plate.duet
  | 0x10 => bitOf (s.bandStreams 0) + at_ (bitOf (s.bandStreams 1)) 1 + at_ (bitOf (s.bandStreams 2)) 2 +
      at_ (bitOf s.plate.warm) 3
  | 0x18 => s.plate.spares0.toNat
  | 0x20 => s.plate.spares1.toNat
  | 0x28 => s.plate.matmulCount
  | 0x30 => bitOf s.plate.scrubSram + at_ (bitOf s.plate.scrubHbm) 1 + at_ s.plate.sramMin 8 + at_ s.plate.hbmHours 16
  | _ => 0

def State.numericsReg (s : State) (off : Nat) : Nat :=
  match off with
  | 0x08 => bitOf s.numerics.seedValid
  | 0x10 => s.numerics.histLen + at_ s.numerics.marginExp 8
  | 0x18 => s.numerics.flushLog2
  | 0x20 => s.numerics.runLength
  | 0x28 => (s.numerics.book.filter (fun p => p.2.bound)).length +
      at_ (s.numerics.book.filter (fun p => p.2.bound && p.2.pinned)).length 16
  | _ => 0

def portCfgReg (p : Port) : Nat := p.enable + at_ p.gen 1 + at_ p.medium 3 + at_ p.role 5

def State.groupsActive (s : State) : Nat := (s.net.active.filter (fun p => p.2.isSome)).length

/-- R287: KiB of chunks held early. -/
def State.earlyKib (s : State) : Nat := ceilDiv ((s.net.early.map (fun c => c.bytes.length)).sum) 1024

def State.pendingEpoch (s : State) : Nat :=
  s.net.pendingGroups.foldl (fun m p => match p.2 with | some g => max m g.epoch | none => m) 0

/-- R182: MAC address of port n (R232). -/
def State.portMac (s : State) (n : Nat) : BitVec 48 := s.fuses.macBase + BitVec.ofNat 48 n

def State.netReg (s : State) (off : Nat) : Nat :=
  match off with
  | 0x00 => s.net.nodeId.toNat + at_ (bitOf s.net.nodeValid) 31
  | 0x08 => s.net.topoBase.toNat
  | 0x10 => s.net.topoGen.toNat
  | 0x18 => s.net.collTimeout
  | 0x20 => s.member + at_ s.net.group 2
  | 0x28 => 0x0100
  | 0x30 => s.fuses.oui.toNat
  | 0x38 => s.net.udpPort + at_ s.net.dscp 16 + at_ s.net.chunkLog2 22
  | 0x40 => s.net.prefix6.toNat
  | 0x48 => s.fuses.macBase.toNat
  | 0x50 => s.net.rdmaTargets.toNat
  | 0x58 => s.net.epoch
  | 0x60 => s.groupsActive + at_ s.net.colls.length 8 + at_ s.earlyKib 16 + at_ s.pendingEpoch 32
  | 0x68 => s.net.collCount
  | 0x70 => s.net.qpBaseReg.toNat
  | 0x78 => at_ s.net.qpResult 13
  | _ =>
    match arrayIndex off 0x100 8 24 with
    | some n => portCfgReg (s.port n)
    | none =>
    match arrayIndex off 0x200 8 24 with
    | some n =>
      let p := s.port n
      p.state + at_ (bitOf p.numDiffers) 3 + at_ p.dead 4 + at_ p.negMinor 8 +
        at_ (s.fuses.qpBase.get 0 n).toNat 16 + at_ p.peerNode.toNat 32
    | none =>
    match arrayIndex off 0x300 8 24 with
    | some n => (s.port n).fecCorrected
    | none =>
    match arrayIndex off 0x400 8 24 with
    | some n => (s.port n).fecUncorrected
    | none =>
    match arrayIndex off 0x500 8 24 with
    | some n => (s.port n).dropped
    | none => 0

/-- Number of latent steps. -/
def State.latentCount (s : State) : Nat := min 3 (s.proof.steps.filter (fun r => r.st == .latent)).length

def StepState.code : StepState → Nat
  | .isOpen => 0
  | .latent => 1
  | .failed => 3
  | .replaying => 4

def State.proofReg (s : State) (off : Nat) : Nat :=
  match off with
  | 0x00 => s.proof.depth + at_ s.proof.group 8
  | 0x08 => s.proof.keptBase.toNat
  | 0x10 => s.proof.poolBase.toNat
  | 0x18 => s.proof.poolPages
  | 0x20 => s.proof.mirrorCap
  | 0x28 => s.proof.nextSlot
  | 0x30 => s.proof.stepNow
  | 0x38 => s.proof.stepProved
  | 0x40 => ((s.openStep.map (fun r => r.st.code)).getD 0) + at_ (bitOf s.openStep.isSome) 3 +
      at_ s.latentCount 4 + at_ (bitOf s.stepFailed) 6 + at_ (bitOf s.proof.ckpt.isSome) 7
  | 0x48 => s.poolFree + at_ s.proof.low 32
  | 0x50 => s.proof.mirrorStep
  | 0x58 => 0x00400000
  | 0x60 => 0x85800000
  | _ => 0

def State.powerReg (s : State) (off : Nat) : Nat :=
  match off with
  | 0x00 => s.power.limitRequest
  | 0x08 => s.limit + at_ s.power.boardCap 16 + at_ (bitOf (decide (s.power.boardCap < s.power.limitRequest))) 28
  | 0x10 => s.heldW + at_ (s.power.standingMw / 1000) 12 + at_ s.power.held.length 24 +
      at_ (bitOf (s.power.requests.any (·.denied))) 32 + at_ (bitOf (s.power.requests.any (·.aged))) 33 +
      at_ s.stretchNow 34 + at_ (bitOf s.power.hold) 39
  | 0x18 => s.power.timeoutMs + at_ s.power.ageUs 16
  | 0x20 => ((List.range 6).map (fun c => at_ (bitOf (s.class_ c).calibrated) c)).sum
  | _ =>
    match arrayIndex off 0x28 8 6 with
    | some c => (s.class_ c).tableMw / 1000 + at_ (ceilingW s.fuses.variant c) 16 + at_ (s.class_ c).measured 32
    | none => 0

/-- Slot that runs, and whether one is pending (R379). -/
def State.fwState (s : State) : Nat :=
  s.fw.gyton.active + at_ s.fw.rolrohan.active 1 +
    at_ (bitOf (s.fw.gyton.pending.isSome || s.fw.rolrohan.pending.isSome)) 2 + at_ (bitOf s.fw.fellBack) 3 +
    at_ (bitOf s.fw.lock.isSome) 4 + at_ s.fuses.fuseCount 8

def versionReg (i : Option ImageInfo) : Nat :=
  match i with
  | some x => x.version.toNat + at_ x.secVersion 32
  | none => 0

/-- R376, R388, R389: ALERT# is asserted. -/
def State.alert (s : State) : Bool := s.life.alertHw || !s.fw.queue.isEmpty

def State.mailboxReg (s : State) (off : Nat) : Nat :=
  match off with
  | 0x28 => at_ (if s.isReady then s.fw.mboxResult.toNat else 1) 8 + at_ s.fw.mboxTag.toNat 16 + at_ s.fw.mboxDetail.toNat 32
  | 0x30 => s.fwState
  | 0x38 => versionReg s.fw.gyton.running
  | 0x40 => versionReg s.fw.rolrohan.running
  | 0x48 => s.fw.eid.toNat + at_ (bitOf s.fw.i3c.isSome) 8 + at_ (bitOf s.fw.collector.isSome) 9 +
      at_ (bitOf s.alert) 10 + at_ s.fw.queue.length 16 + at_ s.fw.mgmtDropped 32
  | 0x50 => s.fw.handovers
  | _ =>
    match arrayIndex off 0x08 8 4 with
    | some i => (s.fw.mboxArgs.get 0 i).toNat
    | none => 0

/-- The cycle counter at a place of the table of R179. -/
def DieCount.at_ (c : DieCount) (i : Nat) : Nat :=
  match i with
  | 0 => c.stream
  | 1 => c.empty
  | 2 => c.dependency
  | 3 => c.memory
  | 4 => c.peer
  | 5 => c.host
  | 6 => c.frank
  | 7 => c.thermal
  | 8 => c.proof
  | _ => 0

/-- The hottest stack and its number (R369). -/
def hottestStack : Nat → List Int → Nat × Int
  | _, [] => (0, 0)
  | i, [t] => (i, t)
  | i, t :: ts => let h := hottestStack (i + 1) ts; if h.2 ≤ t then (i, t) else h

def State.telemetryReg (s : State) (off : Nat) : Nat :=
  if off < 0x90 then (if off % 16 = 0 then s.clock.die0 else s.clock.die1).at_ (off / 16)
  else
    match off with
    | 0x200 => s.average 1000 / 1000 + at_ (s.average 10 / 1000) 12 + at_ (s.power.peak10 / 1000) 24
    | 0x208 => s.power.vinMv.toNat + at_ s.power.iin10ma.toNat 16
    | 0x228 => let h := hottestStack 0 s.power.hbmTemp; natOfInt 16 h.2 + at_ h.1 16
    | 0x230 => natOfInt 16 s.power.inlet
    | 0x248 => s.clock.stretched
    | 0x580 => s.tele.get 0 0x580 + at_ (s.tele.get 0 0x584) 32
    | 0x588 => s.mem.poison.length
    | _ =>
      match arrayIndex off 0x210 8 3 with
      | some d => natOfInt 16 (s.power.dieMax.getD d 0) + at_ (natOfInt 16 (s.power.dieAvg.getD d 0)) 16 +
          at_ (s.power.dieIdx.getD d 0).toNat 32
      | none => s.tele.get 0 off

def State.testReg (s : State) (off : Nat) : Nat :=
  match off with
  | 0x400 => s.pcie.loopMode.toNat + at_ s.pcie.loopMs.toNat 4 + at_ (bitOf s.pcie.loopActive) 20
  | 0x408 => s.pcie.loopErrors.toNat + at_ s.pcie.loopLanes.toNat 32
  | 0x410 => s.hbmTest.stack + at_ s.hbmTest.mode 5 + at_ (bitOf s.hbmTest.busy) 8 + at_ (bitOf s.hbmTest.pass) 9 +
      at_ (bitOf s.hbmTest.refused) 10
  | 0x418 => s.hbmTest.fails.toNat + at_ s.hbmTest.firstRow.toNat 32
  | 0x420 => bitOf s.life.extended
  | 0x428 => s.life.lanesRepaired.toNat + at_ s.life.rowsRepaired.toNat 8 + at_ s.life.sramRemaps.toNat 16 +
      at_ (bitOf s.life.extendedRan) 24
  | _ =>
    match arrayIndex off 0 8 24 with
    | some n => (s.port n).loopMode + at_ (s.port n).loopPattern 3
    | none =>
    match arrayIndex off 0x100 8 24 with
    | some n => (s.port n).laneErrors.toNat
    | none =>
    match arrayIndex off 0x200 8 24 with
    | some n => (s.port n).sent.toNat + at_ (s.port n).good.toNat 32
    | none => 0

def State.vectorReg (s : State) (off : Nat) : Nat :=
  match off with
  | 0x00 => bitOf s.vec.e0.run.isSome + at_ (bitOf s.vec.e1.run.isSome) 1
  | 0x08 => s.vec.vecCount0
  | 0x10 => s.vec.vecCount1
  | 0x18 => s.vec.branchCount
  | 0x20 => s.vec.branchMaxNs
  | _ => 0

/-- R185, R186: 8 bytes of the MSI-X table and PBA, at an offset from 0x0F0_0000. -/
def State.msixReg (s : State) (off : Nat) : Nat :=
  if off < 0x800 then
    let e := s.host.msix.get MsixEntry.reset (off / 16)
    if off % 16 = 0 then e.addr.toNat else e.data.toNat + at_ (bitOf e.mask) 32
  else if off < 0x810 then
    ((List.range 64).map (fun i => at_ (bitOf (s.host.msixPend.get false ((off - 0x800) * 8 + i))) i)).sum
  else 0

/-- R206: two neighbouring semaphores. -/
def State.semPair (s : State) (i : Nat) : Nat := (s.seq.sems.get i).toNat + at_ (s.seq.sems.get (i + 1)).toNat 32

/-- An 8-byte read of BAR0 at an aligned offset (R5, R185, R404). -/
def State.readReg (s : State) (off : Nat) : Nat :=
  let block := off / 0x10000
  let o := off % 0x10000
  if block = 0 then s.identReg o
  else if block = 8 then s.mailboxReg o
  else if block = 0xF0 then s.msixReg o
  else if !s.isReady then 0
  else
    match block with
    | 1 => s.ringsReg o
    | 2 => s.memoryReg o
    | 3 => s.plateReg o
    | 4 => s.numericsReg o
    | 5 => s.netReg o
    | 6 => s.proofReg o
    | 7 => s.powerReg o
    | 9 => s.telemetryReg o
    | 0x0A => s.testReg o
    | 0x0B => s.vectorReg o
    | _ => if 0xC0000 ≤ off ∧ off < 0x100000 then s.semPair ((off - 0xC0000) / 4) else 0

/-- R185: what a read of `n` bytes of BAR0 returns: naturally aligned accesses of 4 and 8 bytes only, any other one 0. -/
def State.bar0Read (s : State) (off n : Nat) : Nat :=
  if n = 8 ∧ off % 8 = 0 then s.readReg off
  else if n = 4 ∧ off % 8 = 0 then s.readReg off % 2 ^ 32
  else if n = 4 ∧ off % 8 = 4 then s.readReg (off - 4) / 2 ^ 32
  else 0

/-! ### Plain writes -/

/-- The RINGS block's plain registers (R229). -/
def State.writeRings (s : State) (o : Nat) (a : RegAccess) : State :=
  let v := accessValue a (s.ringsReg o)
  let h := s.host
  match o with
  | 0x00 =>
    if h.pageEnable && bit v 0 then s
    else { s with host := { h with pageEnable := bit v 0, pageAddr := BitVec.ofNat 64 (at_ (bits v 63 12) 12) } }
  | 0x08 =>
    let p := bits v 16 0
    if p < 250 ∨ 100000 < p then s else { s with host := { h with pollNs := p } }
  | 0x18 =>
    let k := bits v 4 0
    if h.eqEnable || decide (k < 6) || decide (16 < k) then s else { s with host := { h with eqLog2 := k } }
  | 0x28 => { s with host := { h with bar2Base := BitVec.ofNat 64 (at_ (bits v 47 30) 30) } }
  | _ =>
    if 0x1000 ≤ o ∧ o < 0x2000 then
      let n := (o - 0x1000) / 0x40
      let r := s.ring n
      let c := s.cq n
      match o % 0x40 with
      | 0x00 =>
        if r.enable || !r.cmds.isEmpty then s
        else s.setRing n { r with base := BitVec.ofNat 64 (at_ (bits v 63 12) 12) }
      | 0x18 => if c.enable then s else s.setCq n { c with base := BitVec.ofNat 64 (at_ (bits v 63 12) 12) }
      | _ => s
    else s

/-- R61, R317. -/
def State.writePlate (s : State) (o : Nat) (a : RegAccess) : State :=
  let v := accessValue a (s.plateReg o)
  match o with
  | 0x00 =>
    let m := bits v 1 0
    if m = 0 then s else { s with plate := { s.plate with checkDefault := BitVec.ofNat 2 m } }
  | 0x08 => { s with plate := { s.plate with duet := bit v 0 } }
  | 0x30 =>
    let m := bits v 15 8
    let h := bits v 23 16
    if m < 10 ∨ 60 < m ∨ h < 1 ∨ 24 < h then s
    else { s with plate := { s.plate with scrubSram := bit v 0, scrubHbm := bit v 1, sramMin := m, hbmHours := h } }
  | _ => s

/-- R130. -/
def State.writeNumerics (s : State) (o : Nat) (a : RegAccess) : State :=
  let v := accessValue a (s.numericsReg o)
  match o with
  | 0x10 =>
    let l := bits v 6 0
    if l < 1 ∨ 64 < l then s
    else { s with numerics := { s.numerics with histLen := l, marginExp := bits v 11 8 } }
  | 0x18 =>
    let f := bits v 4 0
    if f < 1 ∨ 24 < f then s else { s with numerics := { s.numerics with flushLog2 := f } }
  | 0x20 => { s with numerics := { s.numerics with runLength := bits v 15 0 } }
  | _ => s

/-- R261, R263: an address register takes an aligned address in populated HBM. -/
def State.tableAt (s : State) (v align : Nat) : Bool := bits v 47 0 % align == 0 && s.inHbm (bits v 47 0) align

/-- R261, R263. -/
def State.writeNet (s : State) (o : Nat) (a : RegAccess) : State :=
  let v := accessValue a (s.netReg o)
  match o with
  | 0x08 => if s.tableAt v 64 then { s with net := { s.net with topoBase := BitVec.ofNat 64 (bits v 47 0) } } else s
  | 0x18 =>
    let t := bits v 31 0
    if t < 1000 ∨ 60000000 < t then s else { s with net := { s.net with collTimeout := t } }
  | 0x50 => if s.tableAt v 64 then { s with net := { s.net with rdmaTargets := BitVec.ofNat 64 (bits v 47 0) } } else s
  | 0x70 => if s.tableAt v 65536 then { s with net := { s.net with qpBaseReg := BitVec.ofNat 64 (bits v 47 0) } } else s
  | _ => s

/-- Frames of a pool (R327). -/
def poolFrames (base pages : Nat) : List Nat := (List.range pages).map (fun i => base + i * 0x10000)

/-- R347: a new pool is wholly free. -/
def State.newPool (s : State) (base pages : Nat) : State :=
  { s with proof := { s.proof with poolBase := BitVec.ofNat 64 base, poolPages := pages
                                   free := poolFrames base pages, low := pages, lowTold := false } }

def State.writeProof (s : State) (o : Nat) (a : RegAccess) : State :=
  let v := accessValue a (s.proofReg o)
  match o with
  | 0x00 => { s with proof := { s.proof with depth := bits v 1 0, group := bits v 12 8 } }
  | 0x08 => { s with proof := { s.proof with keptBase := BitVec.ofNat 64 (bits v 47 0), keptWritten := true, keptDirty := true } }
  | 0x10 => if s.proof.steps.isEmpty then s.newPool (at_ (bits v 47 16) 16) s.proof.poolPages else s
  | 0x18 => if s.proof.steps.isEmpty then s.newPool s.proof.poolBase.toNat (bits v 31 0) else s
  | 0x20 =>
    let p := bits v 6 0
    if p < 1 ∨ 50 < p then s else { s with proof := { s.proof with mirrorCap := p } }
  | 0x28 => { s with proof := { s.proof with nextSlot := bits v 0 0 } }
  | _ => s

/-- R368. -/
def State.writePower (s : State) (o : Nat) (a : RegAccess) : State :=
  let v := accessValue a (s.powerReg o)
  match o with
  | 0x18 =>
    let t := bits v 15 0
    let g := bits v 31 16
    if t < 1 ∨ 1000 < t ∨ g < 10 ∨ 1000 < g then s
    else { s with power := { s.power with timeoutMs := t, ageUs := g } }
  | _ => s

/-- R379: MBOX_ARG, and MBOX_CMD with an unknown OP, once operations are accepted (R404). -/
def State.writeMailbox (s : State) (o : Nat) (a : RegAccess) : State :=
  let v := accessValue a 0
  if o = 0 ∧ s.isReady ∧ !([1, 2, 3, 4, 5, 6].contains (bits v 7 0)) then
    { s with fw := { s.fw with mboxResult := 2, mboxTag := BitVec.ofNat 16 (v / 2 ^ 16), mboxDetail := 0 } }
  else
  match arrayIndex o 0x08 8 4 with
  | some i =>
    { s with fw := { s.fw with mboxArgs := s.fw.mboxArgs.set 0 i (BitVec.ofNat 64 (accessValue a (s.fw.mboxArgs.get 0 i).toNat)) } }
  | none => s

/-- The table and PBA of MSI-X; unmasking an entry sends its pending message (R186). -/
def State.writeMsix (s : State) (o : Nat) (a : RegAccess) : State :=
  if o < 0x800 then
    let n := o / 16
    let e := s.host.msix.get MsixEntry.reset n
    let v := accessValue a (s.msixReg o)
    let e1 : MsixEntry := if o % 16 = 0 then { e with addr := BitVec.ofNat 64 v }
      else { e with data := BitVec.ofNat 32 v, mask := bit v 32 }
    ({ s with host := { s.host with msix := s.host.msix.set MsixEntry.reset n e1 } }).sendPending [n]
  else s

/-- R370, R371: an offset that no block of BAR0 takes and that holds a resource of Gyton's domain; the manual gives none of them an
offset (log 78). -/
def gytonOwned (off : Nat) : Bool :=
  decide (16 ≤ off / 0x10000) && off / 0x10000 != 0xF0 && Config.gytonRegister off

/-- R371, R396: FIREWALL: requester, and the address refused, or 0. -/
def State.firewallEvent (s : State) (requester addr : Nat) : State :=
  s.raise 9 7 s.currentStep 0 requester (leBytes 8 addr)

/-- REGISTER_WRITE: an aligned write of 4 or 8 bytes to a register without a command of its own (R185, R229). Before
READY only the MAILBOX block and the MSI-X table take writes (R404). A write that reaches for Gyton's domain is discarded and told
(R371). -/
def registerWrite (off : Nat) (a : RegAccess) (s : State) : State :=
  let block := off / 0x10000
  let o := off % 0x10000
  if off % 8 ≠ 0 then s
  else if s.fw.firewall && gytonOwned off then s.firewallEvent 10 off
  else if block = 8 then s.writeMailbox o a
  else if block = 0xF0 then s.writeMsix o a
  else if !s.isReady then s
  else
    match block with
    | 1 => s.writeRings o a
    | 2 => if o = 0 then
        let v := accessValue a s.mem.ptRoot.toNat
        { s with mem := { s.mem with ptRoot := BitVec.ofNat 64 (bits v 0 0 + at_ (bits v 47 17) 17) } }
      else s
    | 3 => s.writePlate o a
    | 4 => s.writeNumerics o a
    | 5 => s.writeNet o a
    | 6 => s.writeProof o a
    | 7 => s.writePower o a
    | 0x0A => if o = 0x420 then { s with life := { s.life with extended := bit (accessValue a (bitOf s.life.extended)) 0 } } else s
    | _ => s

/-- The module has power and its management core runs: phases in which BAR0 or the management path answers. -/
def State.powered (s : State) : Bool :=
  match s.life.phase with
  | .off => false
  | .inReset => false
  | .stopped _ => false
  | _ => true

def execRegisterWrite (off : Nat) (a : RegAccess) (s : State) : Out :=
  done s (s.onlyIf s.powered (registerWrite off a))

/-! ### Registers with one simple effect -/

/-- JOB_SEED_WRITE (R96): only an 8-byte write takes effect. -/
def jobSeedWrite (a : RegAccess) (s : State) : State :=
  match a with
  | .wide v => { s with numerics := { s.numerics with seed := v, seedValid := true } }
  | _ => s

/-- PT_INVALIDATE (R28). Writing 0 has no effect. -/
def ptInvalidate (a : RegAccess) (s : State) : State :=
  if bit (accessValue a 0) 0 then { s with mem := { s.mem with invBusy := true } } else s

/-- PT_INVALIDATE_DONE: every cached translation is discarded. -/
def ptInvalidateDone (s : State) : State :=
  if s.mem.invBusy then { s with mem := { s.mem with invBusy := false, tlb := [] } } else s

def execJobSeedWrite (a : RegAccess) (s : State) : Out := whenReady s (jobSeedWrite a)
def execPtInvalidate (a : RegAccess) (s : State) : Out := whenReady s (ptInvalidate a)
def execPtInvalidateDone (s : State) : Out := whenReady s ptInvalidateDone

end Sys2Proof.Machine
end

