-- ==== Sys2Proof/Machine/Packets.lean ====
section
/-! DEFINITION. The packets of NPT as they leave the ports (R232, R253, R254, R256): their bytes, addresses and checksums, and how they
are dealt over the usable ports. -/

namespace Sys2Proof.Machine

/-! ### Check sums -/

/-- One bit of CRC-32C, reflected (R254). -/
def crcShift (c : Nat) : Nat := if c % 2 = 1 then Nat.xor (c / 2) 0x82F63B78 else c / 2

/-- One byte of CRC-32C. -/
def crcByte (c : Nat) (b : Byte) : Nat := (List.range 8).foldl (fun x _ => crcShift x) (Nat.xor c b.toNat)

/-- CRC-32C of bytes (R254). -/
def crc32c (bs : List Byte) : Nat := Nat.xor (bs.foldl crcByte 0xFFFFFFFF) 0xFFFFFFFF

/-- Sum of the 16-bit words of bytes in network order; an odd last byte is padded with 0. -/
def sum16 : List Byte → Nat
  | a :: b :: t => a.toNat * 256 + b.toNat + sum16 t
  | [a] => a.toNat * 256
  | [] => 0

/-- One's complement of the one's complement sum of 16-bit words, as UDP carries it: never 0 (R253). -/
def onesChecksum (sum : Nat) : Nat :=
  let fold := fun (x : Nat) => x % 65536 + x / 65536
  let c := 65535 - fold (fold (fold sum))
  if c = 0 then 65535 else c

/-- UDP checksum over the IPv6 pseudo-header, the UDP header and the payload (R253). -/
def udpChecksum (src dst : BitVec 128) (sport dport : Nat) (payload : List Byte) : Nat :=
  onesChecksum (sum16 (beBytes 16 src.toNat) + sum16 (beBytes 16 dst.toNat) + 17 + 2 * (8 + payload.length) + sport + dport +
    sum16 payload)

/-! ### Ports usable for a node (R256) -/

def allPorts : List Nat := List.range 24

def State.topoEntry (s : State) (p : Nat) : TopoEntry := s.net.topo.get TopoEntry.unused p

/-- A port carries NPT and RoCEv2 traffic: in Ethernet role, in UP, and in no loop (R235, R408). -/
def State.carriesIp (s : State) (p : Nat) : Bool :=
  let x := s.port p
  x.role == 0 && x.state == portUp && x.loopMode == 0

/-- R256: the ports usable for a destination node. -/
def State.usable (s : State) (node : Nat) : List Nat :=
  allPorts.filter (fun p =>
    let e := s.topoEntry p
    s.carriesIp p && (e.kind == 2 || (e.kind == 1 && e.peerNode == node)))

/-- R231: a port's rate, in units of 200 Gb/s. -/
def Port.rate (x : Port) : Nat := 2 ^ (x.gen - 1)

/-- R256: the turn in which packets for a node are dealt: each usable port as often as its rate goes into 200 Gb/s (log 76). -/
def State.turn (s : State) (node : Nat) : List Nat :=
  (s.usable node).flatMap (fun p => List.replicate (s.port p).rate p)

/-! ### One packet -/

/-- R253: the IPv6 address of a node, and of this module: the prefix, and the NODE field of the label (log 67). -/
def State.ip6Of (s : State) (node : Nat) (valid : Bool) : BitVec 128 :=
  BitVec.ofNat 128 (s.net.prefix6.toNat * 2 ^ 64 + at_ (bitOf valid) 31 + node)
def State.ip6 (s : State) : BitVec 128 := s.ip6Of s.net.nodeId.toNat s.net.nodeValid

/-- R253: where a port sends: to the peer port's MAC with KIND 1, else to its next hop. -/
def State.hopOf (s : State) (p : Nat) : BitVec 48 :=
  let x := s.port p
  match if (s.topoEntry p).kind = 1 then x.heard.map (·.portMac) else x.nextHop with
  | some mac => mac
  | none => Config.unlearnedHop p

/-- R254: the header of packet `index`, its payload, and the CRC-32C over both. -/
def nptBytes (kind flags index : Nat) (h : NptHeader) (data : List Byte) : List Byte :=
  let body := leBytes 1 kind ++ leBytes 1 flags ++ leBytes 2 index ++ leBytes 4 h.srcNode.toNat ++ leBytes 4 h.dstNode.toNat ++
    leBytes 4 h.collId.toNat ++ leBytes 4 h.epoch.toNat ++ leBytes 4 h.chunkIndex.toNat ++ leBytes 4 h.contributor.toNat ++
    leBytes 2 data.length ++ leBytes 2 h.ceCount.toNat ++ data
  body ++ leBytes 4 (crc32c body)

/-- R254: FLAGS: the last packet of a chunk or message; CE seen, in an ACK. -/
def nptFlags (kind : Nat) (last : Bool) (h : NptHeader) : Nat :=
  bitOf ((kind == 1 || kind == 6) && last) + at_ (bitOf (kind == 2 && h.ceCount != 0)) 1

/-- R253: an NPT packet on a port, with DSCP of NPT_CFG and ECT(0). -/
def State.nptPacket (s : State) (port node kind index : Nat) (last : Bool) (h : NptHeader) (data : List Byte) : UdpPacket :=
  let payload := nptBytes kind (nptFlags kind last h) index h data
  let src := s.ip6
  let dst := s.ip6Of node true
  let sport := Config.udpSource node port
  { port := port, destMac := s.hopOf port, srcMac := s.portMac port, srcIp := src, destIp := dst
    trafficClass := BitVec.ofNat 8 (4 * s.net.dscp + 2), srcPort := sport, destPort := BitVec.ofNat 16 s.net.udpPort
    checksum := BitVec.ofNat 16 (udpChecksum src dst sport.toNat s.net.udpPort payload), payload := payload }

/-- Packets of a chunk or message of so many bytes. -/
def packetCount (len : Nat) : Nat := max 1 (ceilDiv len 4096)

/-- The port that packet `i` takes, when the packets begin at `start` in the turn (R256). -/
def State.dealt (s : State) (node start i : Nat) : Nat :=
  let t := s.turn node
  t.getD ((start + i) % t.length) 0

/-- Sends packets of a chunk or message, by number. -/
def State.sendPackets (s : State) (node kind start : Nat) (h : NptHeader) (bytes : List Byte) : List Nat → State
  | [] => s
  | i :: is =>
    (s.send (.udp (s.nptPacket (s.dealt node start i) node kind i (decide (packetCount bytes.length ≤ i + 1)) h
      ((bytes.drop (4096 * i)).take 4096)))).sendPackets node kind start h bytes is

end Sys2Proof.Machine
end

