-- ==== Sys2Proof/Machine/Npt.lean ====
section
/-! DEFINITION. The sending side of LLDP labels and of NPT (R237, R238, R253 to R257): labels, sessions, chunks and
messages kept until acknowledged, and which packets arrive. A chunk arrives as one command (log 19). -/

namespace Sys2Proof.Machine

/-- R238: the 20-byte information string of the label TLV sent from a port, 0xFF in a HELLO. Its fields of more than
one byte are big-endian (log 27). -/
def State.label (s : State) (port : Nat) (trayRole : Bool) : List Byte :=
  beBytes 4 (s.net.nodeId.toNat + at_ (bitOf s.net.nodeValid) 31) ++ leBytes 1 port ++
    leBytes 1 (s.member + at_ (bitOf trayRole) 2) ++ beBytes 2 0x3220 ++ leBytes 1 s.fuses.stepping.toNat ++
    leBytes 1 s.variantCode ++ leBytes 1 1 ++ leBytes 1 0 ++ leBytes 1 1 ++ leBytes 1 0 ++
    beBytes 4 s.net.topoGen.toNat ++ zeros 2

/-- R237: the LLDPDU of a port: Chassis ID, Port ID, Time to Live, the label TLV, End of LLDPDU. -/
def State.lldpdu (s : State) (p : Nat) : List Byte :=
  beBytes 2 (1 * 512 + 7) ++ leBytes 1 4 ++ beBytes 6 s.fuses.macBase.toNat ++
    beBytes 2 (2 * 512 + 7) ++ leBytes 1 3 ++ beBytes 6 (s.portMac p).toNat ++
    beBytes 2 (3 * 512 + 2) ++ beBytes 2 4 ++
    beBytes 2 (127 * 512 + 24) ++ beBytes 3 s.fuses.oui.toNat ++ leBytes 1 1 ++ s.label p ((s.port p).role == 1) ++
    beBytes 2 0

/-- R237: the nearest-bridge group address. -/
def lldpMac : BitVec 48 := 0x0180C200000E

/-- R237: sends an LLDPDU on a port in LABEL_WAIT, UP or DEAD_LETTER. -/
def State.sendLldp (s : State) (p : Nat) : State :=
  if [portLabelWait, portUp, portDead].contains (s.port p).state then s.send (.frame p lldpMac (s.lldpdu p)) else s

/-- Sends an LLDPDU on every port of a list. -/
def State.sendLldps (s : State) : List Nat → State
  | [] => s
  | p :: ps => (s.sendLldp p).sendLldps ps

/-! ### Sessions -/

def State.session (s : State) (node : Nat) : Session := s.net.sessions.get Session.none node

def State.setSession (s : State) (node : Nat) (x : Session) : State :=
  { s with net := { s.net with sessions := s.net.sessions.set Session.none node x } }

/-- R254: a header from this module. -/
def State.nptHeader (s : State) (node coll epoch chunk contributor len : Nat) : NptHeader :=
  { srcNode := BitVec.ofNat 32 s.net.nodeId.toNat, dstNode := BitVec.ofNat 32 node, collId := BitVec.ofNat 32 coll
    epoch := BitVec.ofNat 32 epoch, chunkIndex := BitVec.ofNat 32 chunk
    contributor := BitVec.ofNat 32 contributor, length := BitVec.ofNat 16 (min len 4096), ceCount := 0 }

/-- R254: the node that sent a packet. -/
def chunkSender (h : NptHeader) : Nat := bits h.srcNode.toNat 16 0

/-- Sends an NPT packet that is not kept, if some port is usable for its destination. -/
def State.nptSend (s : State) (node kind : Nat) (h : NptHeader) (payload : List Byte) : State :=
  if (s.usable node).isEmpty then s else s.sendPackets node kind (Config.firstInTurn node 0) h payload [0]

/-- R255: a HELLO, or a HELLO_ACK, to a node. -/
def State.sendHello (s : State) (node kind : Nat) : State :=
  s.nptSend node kind (s.nptHeader node 0 0 0 0 20) (s.label 0xFF false)

/-- Whether chunks for a node may go out now. -/
def State.sessionOpen (s : State) (node : Nat) : Bool := (s.session node).isOpen

/-- A chunk goes out over some ports: for the first time, or again (R285). -/
def OutChunk.left (c : OutChunk) (ports : List Nat) : OutChunk :=
  { c with gone := true, waits := false, busy := false, failed := false, tries := c.tries + 1, ports := ports }

/-- R285: what a COLL counts when a chunk of it goes out: its bytes the first time, and re-sends after a port failure. -/
def CollRun.counts (c : OutChunk) (r : CollRun) : CollRun :=
  if c.op = some r.op then
    (if !c.gone then { r with sent := r.sent + c.bytes.length }
     else if c.failed then { r with resent := r.resent + 1 } else r)
  else r

/-- R256: where in the turn the packets of a chunk begin: further on each time it goes out. -/
def OutChunk.start (c : OutChunk) : Nat := Config.firstInTurn c.node (c.id + 1) + c.tries

/-- Sends, or sends again, a kept chunk; without a session or a usable port it waits (R256). -/
def State.putChunk (s : State) (c : OutChunk) : State :=
  if s.sessionOpen c.node && !(s.usable c.node).isEmpty then
    let is := List.range (packetCount c.bytes.length)
    let ports := (is.map (s.dealt c.node c.start)).eraseDups
    let s1 := s.sendPackets c.node c.kind c.start c.h c.bytes is
    { s1 with net := { s1.net with
        out := s1.net.out.map (fun x => if x.id = c.id then x.left ports else x)
        colls := s1.net.colls.map (CollRun.counts c) } }
  else { s with net := { s.net with out := s.net.out.map (fun x => if x.id = c.id then { x with waits := true } else x) } }

def State.putChunks (s : State) : List OutChunk → State
  | [] => s
  | c :: cs => (s.putChunk c).putChunks cs

/-- Chunks that wait, for a node or for any. -/
def State.waitingChunks (s : State) (node : Option Nat) : List OutChunk :=
  s.net.out.filter (fun c => c.waits && (match node with | some n => c.node == n | none => true))

/-- R255, R256: keeps a chunk or message until its ACK, and sends it; the first one for a node without a session
opens it. -/
def State.nptQueue (s : State) (node kind : Nat) (h : NptHeader) (bytes : List Byte) (op : Option Nat) : State :=
  let n := s.fresh
  let c : OutChunk :=
    { id := n.1, node := node, kind := kind, h := h, bytes := bytes, op := op, gone := false, waits := true, busy := false
      failed := false, tries := 0, ports := [] }
  let first := !s.net.out.any (fun x => x.node == node)
  let s1 : State := { n.2 with net := { n.2.net with out := n.2.net.out ++ [c] } }
  if s1.sessionOpen node then s1.putChunk c
  else if first then s1.sendHello node 4 else s1

/-- An ACK or NACK that names a chunk by its header (R254, R256, R278). -/
def State.nptAnswer (s : State) (kind : Nat) (h : NptHeader) (ce : Nat) (words : List Nat) : State :=
  let node := bits h.srcNode.toNat 16 0
  let h1 : NptHeader := { h with srcNode := BitVec.ofNat 32 s.net.nodeId.toNat, dstNode := BitVec.ofNat 32 node
                                 length := BitVec.ofNat 16 (2 * words.length), ceCount := BitVec.ofNat 16 ce }
  s.nptSend node kind h1 (words.flatMap (leBytes 2))

/-- R278: a refusal with a status code, or BUSY. -/
def State.nptRefuse (s : State) (h : NptHeader) (code : Nat) : State := s.nptAnswer 3 h 0 [0xFFFF, code]

/-! ### Which packets arrive (R232, R234, R254) -/

/-- R254: addressed to this module. -/
def State.forUs (s : State) (h : NptHeader) : Bool := h.dstNode.toNat == s.net.nodeId.toNat

/-- R254: a dropped packet is counted on its port. -/
def State.dropFrame (s : State) (p : Nat) : State :=
  let x := s.port p
  s.setPort p { x with dropped := x.dropped + 1 }

/-- R234: codewords counted on a port. -/
def Port.codewords (x : Port) (f : Codewords) : Port :=
  { x with fecCorrected := (x.fecCorrected + f.corrected) % 2 ^ 64, fecUncorrected := (x.fecUncorrected + f.uncorrectable) % 2 ^ 64 }

/-- A packet arrives: on an Ethernet-role port in UP (R235), in an untagged frame of at most 9,216 bytes (R232), whole, of a TYPE that
is not reserved, and for this module (R254); then what it does. -/
def State.receives (s : State) (a : Arrival) (h : NptHeader) (f : State → State) : State :=
  let p := a.port.val
  let x := s.port p
  if x.role ≠ 0 ∨ x.state ≠ portUp then s
  else
    let s1 := s.setPort p (x.codewords a.fec)
    if a.tagged || decide (9216 < a.size) then s1
    else if !a.intact || a.reserved || !s1.forUs h then s1.dropFrame p
    else f s1

/-! ### Groups (R266) -/

def State.groupActive (s : State) (g : Nat) : Option GroupDef := s.net.active.get none g

/-- Rank of a node in a definition. -/
def GroupDef.rankOf (g : GroupDef) (node : Nat) : Option Nat :=
  let i := g.members.findIdx (· == node)
  if i < g.members.length then some i else none

/-- Node of a rank. -/
def GroupDef.node (g : GroupDef) (rank : Nat) : Nat := g.members.getD rank 0

/-- R251, R262, R264: LINK events. -/
def State.linkEvent (s : State) (code subject : Nat) (detail : List Byte) : State :=
  s.raise 6 code s.currentStep 0 subject detail

end Sys2Proof.Machine
end

