-- ==== Sys2Proof/Machine/Records.lean ====
section
/-! DEFINITION. The 32-byte result records of MATMUL, VEC and COLL (R57, R169, R285), and the ends every op may meet:
ABORTED (R60, R170, R283) and the forced completions of R310 and R325. -/

namespace Sys2Proof.Machine

/-- Bits given as truth values, lowest first. -/
def flagBits : List Bool → Nat
  | [] => 0
  | b :: bs => bitOf b + 2 * flagBits bs

/-- R57. -/
def matRecord (o : Op) (r : MatRun) (endTime status : Nat) : List Byte :=
  let runs := if r.check = 3 then (if r.voted then 3 else 2) else 1
  leBytes 1 status ++
    leBytes 1 (flagBits [r.ladder, r.brackets != 0, r.masked, r.partner, r.ramped, r.asWhole && r.d.band != 0]) ++
    leBytes 1 r.brackets ++ leBytes 1 runs ++ leBytes 2 r.culprit ++ zeros 2 ++ leBytes 4 o.tag ++
    leBytes 4 r.d.kt ++ leBytes 8 r.plateAclk ++ leBytes 8 endTime

/-- R57: the record of a MATMUL that ends before it asks for its frank. The manual gives RUNS and K_TILES no value for one that
never ran: RUNS is 1, and K_TILES counts K-tiles of 768 where the operand pair has no mode (DESIGN CHOICE, log 72). -/
def matEarlyRecord (o : Op) (endTime status : Nat) : List Byte :=
  leBytes 1 status ++ zeros 2 ++ leBytes 1 1 ++ leBytes 2 0xFFFF ++ zeros 2 ++ leBytes 4 o.tag ++
    leBytes 4 (matDesc o).kt ++ zeros 8 ++ leBytes 8 endTime

/-- ENGINE and PROG_LEN of a VEC (R136). -/
def Op.engine (o : Op) : Nat := bits (o.w 0) 12 11
def Op.progLen (o : Op) : Nat := bits (o.w 0x18) 16 0

def largest : List Nat → Nat
  | [] => 0
  | x :: xs => max x (largest xs)

/-- A store of the run saturated (R152). -/
def VecRun.saturated (r : VecRun) : Bool :=
  r.uses.any (fun p => match p.2 with | some u => u.saturations != 0 | none => false)

/-- R168: VCLK a VEC occupied its engine. -/
def VecRun.busy (r : VecRun) : Nat := 64 + ceilDiv (8 * r.prog.length) 4096 + r.busyEnd

/-- R169: over the runs of the dies that executed it. -/
def vecRecord (o : Op) (runs : List VecRun) (endTime status : Nat) : List Byte :=
  let pc := (runs.findSome? (fun r => r.faultPc)).getD 0xFFFFFFFF
  leBytes 1 status ++
    leBytes 1 (flagBits [runs.any VecRun.saturated, o.engine == 3, runs.any (·.masked)]) ++ zeros 2 ++
    leBytes 4 pc ++ leBytes 4 o.tag ++ leBytes 4 (largest (runs.map (·.words))) ++
    leBytes 8 (largest (runs.map VecRun.busy)) ++ leBytes 8 endTime

/-- R285. -/
def collRecord (o : Op) (r : CollRun) (endTime status : Nat) : List Byte :=
  let sat := match r.counters with | some u => u.saturations != 0 | none => false
  leBytes 1 status ++ leBytes 1 (flagBits [sat, r.resent != 0, r.masked, r.early, r.scalesDiffer]) ++ zeros 2 ++
    leBytes 4 (r.culpritRank.getD 0xFFFFFFFF) ++ leBytes 4 o.tag ++ leBytes 4 r.rx.length ++ leBytes 8 r.sent ++
    leBytes 8 endTime

/-- R285: the record of a COLL that ends before it starts. -/
def collEarlyRecord (o : Op) (rank endTime status : Nat) : List Byte :=
  leBytes 1 status ++ zeros 3 ++ leBytes 4 rank ++ leBytes 4 o.tag ++ zeros 4 ++ zeros 8 ++ leBytes 8 endTime

/-! ### Runs of an op -/

def State.matRun (s : State) (op : Nat) : Option MatRun := s.plate.running.find? (fun r => r.op == op)

def State.setMat (s : State) (r : MatRun) : State :=
  { s with plate := { s.plate with running := s.plate.running.map (fun x => if x.op = r.op then r else x) } }

def State.dropMat (s : State) (op : Nat) : State :=
  { s with plate := { s.plate with running := s.plate.running.filter (fun x => x.op != op) } }

def State.collRun (s : State) (op : Nat) : Option CollRun := s.net.colls.find? (fun r => r.op == op)

def State.setColl (s : State) (r : CollRun) : State :=
  { s with net := { s.net with colls := s.net.colls.map (fun x => if x.op = r.op then r else x) } }

/-- The engine of a die. -/
def State.engine (s : State) (die : Nat) : Engine := if die = 0 then s.vec.e0 else s.vec.e1

def State.setEngine (s : State) (die : Nat) (e : Engine) : State :=
  if die = 0 then { s with vec := { s.vec with e0 := e } } else { s with vec := { s.vec with e1 := e } }

/-- The VEC runs of an op, on C0 and C1. -/
def State.vecRuns (s : State) (op : Nat) : List VecRun :=
  [s.vec.e0.run, s.vec.e1.run].filterMap (fun r => match r with
    | some x => if x.op = op then some x else none
    | none => none)

/-- The record of an op as its type lays it out. -/
def State.recordOf (s : State) (o : Op) (endTime : Nat) : Nat → List Byte :=
  if o.kind = opMatmul then
    match s.matRun o.id with
    | some r => matRecord o r endTime
    | none => matEarlyRecord o endTime
  else if o.kind = opVec then vecRecord o (s.vecRuns o.id) endTime
  else if o.kind = opColl then
    match s.collRun o.id with
    | some r => collRecord o r endTime
    | none => collEarlyRecord o 0xFFFFFFFF endTime
  else fun status => shortRecord status 0 o.tag (if o.kind = opMove ∨ o.kind = opBranch then o.sum else 0) endTime

/-! ### Undefined results -/

/-- Makes rows of memory at virtual addresses undefined. -/
def State.undefRows (s : State) (root : Word) (base stride len : Nat) : Nat → State
  | 0 => s
  | n + 1 => (s.undefRows root base stride len n).undefVirt root (base + n * stride) len

/-- R79: bytes of a die's part of the spill area: the elements with fold state there are those of the whole tensor for a chain
member, of the one block of a resident drain, or of a block in the layout that executes (R80, R114). -/
def MatDesc.spillPart (d : MatDesc) (asWhole resident : Bool) (die : Nat) : Nat :=
  4 * (d.foldSlots - 4) * d.e *
    (if d.chainMember then d.m * d.halves die
     else if resident then d.m * d.nMax
     else d.blockRows * d.blockCols asWhole die)

/-- R79: addresses and lengths of the spill area's two parts; none where nothing is spilled. -/
def MatDesc.spillRanges (d : MatDesc) (asWhole resident : Bool) : List (Nat × Nat) :=
  if d.spillPage = 0 ∨ d.foldSlots ≤ 4 then []
  else
    let p := d.spillPart asWhole resident
    [(d.spillPage * 65536, p 0), (d.spillPage * 65536 + ceilDiv (p 0) 65536 * 65536, p 1)]

/-- What a MATMUL leaves in its spill area is internal to the module (R77, R79). -/
def State.undefSpill (s : State) (root : Word) (r : MatRun) : State :=
  (r.d.spillRanges r.asWhole r.resident).foldl (fun (x : State) w => x.undefVirt root w.1 w.2) s

/-- Output and row statistics of a MATMUL, made undefined. -/
def State.undefOutput (s : State) (root : Word) (d : MatDesc) : State :=
  let out := fun (x : State) (addr cols : Nat) =>
    if d.stores then x.undefRows root addr d.outStride (rowBytes cols (codeBits d.outFmt)) d.m else x
  let s1 := if d.split then out (out s d.out0Addr (d.halves 0)) d.out1Addr (d.halves 1) else out s d.out0Addr d.n
  if d.rowmax || d.rowsum then s1.undefVirt root (d.rowstatPage * 65536) (64 * d.m) else s1

/-- R60: output, row statistics, accumulator region and fold slots, and spill area of a MATMUL. -/
def State.undefMat (s : State) (root : Word) (r : MatRun) : State :=
  let region := fun (x : State) (die : Nat) =>
    x.undefAt (0x20100000000 + die * 0x2000000 + r.d.accBase * 65536) (r.d.accSize * 65536)
  (region (region (s.undefOutput root r.d) 0) 1).undefSpill root r

/-- R293, R299, R313: residue failures whose outcome is now known: the failing physical cell column and COLUMNS of each. -/
def State.residueEvents (s : State) (o : Op) (pass status : Nat) : List (Nat × List Nat) → State
  | [] => s
  | (cell, cols) :: t =>
    let lost := decide (0x20 ≤ status)
    (s.fault 1 o.tag cell (bitOf lost) (if lost then status else 0) (256 * (cell / 200)) pass 0 cols).residueEvents o pass status t

/-- R295, R296: the votes of drains and folds, one event per die: code, die and count of each; `lost` names the one in which no
two agreed. -/
def State.voteEvents (s : State) (o : Op) (lost : Option (Nat × Nat)) : List (Nat × Nat × Nat) → State
  | [] => s
  | (code, die, n) :: t =>
    let l := lost == some (code, die)
    (if n = 0 then s
     else s.fault code o.tag die (bitOf l) (if l then 0x30 else 0) (256 * die) n 0 noColumns).voteEvents o lost t

/-- The events a MATMUL writes when it ends with a status: what it has not told yet (R293, R295, R296). -/
def State.matTells (s : State) (o : Op) (r : MatRun) (status : Nat) : State :=
  (s.residueEvents o r.pass status r.residues).voteEvents o r.lostVote
    [(3, 0, r.drainVotes0), (3, 1, r.drainVotes1), (4, 0, r.foldVotes0), (4, 1, r.foldVotes1)]

/-- Makes virtual ranges undefined. -/
def State.undefRanges (s : State) (root : Word) (rs : List (Nat × Nat)) : State :=
  rs.foldl (fun (x : State) (w : Nat × Nat) => x.undefVirt root w.1 w.2) s

/-- R170, R297: registers of an engine, and the memory its VEC wrote or was to write, made undefined. -/
def State.undefRegs (s : State) (root : Word) (die : Nat) (more : List (Nat × Nat)) : State :=
  let e := s.engine die
  let g := s.draw
  let e1 : Engine :=
    { e with v := e.v.undef 0 (64 * 65536) g.1, p := e.p.undef 0 (8 * 65536) g.1, q := e.q.undef 0 16 g.1 }
  (g.2.setEngine die e1).undefRanges root (((e.run.map (·.wrote)).getD []) ++ more)

/-- R170: registers, tables and written memory of an engine that stopped; its statistics groups are as at the start. -/
def State.undefEngine (s : State) (root : Word) (die : Nat) : State :=
  let s1 := s.undefRegs root die []
  let e := s1.engine die
  let g := s1.draw
  g.2.setEngine die { e with tables := e.tables.undef 0 (16 * 4096) g.1
                             gstat := (e.run.map (·.gstat0)).getD e.gstat, run := none }

/-- R285, R283: a COLL enters the closed list, which keeps the last 4,096. -/
def State.closeColl (s : State) (collId : BitVec 32) (epoch status : Nat) (rank : Option Nat) : State :=
  { s with net := { s.net with closed := ((collId, epoch, status, rank) :: s.net.closed).take 4096 } }

end Sys2Proof.Machine
end

