-- ==== Sys2Proof/Machine/Flags.lean ====
section
/-! DEFINITION. Conversion into a stored format with its outcome class (R121 to R123), the counters of a use (R127),
the run lengths (R128) and the health events (R129). -/

namespace Sys2Proof.Machine

/-- The class of R127 an element falls in, beside ELEMENTS. -/
inductive Conv where
  | plain
  | zero
  | nonfinite
  | flush
  | subnormal
  | saturated
  deriving DecidableEq, Repr

/-- The largest magnitude code of an integer format. -/
def intMax (fmt : Nat) : Nat := if fmt = codeINT4 then 7 else 127

/-- Magnitude of a value beyond F_max of a format. -/
def beyond (fmt : Nat) (q : Val) : Bool := (fMax fmt).lt q.abs

/-- R122: an integer code of q, two's complement in the format's width. -/
def intCode (fmt : Nat) (rm : Rnd) (q : Val) : Nat × Conv :=
  let w := codeBits fmt
  match q with
  | .nan => (0, .nonfinite)
  | .inf neg => (natOfInt w (signedAt neg (intMax fmt)), .nonfinite)
  | .num neg n d e =>
    if n = 0 then (0, .zero)
    else if beyond fmt q then (natOfInt w (signedAt neg (intMax fmt)), .saturated)
    else
      let x := roundInt rm neg n d e
      (natOfInt w x, if x = 0 then .flush else .plain)

/-- R121, R122: the stored code of q, and the class of R127. -/
def storedCode (fmt : Nat) (rm : Rnd) (q : Val) : Nat × Conv :=
  match floatFmt fmt with
  | none => intCode fmt rm q
  | some f =>
    match q with
    | .nan => (roundFloat f rm q, .nonfinite)
    | .inf _ => (roundFloat f rm q, .nonfinite)
    | .num neg n _ _ =>
      if n = 0 then (withSign f neg 0, .zero)
      else if beyond fmt q then (withSign f neg f.maxFin, .saturated)
      else
        let c := roundFloat f rm q
        let m := c % 2 ^ f.sign
        (c, if m = 0 then .flush else if m < 2 ^ f.frac then .subnormal else .plain)

/-- A count of nothing. -/
def SlotUse.start (sc : Scale) (fmt : Nat) : SlotUse := ⟨sc, fmt, 0, 0, 0, 0, 0, 0, .zero⟩

/-- The larger of two magnitudes, of which the second counts only when finite. -/
def maxMag (a v : Val) : Val := if v.isFinite && a.lt v.abs then v.abs else a

/-- R127: counts one element of real value v. -/
def SlotUse.add (u : SlotUse) (v : Val) (c : Conv) : SlotUse :=
  let u1 := { u with elements := u.elements + 1, amax := maxMag u.amax v }
  match c with
  | .plain => u1
  | .zero => { u1 with zeros := u1.zeros + 1 }
  | .nonfinite => { u1 with nonfinite := u1.nonfinite + 1 }
  | .flush => { u1 with flushes := u1.flushes + 1 }
  | .subnormal => { u1 with subnormals := u1.subnormals + 1 }
  | .saturated => { u1 with saturations := u1.saturations + 1 }

/-- R127: the last-use counters in an entry. -/
def Entry.counted (e : Entry) (u : SlotUse) : Entry :=
  { e with elements := u.elements, nonfinite := satCount 16 u.nonfinite, zeros := u.zeros, flushes := u.flushes
           subnormals := u.subnormals, saturations := u.saturations }

/-- R128: the run lengths after a use, and whether UNDERFLOW_RUN and ZERO_RUN are raised. NONFINITE in `nonzero` is the use's count,
not the field that saturates at 0xFFFF, which the manual does not settle (DESIGN CHOICE, log 79). -/
def Entry.runs (e : Entry) (u : SlotUse) (f l : Nat) : Entry × Bool × Bool :=
  let nonzero := u.elements - u.zeros - u.nonfinite
  let under := decide (0 < nonzero) && decide (nonzero ≤ u.flushes * 2 ^ f)
  let zero := u.zeros == u.elements
  if l = 0 then ({ e with runUnder := 0, runZero := 0 }, false, false)
  else
    let ru := if under then e.runUnder + 1 else 0
    let rz := if zero then e.runZero + 1 else 0
    ({ e with runUnder := if l ≤ ru then 0 else ru, runZero := if l ≤ rz then 0 else rz }, decide (l ≤ ru), decide (l ≤ rz))

/-- R127, R128: one use of an entry; the health codes it raises besides NONFINITE and OVERFLOW_SAT. -/
def Entry.used (e : Entry) (u : SlotUse) (f l : Nat) : Entry × List Nat :=
  let r := ({ e.counted u with uses := (e.uses + 1) % 2 ^ 32 }).runs u f l
  (r.1, (if r.2.1 then [2] else []) ++ (if r.2.2 then [3] else []))

/-- R127: an A24 output is no use, but sets the counters of its elements. -/
def Entry.notUsed (e : Entry) (u : SlotUse) : Entry :=
  { e with elements := u.elements, zeros := u.zeros, nonfinite := satCount 16 u.nonfinite, flushes := 0, subnormals := 0
           saturations := 0 }

/-- R129, R221: a health event with the last-use counters of an entry. -/
def State.health (s : State) (code : Nat) (o : Op) (e : Entry) : State :=
  s.raise 2 code (o.step.getD 0) o.tag e.tensorId.toNat
    (leBytes 6 e.elements ++ leBytes 6 e.zeros ++ leBytes 6 e.flushes ++ leBytes 6 e.subnormals ++
      leBytes 6 e.saturations ++ leBytes 2 e.nonfinite)

def State.healths (s : State) (o : Op) (e : Entry) : List Nat → State
  | [] => s
  | c :: cs => (s.health c o e).healths o e cs

end Sys2Proof.Machine
end

