-- ==== Sys2Proof/Machine/ScaleBook.lean ====
section
/-! DEFINITION. The scale book (R105 to R117): entries and their images, operand and output scales, and the update of
an entry after a drain. -/

namespace Sys2Proof.Machine

/-! ### Scales (R105) -/

/-- A 16-bit scale field as a signed exponent. -/
def expField (x : BitVec 16) : Int := x.toInt

def validExp (x : BitVec 16) : Bool := decide (-512 ≤ expField x) && decide (expField x ≤ 511)

/-- R105: positive, finite and normal. -/
def validBf (x : BitVec 16) : Bool := decide (0x80 ≤ x.toNat) && decide (x.toNat ≤ 0x7F7F)

def bfOne : BitVec 16 := 0x3F80

def clampExp (e : Int) : Int := clampInt (-512) 511 e

/-- A positive value rounded toward +∞ to BF16, kept within the limits of R105. -/
def bfUp (v : Val) : BitVec 16 :=
  match v with
  | .num _ n d e => BitVec.ofNat 16 (max 0x80 (min 0x7F7F (magCode fmtBF16 .up false n d e)))
  | _ => 0x7F7F

/-- ceil(log2 v) of a positive value. -/
def valCeilLog2 : Val → Int
  | .num _ n d e => ceilLog2 n d + e
  | _ => 0

/-- The multiplier a scale stands for. -/
def Scale.value : Scale → Val
  | .exp e => .pow2 e
  | .bf c => decodeFloat fmtBF16 c.toNat

/-- Scale 1 of the kind a format has. -/
def unitScale (fmt : Nat) : Scale := if isIntCode fmt then .bf bfOne else .exp 0

/-- The 16-bit field that holds a scale. -/
def Scale.field : Scale → BitVec 16
  | .exp e => BitVec.ofInt 16 e
  | .bf c => c

/-- A field read by the kind of a format. -/
def readScale (fmt : Nat) (x : BitVec 16) : Scale := if isIntCode fmt then .bf x else .exp (expField x)

/-- Whether a field is a valid scale of the kind of a format. -/
def validScale (fmt : Nat) (x : BitVec 16) : Bool := if isIntCode fmt then validBf x else validExp x

/-- R114, R115, R117: the least scale under which magnitude `v` does not exceed F_max; 1 for 0. -/
def scaleFor (fmt : Nat) (v : Val) : Scale :=
  if v.isZero then unitScale fmt
  else
    let r := v.div (fMax fmt)
    if isIntCode fmt then .bf (bfUp r) else .exp (clampExp (valCeilLog2 r))

/-- R118: a scale times 2^k. -/
def Scale.times (s : Scale) (k : Int) : Scale :=
  match s with
  | .exp e => .exp (clampExp (e + k))
  | .bf c => .bf (bfUp ((decodeFloat fmtBF16 c.toNat).scale k))

/-! ### Entries (R107, R108) -/

def entryIndex (tid : BitVec 32) : Nat := tid.toNat % 16384

def State.entry (s : State) (i : Nat) : Entry := s.numerics.book.get Entry.free i

def State.setEntry (s : State) (i : Nat) (e : Entry) : State :=
  { s with numerics := { s.numerics with book := s.numerics.book.set Entry.free i e } }

/-- R107: an entry newly bound to an ID. -/
def Entry.fresh (tid : BitVec 32) (histLen marginExp : Nat) : Entry :=
  { Entry.free with tensorId := tid, bound := true, histLen := histLen, marginExp := marginExp }

/-- R107: the entry an operation reads for an ID: none when it is bound to another ID. -/
def State.entryFor (s : State) (tid : BitVec 32) (histLen marginExp : Nat) : Option Entry :=
  let e := s.entry (entryIndex tid)
  if !e.bound then some (Entry.fresh tid histLen marginExp)
  else if e.tensorId = tid then some e else none

/-- R108: the scale an entry supplies for an operand format; none when CUR_FMT has the other kind. -/
def Entry.operandScale (e : Entry) (fmt : Nat) : Option Scale :=
  if !e.curValid then some (unitScale fmt)
  else if isIntCode e.curFmt != isIntCode fmt then none
  else some (readScale fmt e.scaleCur)

/-- h of R112. -/
def Entry.histMax (e : Entry) : Val :=
  decodeFloat fmtBF16 (largest ((List.range e.histCount).map (fun i => (e.hist.get 0 i).toNat)))

/-- R112: the scale of a history that is not empty. -/
def Entry.historyScale (e : Entry) (fmt : Nat) : Scale := scaleFor fmt (e.histMax.scale e.marginExp)

/-- R113: a pinned scale that its format refuses. -/
def Entry.pinRefused (e : Entry) (fmt : Nat) : Bool := e.pinned && !validScale fmt e.pinScale

/-- R115: the largest magnitude an operand may have. -/
def Entry.operandBound (e : Entry) (fmt : Nat) (sc : Scale) (loadq : Bool) : Val :=
  if e.amaxValid && !loadq then decodeFloat fmtBF16 e.amaxCur.toNat else (fMax fmt).mul sc.value

/-- R116: amax rounded toward +∞ to BF16. -/
def amaxField (a : Val) : BitVec 16 :=
  match a with
  | .num _ n d e => BitVec.ofNat 16 (min 0x7F7F (magCode fmtBF16 .up false n d e))
  | _ => 0

/-- A value added to the history of an entry (R116, R117). -/
def Entry.push (e : Entry) (x : BitVec 16) : Entry :=
  { e with hist := e.hist.set 0 e.histHead x, histHead := (e.histHead + 1) % max 1 e.histLen
           histCount := min e.histLen (e.histCount + 1) }

/-- R116: an entry after its tensor was stored. -/
def Entry.drained (e : Entry) (sc : Scale) (fmt : Nat) (a : Val) : Entry :=
  let e1 := { e with scaleCur := sc.field, curFmt := fmt, curValid := true, amaxCur := amaxField a, amaxValid := true }
  if fmt = codeA24 then e1 else e1.push (amaxField a)

/-! ### Images (R109) -/

def Entry.image (e : Entry) : List Byte :=
  leBytes 4 e.tensorId.toNat ++
    leBytes 1 (flagBits [e.bound, e.pinned, e.curValid, e.amaxValid]) ++ leBytes 1 e.histLen ++
    leBytes 1 e.histCount ++ leBytes 1 e.histHead ++
    leBytes 2 e.scaleCur.toNat ++ leBytes 2 e.pinScale.toNat ++ leBytes 2 e.amaxCur.toNat ++
    leBytes 2 (e.curFmt + 16 * e.marginExp) ++
    leBytes 4 e.uses ++ leBytes 2 e.runUnder ++ leBytes 2 e.runZero ++
    leBytes 6 e.elements ++ leBytes 2 e.nonfinite ++ leBytes 8 e.zeros ++ leBytes 8 e.flushes ++
    leBytes 8 e.subnormals ++ leBytes 8 e.saturations ++
    ((List.range 64).flatMap (fun i => leBytes 2 (e.hist.get 0 i).toNat))

/-- History slots of an image, from slot `i` on. -/
def readHist (bs : List Byte) : Nat → SMap (BitVec 16)
  | 0 => []
  | n + 1 => (readHist bs n).set 0 n (BitVec.ofNat 16 (field bs (0x40 + 2 * n) 2))

/-- An entry from its image, whose reserved bits are checked apart. -/
def parseEntry (bs : List Byte) : Entry :=
  let w := word64 bs 0
  let v := word64 bs 8
  { tensorId := BitVec.ofNat 32 w, bound := bit w 32, pinned := bit w 33, curValid := bit w 34, amaxValid := bit w 35
    histLen := bits w 46 40, histCount := bits w 54 48, histHead := bits w 61 56
    scaleCur := BitVec.ofNat 16 v, pinScale := BitVec.ofNat 16 (v / 2 ^ 16), amaxCur := BitVec.ofNat 16 (v / 2 ^ 32)
    curFmt := bits v 51 48, marginExp := bits v 55 52
    uses := field bs 0x10 4, runUnder := field bs 0x14 2, runZero := field bs 0x16 2
    elements := field bs 0x18 6, nonfinite := field bs 0x1E 2, zeros := field bs 0x20 6, flushes := field bs 0x28 6
    subnormals := field bs 0x30 6, saturations := field bs 0x38 6, hist := readHist bs 64 }

/-- Reserved bits of an image. -/
def imageReserved (bs : List Byte) : Bool :=
  let w := word64 bs 0
  bits w 39 36 != 0 || bit w 47 || bit w 55 || bits w 63 62 != 0 || bits (word64 bs 8) 63 56 != 0 ||
    [0x26, 0x2E, 0x36, 0x3E].any (fun o => field bs o 2 != 0)

/-- R109: not negative, not −0, finite. -/
def validAmax (x : BitVec 16) : Bool := decide (x.toNat ≤ 0x7F7F)

/-- R109: an image that entry `i` accepts. -/
def imageValid (i : Nat) (bs : List Byte) : Bool :=
  let e := parseEntry bs
  if !bit (word64 bs 0) 32 then bs.all (· == 0)
  else
    !imageReserved bs && decide (entryIndex e.tensorId = i) &&
    decide (1 ≤ e.histLen) && decide (e.histLen ≤ 64) && decide (e.histCount ≤ e.histLen) && decide (e.histHead < e.histLen) &&
    (!decide (e.histCount < e.histLen) || decide (e.histHead = e.histCount)) &&
    decide (e.curFmt ≤ 7) &&
    (!e.curValid || validScale e.curFmt e.scaleCur) &&
    (!e.pinned || validExp e.pinScale || validBf e.pinScale) &&
    validAmax e.amaxCur &&
    (List.range 64).all (fun j => validAmax (e.hist.get 0 j) && (decide (j < e.histLen) || e.hist.get 0 j == 0))

/-- The scale book as 16,384 images in entry order (R199, R336, R339). -/
def bookImage (b : SMap Entry) : List Byte := (List.range 16384).flatMap (fun i => (b.get Entry.free i).image)

/-- A book from its images. -/
def readBook (bs : List Byte) : Nat → SMap Entry
  | 0 => []
  | n + 1 => (readBook bs n).set Entry.free n (parseEntry ((bs.drop (192 * n)).take 192))

end Sys2Proof.Machine
end

