-- ==== Sys2Proof/Machine/CollOp.lean ====
section
/-! DEFINITION. The COLL descriptor (R268 to R270): its fields and checks, shards, blocks and chunks (R272, R277), and
what ends a COLL (R283). -/

namespace Sys2Proof.Machine

/-! ### The descriptor (R268) -/

def collDesc (o : Op) : CollDesc :=
  let w := o.w 0
  let f := o.w 0x40
  let addr := fun off => bits (o.w off) 47 0
  { kind := bits w 13 11, inTidv := bit w 14, outTidv := bit w 15, sr := bit w 16, widen := bit w 17
    tag := BitVec.ofNat 32 o.tag, group := bits (o.w 0x10) 31 0, collId := BitVec.ofNat 32 (o.w 0x10 / 2 ^ 32)
    inAddr := addr 0x18, outAddr := addr 0x20, stageAddr := addr 0x28, resultAddr := addr 0x30
    count := bits (o.w 0x38) 35 0, inFmt := bits f 3 0, outFmt := bits f 7 4, leafLog2 := bits f 12 8
    peer := bits f 32 16, srUse := bits f 63 48
    inStride := addr 0x48, outStride := addr 0x50, stageBytes := addr 0x58
    inTid := BitVec.ofNat 32 (o.w 0x60), outTid := BitVec.ofNat 32 (o.w 0x60 / 2 ^ 32)
    gstatGroup := bits (o.w 0x68) 7 0, gstatEn := bit (o.w 0x68) 8, gstatUnits := bits (o.w 0x68) 63 32 }

/-- The reduction kinds (R269). -/
def CollDesc.reduces (d : CollDesc) : Bool := decide (d.kind ≤ 1)

/-- R268: reserved bits, reserved codes and fields that must be 0. A reduction of one leaf tensor has no use for
IN_STRIDE and may state 0 or a stride (log 63). -/
def collReserved (o : Op) : Bool :=
  let d := collDesc o
  let w := o.w 0
  let f := o.w 0x40
  bits w 10 9 != 0 || bits w 31 18 != 0 || d.kind == 7 ||
  [8, 0x18, 0x20, 0x28, 0x30, 0x48, 0x50, 0x58].any (fun off => bits (o.w off) 63 48 != 0) ||
  bits (o.w 8) 47 0 % 128 != 0 || d.resultAddr % 32 != 0 ||
  bits (o.w 0x38) 63 36 != 0 || d.count == 0 || bits f 15 13 != 0 || bits f 47 33 != 0 ||
  decide (16 < d.leafLog2) || (!d.reduces && d.leafLog2 != 0) ||
  (! [3, 5, 6].contains d.kind && d.peer != 0) || (!d.sr && d.srUse != 0) ||
  (d.kind == 6 && d.inAddr != 0) || (d.kind == 5 && d.outAddr != 0) ||
  (!d.reduces && (d.stageAddr != 0 || d.stageBytes != 0)) ||
  (!d.reduces && d.kind != 4 && d.inStride != 0) || (d.kind != 4 && d.outStride != 0) ||
  (!d.inTidv && d.inTid != 0) || (!d.outTidv && d.outTid != 0) ||
  bits (o.w 0x68) 31 9 != 0 || (!d.gstatEn && d.gstatUnits != 0) || field o.desc 0x70 16 != 0

/-! ### Geometry (R268, R269, R272, R277) -/

/-- Members of a COLL it exchanges data with, by rank, its own apart (R269). -/
def CollRun.partners (r : CollRun) : List Nat :=
  let others := (List.range r.g.members.length).filter (· != r.rank)
  match r.d.kind with
  | 3 => if r.rank = r.d.peer then others else [r.d.peer]
  | 5 => [r.d.peer]
  | 6 => [r.d.peer]
  | _ => others

/-- Bytes of n stored elements of a format code. -/
def packedBytes (n fmt : Nat) : Nat := ceilDiv (n * codeBits fmt) 8

/-- Format code of the output in memory (R268: WIDEN makes it BF16). -/
def CollDesc.memFmt (d : CollDesc) : Nat := if d.widen then codeBF16 else d.outFmt

/-- S of R268. -/
def CollRun.shard (r : CollRun) : Nat := 2048 * ceilDiv r.d.count (2048 * r.g.members.length)

/-- Elements of the shard of rank q. -/
def CollRun.shardLen (r : CollRun) (q : Nat) : Nat := min ((q + 1) * r.shard) r.d.count - q * r.shard

/-- Bits of an element on the wire: a contribution travels in IN_FMT, or as A24 in 4 bytes when a > 0; the gather half
of an ALL_REDUCE in OUT_FMT. -/
def CollDesc.wireBits (d : CollDesc) (phase : Nat) : Nat :=
  if phase = 1 then codeBits d.outFmt
  else if d.reduces && d.leafLog2 != 0 then 32 else codeBits d.inFmt

/-- Bytes of the block that rank p sends rank q in a phase (R277). -/
def CollRun.blockLen (r : CollRun) (phase p q : Nat) : Nat :=
  let d := r.d
  let whole := packedBytes d.count d.inFmt
  if phase = 1 then (if d.kind = 0 then packedBytes (r.shardLen p) d.outFmt else 0)
  else match d.kind with
    | 3 => if p = d.peer then whole else 0
    | 5 => if p = r.rank ∧ q = d.peer then whole else 0
    | 6 => if p = d.peer ∧ q = r.rank then whole else 0
    | 2 => whole
    | 4 => whole
    | _ => ceilDiv (r.shardLen q * d.wireBits 0) 8

/-- Chunks of a block, and bytes of its chunk k. -/
def CollRun.chunks (r : CollRun) (len : Nat) : Nat := ceilDiv len r.chunk
def CollRun.chunkLen (r : CollRun) (len k : Nat) : Nat := min r.chunk (len - k * r.chunk)

/-- The other ranks. -/
def CollRun.others (r : CollRun) : List Nat := (List.range r.g.members.length).filter (· != r.rank)

/-- Block bytes sent to all receivers, and received from all senders. -/
def CollRun.bytesOut (r : CollRun) : Nat :=
  (r.others.map (fun q => r.blockLen 0 r.rank q + r.blockLen 1 r.rank q)).sum
def CollRun.bytesIn (r : CollRun) : Nat :=
  (r.others.map (fun p => r.blockLen 0 p r.rank + r.blockLen 1 p r.rank)).sum

/-- R272: the stage need. -/
def CollRun.stageNeed (r : CollRun) : Nat :=
  let g := r.g.members.length
  let bytes := r.shard * r.d.wireBits 0 / 8
  if g = 1 then 0 else 64 * ceilDiv ((g - 1) * bytes) 64 + 64 * ceilDiv (g * ceilDiv bytes r.chunk) 512

/-! ### Checks (R270) -/

/-- Case 3: the formats of the kind. -/
def CollDesc.formatBad (d : CollDesc) : Bool :=
  if d.reduces then ! [0, 1, 2, 3].contains d.inFmt || ! [0, 2, 3].contains d.outFmt
  else decide (6 < d.inFmt) || d.outFmt != d.inFmt

/-- A reduction into E4M3 or E5M2, whose scale is pinned. -/
def CollDesc.needsPin (d : CollDesc) : Bool := d.reduces && (d.outFmt == codeE4M3 || d.outFmt == codeE5M2)

/-- Case 8: addresses and strides. -/
def CollDesc.placeBad (d : CollDesc) : Bool :=
  [d.inAddr, d.outAddr, d.stageAddr, d.inStride, d.outStride].any (fun x => x % 64 != 0) ||
  (((d.reduces && (d.leafLog2 != 0 || d.inStride != 0)) || d.kind == 4) && decide (d.inStride < packedBytes d.count d.inFmt)) ||
  (d.kind == 4 && decide (d.outStride < packedBytes d.count d.memFmt))

/-- Cases 2 to 11. -/
def CollRun.bad (r : CollRun) : Bool :=
  let d := r.d
  ([3, 5, 6].contains d.kind && decide (r.g.members.length ≤ d.peer)) || ((d.kind == 5 || d.kind == 6) && d.peer == r.rank) ||
  d.formatBad || (d.widen && ! [2, 3, 4].contains d.outFmt) || (d.needsPin && !d.outTidv) ||
  (d.sr && (!d.reduces || !d.outTidv || d.widen)) || (d.gstatEn && !d.reduces) || d.placeBad ||
  (d.count % 2 == 1 && (codeBits d.inFmt == 4 || codeBits d.outFmt == 4)) ||
  r.others.any (fun q => decide (2 ^ 24 < r.chunks (r.blockLen 0 r.rank q)) || decide (2 ^ 24 < r.chunks (r.blockLen 1 r.rank q))) ||
  (d.reduces && decide (d.stageBytes < r.stageNeed))

/-- A COLL under a group, before it starts. -/
def CollRun.start (op : Nat) (d : CollDesc) (g : GroupDef) (rank chunk : Nat) : CollRun :=
  { op := op, d := d, g := g, rank := rank, chunk := chunk, own := [], inExp := 0, inScale := .exp 0, outExp := 0, rx := []
    drained := none, counters := none, sent := 0, resent := 0, early := false, masked := false, scalesDiffer := false
    culpritRank := none }

/-- The COLL a descriptor asks for; none when R5, R35 or R270 refuse it. A module that is no member has no rank
(log 63). -/
def State.collPlan (s : State) (o : Op) : Option CollRun :=
  let d := collDesc o
  match s.groupActive d.group with
  | none => none
  | some g =>
    match g.rankOf s.net.nodeId.toNat with
    | none => none
    | some k =>
      let r := CollRun.start o.id d g k (2 ^ s.net.chunkLog2)
      if collReserved o || r.bad then none else some r

/-! ### Ends (R283) -/

/-- Virtual ranges of a COLL's output and stage. -/
def CollRun.ranges (r : CollRun) : List (Nat × Nat) :=
  let d := r.d
  let blk := packedBytes d.count d.memFmt
  let g := r.g.members.length
  (match d.kind with
   | 0 => [(d.outAddr, blk)]
   | 1 => [(d.outAddr, packedBytes (r.shardLen r.rank) d.memFmt)]
   | 2 => [(d.outAddr, packedBytes (g * d.count) d.memFmt)]
   | 3 => [(d.outAddr, blk)]
   | 4 => (List.range g).map (fun q => (d.outAddr + q * d.outStride, blk))
   | 6 => [(d.outAddr, blk)]
   | _ => []) ++ (if d.stageBytes = 0 then [] else [(d.stageAddr, d.stageBytes)])

/-- R283: an abandon notice to a rank. -/
def State.abandon (s : State) (r : CollRun) (status rank : Nat) : State :=
  let node := r.g.node rank
  let h := s.nptHeader node r.d.collId.toNat r.g.epoch 0 r.rank 4
  s.nptSend node 3 h (leBytes 2 0xFFFF ++ leBytes 2 status)

def State.abandons (s : State) (r : CollRun) (status : Nat) : List Nat → State
  | [] => s
  | q :: qs => (s.abandon r status q).abandons r status qs

/-- R287: COLL_COUNT. -/
def State.countColl (s : State) : State := { s with net := { s.net with collCount := s.net.collCount + 1 } }

end Sys2Proof.Machine
end

