-- ==== Sys2Proof/Machine/Steps.lean ====
section
/-! DEFINITION. Steps (11): forced ends of ops and programs, verdicts up and down the tree of R323, proof and failure
(R325), the kept table (R326), step boundaries (R319), replay (R333) and evacuation (R345). -/

namespace Sys2Proof.Machine

/-! ### Forced ends -/

/-- Completes an op now: a record that would wait for a frame (R327) is not written (log 20). -/
def State.finishNowTelling (s : State) (o : Op) (status : Nat) (detail : Option Word) (record : Nat → List Byte)
    (tell : State → Nat → State) : State :=
  match s.finishTelling o status detail record tell with
  | some t => t
  | none =>
    let o1 : Op := { o with desc := patch o.desc (resultOffset o.kind) (zeros 8) }
    (s.finishTelling o1 status detail record tell).getD s

def State.finishNow (s : State) (o : Op) (status : Nat) (detail : Option Word) (record : Nat → List Byte) : State :=
  s.finishNowTelling o status detail record (fun x _ => x)

def State.finishWith (s : State) (o : Op) (status : Nat) (record : Nat → List Byte) : State :=
  s.finishNow o status none record

/-- Releases what an op holds outside the ready window: franks, its plate run, its collective, its channel frames. A read tag stays
taken until its READ_RESP comes, and that is then dropped (R247). -/
def State.clearOp (s : State) (op : Nat) : State :=
  let s1 := (s.releaseFranks op).dropMat op
  { s1 with net := { s1.net with
      colls := s1.net.colls.filter (fun c => c.op != op)
      out := s1.net.out.filter (fun c => c.op != some op)
      pulls := s1.net.pulls.filter (fun r => r.2.op != op)
      channels := s1.net.channels.map (fun p => (p.1, { p.2 with
        unacked := p.2.unacked.map (fun (f : YeFrame) => if f.op = some op then { f with op := none } else f)
        windows := p.2.windows.filter (fun w => w.actor != op || w.data.isNone) })) } }

/-- R171: a VEC completed on a die. -/
def State.countVec (s : State) (die : Nat) : State :=
  if die = 0 then { s with vec := { s.vec with vecCount0 := s.vec.vecCount0 + 1 } }
  else { s with vec := { s.vec with vecCount1 := s.vec.vecCount1 + 1 } }

/-- Whether a VEC op names a die's engine. -/
def Op.onEngine (o : Op) (die : Nat) : Bool := bit o.engine die

/-- R171: counts a completed VEC on the dies it names. -/
def State.countVecs (s : State) (o : Op) : State :=
  (s.onlyIf (o.onEngine 0) (fun x => x.countVec 0)).onlyIf (o.onEngine 1) (fun x => x.countVec 1)

/-- R86: ABORTED discards the chain a MATMUL belongs to. -/
def State.dropChain (s : State) (d : MatDesc) : State :=
  if d.chainMember then
    { s with numerics := { s.numerics with chains := s.numerics.chains.filter (fun c => c.accBase != d.accBase) } }
  else s

/-! ### Ending a COLL (R283) -/

/-- R283: ends a COLL with a failure; `notify` sends the abandon notices. -/
def State.failColl (s : State) (o : Op) (r : CollRun) (status : Nat) (detail : Option Word) (notify : Bool) : State :=
  let root := s.rootOf o.ring
  let s1 := if notify then s.abandons r status r.partners else s
  let s2 := s1.closeColl r.d.collId r.g.epoch status r.culpritRank
  let s3 := s2.undefRanges root r.ranges
  let s4 := s3.finishNow o status detail (collRecord o r s3.clock.time)
  (s4.clearOp o.id).countColl

/-- The COLL of an op: in flight, or as it would start (R283). -/
def State.collOf (s : State) (o : Op) : Option CollRun :=
  match s.collRun o.id with
  | some r => some r
  | none => s.collPlan o

/-! ### Aborting ops (R60, R170, R252, R283) -/

def State.abortOp (s : State) (o : Op) : State :=
  let root := s.rootOf o.ring
  if o.kind = opMatmul then
    match s.matRun o.id with
    | some r =>
      let s1 := (s.undefMat root r).dropChain r.d
      (s1.finishNowTelling o 0x60 none (matRecord o r.cutShort s1.clock.time) (fun x st => x.matTells o r st)).clearOp o.id
    | none => (s.finishWith o 0x60 (matEarlyRecord o s.clock.time)).clearOp o.id
  else if o.kind = opVec then
    let record := vecRecord o (s.vecRuns o.id) s.clock.time
    let stop := fun (x : State) (die : Nat) =>
      if ((x.engine die).run).any (fun r => r.op == o.id) then x.undefEngine root die else x
    let s1 := stop (stop s 0) 1
    (s1.finishWith o 0x60 record).countVecs o
  else if o.kind = opColl then
    match s.collOf o with
    | some r => s.failColl o r 0x60 none true
    | none => ((s.finishWith o 0x60 (collEarlyRecord o 0xFFFFFFFF s.clock.time)).clearOp o.id).countColl
  else (s.finishWith o 0x60 (s.recordOf o s.clock.time)).clearOp o.id

def State.abortOps (s : State) : List Op → State
  | [] => s
  | o :: os => (s.abortOp o).abortOps os

/-- Completes every program that has ended and has no op left. -/
def State.settlePrograms (s : State) : List Program → State
  | [] => s
  | p :: ps => (s.settleProgram p.ring).settlePrograms ps

def State.dropAllUnissued (s : State) : List Program → State
  | [] => s
  | p :: ps => (s.dropUnissued p.ring).dropAllUnissued ps

/-- R198: marks every program as ended with ABORTED. -/
def State.abortPrograms (s : State) : State :=
  { s with seq := { s.seq with programs := s.seq.programs.map (fun (p : Program) =>
      { p with stopped := true, next := none, failure := some (0x60, 0, none), proofFailed := false }) } }

/-- Ends commands named by (ring, id). -/
def State.endCmds (s : State) (status : Nat) : List Nat → State
  | [] => s
  | c :: cs => (s.endCmd c status).endCmds status cs

/-- Ends DMA copies with ABORTED. -/
def State.abortDma (s : State) : State :=
  let run := s.host.dma
  let s1 := { s with host := { s.host with dma := [] } }
  let s2 := run.foldl (fun (x : State) (d : DmaRun) => x.stepStatus d.step 0x60) s1
  s2.endCmds 0x60 (run.map (·.cmd))

/-- R344: ends a checkpoint before its sheet is sealed. -/
def State.stopCheckpoint (s : State) (status : Nat) : State :=
  match s.proof.ckpt with
  | none => s
  | some c =>
    let k := 4 * c.target + c.qp
    let q : QP := { s.net.qps.get QP.reset k with inUse := false }
    let s1 : State := { s with proof := { s.proof with ckpt := none }
                               net := { s.net with qps := s.net.qps.set QP.reset k q } }
    let s2 := s1.raise 3 8 c.step 0 c.target (leBytes 1 c.slot ++ leBytes 1 status)
    s2.complete c.ring c.cmd status false 0

/-- R356: an EVACUATE withdraws every request, and ends its op as one that had issued (R60). -/
def State.endRequests (s : State) : State :=
  { s with seq := { s.seq with window := s.seq.window.map (fun (o : Op) =>
      if o.phase = OpPhase.asking then { o with phase := .issued, step := s.openNum, issueTime := s.clock.time } else o) } }

/-- R345 step 1: ops, copies, snapshots and checkpoints end with ABORTED. -/
def State.abortWork (s : State) : State :=
  let s1 := (s.endRequests.abortPrograms).dropAllUnissued s.seq.programs
  let s2 := (s1.abortOps s1.seq.window).settlePrograms s1.seq.programs
  let s3 := s2.abortDma
  let s4 := s3.proof.snapshots.foldl (fun (x : State) (n : Nat × Nat × Word) => x.complete n.1 n.2.1 0x60 false 0)
    { s3 with proof := { s3.proof with snapshots := [] } }
  s4.stopCheckpoint 0x60

/-! ### Verdicts (R322 to R324) -/

/-- The lowest set bit of a positive rank, as a power. -/
def lowBit (r : Nat) : Nat := ((List.range 20).find? (fun k => r % 2 ^ (k + 1) != 0)).getD 0

/-- R323: the parent of a rank, and its children in a group of g. -/
def treeParent (r : Nat) : Nat := r - 2 ^ lowBit r
def treeChildren (g r : Nat) : List Nat :=
  ((List.range 18).filter (fun k => r % 2 ^ (k + 1) == 0 && decide (r + 2 ^ k < g))).map (fun k => r + 2 ^ k)

/-- Members, own rank and children of the group of a step; alone when no definition was active (log 28). -/
def State.verdictRank (s : State) (r : StepRec) : Nat :=
  ((r.group.map (fun g => (g.rankOf s.net.nodeId.toNat).getD 0))).getD 0
def State.verdictChildren (s : State) (r : StepRec) : List Nat :=
  match r.group with
  | none => []
  | some g => treeChildren g.members.length (s.verdictRank r)

/-- R324: the verdict of a closed step waits for a rank: for a child it has not heard, or for the outcome from its parent. -/
def State.verdictWaits (s : State) (r : StepRec) (rank : Nat) : Bool :=
  let own := s.verdictRank r
  r.closed && r.outcome.isNone &&
    (((s.verdictChildren r).contains rank && !r.heard.contains rank) || (own != 0 && rank == treeParent own && r.sentUp))

def State.step_ (s : State) (n : Nat) : Option StepRec := s.proof.steps.find? (fun r => r.num == n)

def State.setStep (s : State) (r : StepRec) : State :=
  { s with proof := { s.proof with steps := s.proof.steps.map (fun x => if x.num = r.num then r else x) } }

/-- R322: sends an outcome for a step to a rank. -/
def State.sendVerdict (s : State) (r : StepRec) (to_ cause lowest : Nat) : State :=
  match r.group with
  | none => s
  | some g =>
    let node := g.node to_
    let h := s.nptHeader node 1 r.epoch (r.num % 2 ^ 32) (s.verdictRank r) 16
    s.nptQueue node 6 h (leBytes 8 r.num ++ leBytes 1 cause ++ zeros 3 ++ leBytes 4 lowest) none

def State.sendVerdicts (s : State) (r : StepRec) (cause lowest : Nat) : List Nat → State
  | [] => s
  | q :: qs => (s.sendVerdict r q cause lowest).sendVerdicts r cause lowest qs

/-- R346: STEP_FAILED. -/
def State.stepFailedEvent (s : State) (n lowest cause source : Nat) : State :=
  s.raise 3 2 n 0 lowest (leBytes 1 cause ++ zeros 7 ++ leBytes 8 source)

/-- STEP_FAILED for the steps that fail because an earlier one did. -/
def State.priorEvents (s : State) (n lowest : Nat) : List Nat → State
  | [] => s
  | k :: ks => (s.stepFailedEvent k lowest 7 n).priorEvents n lowest ks

/-- R325: issued WAITs end with PROOF_FAILED. -/
def State.failWaits (s : State) : List Op → State
  | [] => s
  | o :: os =>
    (if o.kind = opWait && o.phase == .issued then s.finishWith o 0x61 (s.recordOf o s.clock.time) else s).failWaits os

/-- R325: a boundary in progress ends with PROOF_FAILED, unless it is a replay. -/
def State.failBoundary (s : State) : State :=
  match s.proof.boundary with
  | none => s
  | some b =>
    if b.replay then s
    else
      let s1 := { s with proof := { s.proof with boundary := none, waiting := false } }
      match b.by_ with
      | .mark ring cmd => s1.complete ring cmd 0x61 false 0
      | .op id =>
        match s1.op id with
        | some o => s1.finishWith o 0x61 (s1.recordOf o s1.clock.time)
        | none => s1

/-- R325: programs in flight issue nothing more, and complete with PROOF_FAILED unless they had stopped before. -/
def State.failPrograms (s : State) : State :=
  { s with seq := { s.seq with programs := s.seq.programs.map (fun (p : Program) =>
      { p with stopped := true, next := none, proofFailed := p.proofFailed || p.failure.isNone }) } }

/-- R336: the cuts staged for a failed step and later ones are discarded. -/
def State.dropStaged (s : State) (n : Nat) : State :=
  { s with proof := { s.proof with store := { s.proof.store with
      staged := s.proof.store.staged.filter (fun c => c.step < n) } } }

/-- R325: step `n` becomes FAILED, and every later one. -/
def State.failStep (s : State) (n cause lowest : Nat) : State :=
  match s.step_ n with
  | none => s
  | some r =>
    if r.st == .failed then s
    else
      let later := ((s.proof.steps.filter (fun x => n < x.num && x.st != .failed)).map (·.num)).mergeSort (· ≤ ·)
      let s1 := { s with proof := { s.proof with steps := s.proof.steps.map (fun (x : StepRec) =>
          if n ≤ x.num then { x with st := .failed } else x) } }
      let s2 := ((s1.stepFailedEvent n lowest cause n).priorEvents n lowest later).dropStaged n
      let s3 := s2.failPrograms
      let s4 := (s3.failWaits s3.seq.window).failBoundary
      (s4.dropAllUnissued s4.seq.programs).settlePrograms s4.seq.programs

/-- The cause a member reports for a dirty verdict it received: OWN of another member is MEMBER (log 28). -/
def heardCause (c : Nat) : Nat := if c = 1 then 2 else c

/-! ### Proof -/

/-- Frames that go back to the pool (R329). -/
def State.giveFrames (s : State) (fs : List Nat) : State :=
  { s with proof := { s.proof with free := s.proof.free ++ fs } }

/-- R340: a running checkpoint needs a negative: it holds its page as of the checkpoint's step. -/
def State.pinned (s : State) (r : Redir) : Bool :=
  match s.proof.ckpt with
  | none => false
  | some c => s.proof.log.find? (fun x => x.page == r.page && decide (c.step < x.step)) == some r

/-- R329, R340: the negatives of proved steps return to the pool unless a checkpoint pins them. -/
def State.releaseNegatives (s : State) : State :=
  let gone := fun (r : Redir) => decide (r.step ≤ s.proof.stepProved) && !s.pinned r
  { s with proof := { s.proof with log := s.proof.log.filter (fun r => !gone r)
                                   free := s.proof.free ++ (s.proof.log.filter gone).map (·.old) } }

/-- R336: a mirror message to a node: page 2, scale image 3, acknowledgement 4 and request 5 (log 35). -/
def State.sendMirror (s : State) (node msg step region page : Nat) (bytes : List Byte) : State :=
  let payload := leBytes 8 step ++ leBytes 4 region ++ leBytes 4 page ++ bytes
  s.nptQueue node 6 (s.nptHeader node msg s.net.epoch (s.nextId % 2 ^ 24) 0 payload.length) payload none

/-- R336: a store commits the cut of a proved step and tells its source. -/
def State.commitCut (s : State) (n : Nat) : State :=
  let st := s.proof.store
  match st.staged.find? (fun c => c.step == n) with
  | none => s
  | some c =>
    let pages := c.pages.foldl (fun (m : List (Nat × Nat × List Byte)) p =>
      m.filter (fun x => x.1 != p.1 || x.2.1 != p.2.1) ++ [p]) ((st.committed.map (·.pages)).getD [])
    let whole : Cut := { step := n, pages := if c.whole then c.pages else pages, image := c.image, whole := true }
    let s1 := { s with proof := { s.proof with store := { st with
        staged := st.staged.filter (fun x => n < x.step), committed := some whole } } }
    s1.sendMirror st.source 4 n 0 1 []

/-- R323: holds the next step PROVED when its outcome is clean and the one before is proved. -/
def State.proveNext (s : State) : Option State :=
  let n := (s.proof.stepProved + 1) % 2 ^ 64
  match s.step_ n with
  | some r =>
    if r.st == .latent && r.outcome == some 0 then
      let s1 := { s with proof := { s.proof with stepProved := n, provedEpoch := r.epoch
                                                 steps := s.proof.steps.filter (fun x => x.num != n) } }
      some (((s1.raise 3 1 n 0 0 []).commitCut n).releaseNegatives)
    else none
  | none => none

def State.proveAll : Nat → State → State
  | 0, s => s
  | fuel + 1, s => match s.proveNext with
    | some t => State.proveAll fuel t
    | none => s

/-! ### Kept table (R326) -/

/-- One entry of the table. -/
def parseRegion (bs : List Byte) : KeptRegion :=
  { vbase := field bs 0 8, pages := field bs 8 4, id := field bs 12 4, replicated := bit (field bs 16 1) 0
    checkpoint := bit (field bs 16 1) 1, group := field bs 17 1, offset := field bs 24 8 }

def regionBad (bs : List Byte) : Bool :=
  let r := parseRegion bs
  r.vbase % 0x10000 != 0 || decide (2 ^ 48 ≤ r.vbase) || r.pages == 0 || r.id == 0xFFFFFFFF ||
    bits (field bs 16 1) 7 2 != 0 || decide ((if r.replicated then 31 else 0) < r.group) || field bs 18 6 != 0 ||
    r.offset % 0x10000 != 0

def KeptRegion.meets (a b : KeptRegion) : Bool :=
  decide (a.vbase < b.vbase + b.pages * 0x10000) && decide (b.vbase < a.vbase + a.pages * 0x10000)

def regionsClash : List KeptRegion → Bool
  | [] => false
  | r :: rs => rs.any (fun x => r.meets x || r.id == x.id) || regionsClash rs

/-- Cuts bytes into records. -/
def records (n : Nat) : Nat → List Byte → List (List Byte)
  | 0, _ => []
  | k + 1, bs => bs.take n :: records n k (bs.drop n)

/-- R326: reads the kept table; the status and detail of a refusal. -/
def State.readKept (s : State) : State × Except (Nat × Nat) KeptTable :=
  let base := s.proof.keptBase.toNat
  let bad := fun (e : MemErr) => (e.status, e.detail)
  if base % 64 ≠ 0 then (s, .error (0x21, base))
  else
    match s.readPhys allowHbm base 64 with
    | (s1, .error e) => (s1, .error (bad e))
    | (s1, .ok h) =>
      let n := field h 0 4
      if n = 0 ∨ 4096 < n ∨ field h 4 4 ≠ 0 ∨ field h 8 8 % 0x10000 ≠ 0 ∨ field h 16 48 ≠ 0 then (s1, .error (0x20, 0))
      else
        match s1.readPhys allowHbm base (64 + 32 * n) with
        | (s2, .error e) => (s2, .error (bad e))
        | (s2, .ok bs) =>
          let es := records 32 n (bs.drop 64)
          let rs := es.map parseRegion
          if es.any regionBad || regionsClash rs then (s2, .error (0x20, 0))
          else (s2, .ok { sheet := field h 8 8, regions := rs })

/-! ### Mirrors (R336) -/

/-- Region that holds a virtual page number. -/
def State.regionOf (s : State) (page : Nat) : Option KeptRegion :=
  match s.proof.kept with
  | none => none
  | some k => k.regions.find? (fun r => r.vbase / 0x10000 ≤ page && page < r.vbase / 0x10000 + r.pages)

/-- Pages of unique regions. -/
def State.uniquePages (s : State) : List Nat :=
  s.keptPages.filter (fun p => (s.regionOf p).any (fun r => !r.replicated))

/-- Unique kept pages of the cut of step n: those written in it, or all for a whole cut. -/
def State.cutPages (s : State) (n : Nat) : List Nat :=
  if !s.proof.partnerWhole then s.uniquePages
  else s.uniquePages.filter (fun p => s.proof.log.any (fun r => r.step == n && r.page == p))

/-- Sends one page of a cut. A page with a block that cannot be read makes the verdict dirty and is not sent (R307, R322). -/
def State.sendCutPage (s : State) (node n : Nat) (page : Nat) : State :=
  match s.regionOf page, s.frameOf page with
  | some r, some f =>
    let s1 := s.meet (blocksOf f.2 0x10000)
    if (s1.poisoned f.2 0x10000).isSome then s1.dirtyStep n 1
    else s1.sendMirror node 2 n r.id (page - r.vbase / 0x10000) (s1.mem.ram.read f.2 0x10000)
  | _, _ => s

def State.sendCutPages (s : State) (node n : Nat) : List Nat → State
  | [] => s
  | p :: ps => (s.sendCutPage node n p).sendCutPages node n ps

/-- R336: sends the cut of step n to the partner. -/
def State.sendCut (s : State) (n : Nat) : State :=
  match s.proof.partner with
  | none => s
  | some node =>
    let s1 := (s.sendCutPages node n (s.cutPages n)).sendMirror node 3 n 0 0 (bookImage s.numerics.book)
    { s1 with proof := { s1.proof with partnerWhole := true } }

/-! ### Spares (R338) -/

/-- Byte i of a spare map. -/
def spareByte (m : Word) (i : Nat) : Nat := bits m.toNat (8 * i + 7) (8 * i)

def setSpare (m : Word) (i v : Nat) : Word := BitVec.ofNat 64 (leNat (patch (leBytes 8 m.toNat) i (leBytes 1 v)))

/-- The first spare above every one in use. -/
def freeSpare (m : Word) : Option Nat :=
  let used := (List.range 8).filter (fun i => spareByte m i != 0xFF)
  let i := largest (used.map (· + 1))
  if i < 8 then some i else none

/-- Logical column of a die that physical column c (within the die) carries under a map. -/
def logicalColumn (m : Word) (c : Nat) : Nat := if c < 192 then c else spareByte m (c - 192)

/-- Physical cell column of logical cell column l (0 to 383) under the maps (R32, R61). -/
def State.physicalColumn (s : State) (l : Nat) : Nat :=
  let die := l / 192
  let m := if die = 0 then s.plate.spares0 else s.plate.spares1
  match (List.range 8).find? (fun i => spareByte m i == l % 192) with
  | some i => 200 * die + 192 + i
  | none => 200 * die + l % 192

/-- Switches one scheduled column to a spare of its die. -/
def State.switchColumn (s : State) (c : Nat) : State :=
  let die := c / 200
  let m := if die = 0 then s.plate.spares0 else s.plate.spares1
  let l := logicalColumn m (c % 200)
  match freeSpare m with
  | none => s
  | some i =>
    let m0 := if 192 ≤ c % 200 then setSpare m (c % 200 - 192) 0xFF else m
    let m1 := setSpare m0 i l
    let s1 := if die = 0 then { s with plate := { s.plate with spares0 := m1 } }
      else { s with plate := { s.plate with spares1 := m1 } }
    s1.raise 3 9 s1.currentStep 0 die (leBytes 8 s1.plate.spares0.toNat ++ leBytes 8 s1.plate.spares1.toNat)

def State.switchColumns (s : State) : List Nat → State
  | [] => s
  | c :: cs => (s.switchColumn c).switchColumns cs

/-- One SPARE_SWITCHED per vector lane or control core switched. -/
def State.spareEvents (s : State) : List Nat → State
  | [] => s
  | d :: ds =>
    (s.raise 3 9 s.currentStep 0 d (leBytes 8 s.plate.spares0.toNat ++ leBytes 8 s.plate.spares1.toNat)).spareEvents ds

/-- R338: makes every scheduled switch. -/
def State.switchSpares (s : State) : State :=
  let s1 := s.switchColumns s.plate.scheduled
  let lanes := s1.plate.lanesScheduled
  let cores := s1.plate.coresScheduled
  let s2 := { s1 with plate := { s1.plate with
      scheduled := [], lanesScheduled := [], coresScheduled := [], laneSpares := s1.plate.laneSpares ++ lanes
      coreRetired := match cores with | [] => s1.plate.coreRetired | c :: _ => some c } }
  s2.spareEvents (lanes.map (· / 2048) ++ cores.map (fun _ => 2))

/-- R338: switches wait for a boundary while a step is open. -/
def State.switchIfIdle (s : State) : State := if s.proof.steps.isEmpty then s.switchSpares else s

/-! ### Reports of a boundary (R166, R181) -/

/-- The nine counters of a die in the order of R179. -/
def DieCount.list (c : DieCount) : List Nat :=
  [c.stream, c.empty, c.dependency, c.memory, c.peer, c.host, c.frank, c.thermal, c.proof]

def DieCount.since (c b : DieCount) : List Nat := List.zipWith (· - ·) c.list b.list

/-- R221: least shift under which every value fits 16 bits. -/
def idleShift (vs : List Nat) : Nat := bitLength (largest vs) - 16

/-- R181: the IDLE_REPORT of the step that closed. -/
def State.idleReport (s : State) (n : Nat) : State :=
  let vs := s.clock.die0.since s.proof.idle0 ++ s.clock.die1.since s.proof.idle1
  let sh := idleShift vs
  let bs := vs.flatMap (fun v => leBytes 2 (v / 2 ^ sh))
  let s1 := { s with proof := { s.proof with idle0 := s.clock.die0, idle1 := s.clock.die1 } }
  s1.raise 4 0 n sh (field bs 0 4) (bs.drop 4)

/-- Statistics of a group: LOCAL_SQ, LOCAL_UNITS, REDUCED_SQ, REDUCED_UNITS (R166). -/
def State.gstatOf (s : State) (g : Nat) : BitVec 24 × Nat × BitVec 24 × Nat :=
  let a := s.vec.e0.gstat.get (0, 0) g
  let b := s.vec.e1.gstat.get (0, 0) g
  let r := s.vec.reduced.get (0, 0) g
  (fold a.1 b.1, a.2 + b.2, r.1, r.2)

/-- R221: detail of GRADIENT_STATS. -/
def gstatBytes (x : BitVec 24 × Nat × BitVec 24 × Nat) : List Byte :=
  leBytes 4 x.1.toNat ++ leBytes 4 x.2.2.1.toNat ++ leBytes 8 x.2.1 ++ leBytes 8 x.2.2.2 ++ zeros 8

/-- R166: reports every group with units. -/
def State.gstatReports (s : State) (n : Nat) : List Nat → State
  | [] => s
  | g :: gs =>
    let x := s.gstatOf g
    (if x.2.1 = 0 ∧ x.2.2.2 = 0 then s else s.raise 5 0 n 0 g (gstatBytes x)).gstatReports n gs

/-- R333: the statistics groups cleared. -/
def State.clearGstat (s : State) : State :=
  { s with vec := { s.vec with e0 := { s.vec.e0 with gstat := [] }, e1 := { s.vec.e1 with gstat := [] }, reduced := [] } }

/-- R166: reports and clears the groups with units; a group without units keeps its sums. -/
def State.gstatReport (s : State) (n : Nat) : State :=
  let s1 := s.gstatReports n (List.range 256)
  let keep := fun (m : SMap (BitVec 24 × Nat)) =>
    m.filter (fun p => let x := s.gstatOf p.1; x.2.1 == 0 && x.2.2.2 == 0)
  { s1 with vec := { s1.vec with e0 := { s1.vec.e0 with gstat := keep s1.vec.e0.gstat }
                                 e1 := { s1.vec.e1 with gstat := keep s1.vec.e1.gstat }
                                 reduced := keep s1.vec.reduced } }

/-! ### Layout epochs (R284) -/

/-- Definitions of every group number after the epoch becomes `e`. -/
def State.promote (s : State) (e : Nat) : State :=
  let nums := List.range 32
  let act := nums.foldl (fun (m : SMap (Option GroupDef)) g =>
    match s.net.pendingGroups.get none g with
    | some d => if d.epoch = e then m.set none g (some d) else m
    | none => m) []
  let pend := nums.foldl (fun (m : SMap (Option GroupDef)) g =>
    match s.net.pendingGroups.get none g with
    | some d => if e < d.epoch then m.set none g (some d) else m
    | none => m) []
  { s with net := { s.net with active := act, pendingGroups := pend, epoch := e
                               early := s.net.early.filter (fun c => e ≤ c.h.epoch.toNat) } }

/-- R284: COLLs of the old epoch that have not started complete with ABORTED. -/
def State.reshard (s : State) (e : Nat) : State :=
  if s.net.epoch < e then
    let old := s.seq.window.filter (fun o => o.kind == opColl && (s.collRun o.id).isNone)
    let s1 := (s.abortOps old).promote e
    s1.raise 7 4 s1.currentStep 0 0 (leBytes 4 s.net.epoch ++ leBytes 4 e ++ leBytes 4 old.length)
  else s

/-! ### Opening steps (R319, R320, R329) -/

/-- Opens step `n` with an image of the scale book, which takes pool frames: what the free ones hold is undefined. -/
def State.openAs (s : State) (n : Nat) (st : StepState) : State :=
  let r : StepRec :=
    { num := n, st := st, epoch := s.net.epoch, cause := 0, closed := false, heard := [], combined := 0
      lowest := 0xFFFFFFFF, sentUp := false, outcome := none, mirrorTo := none, mirrorAcked := false, group := none
      book := s.numerics.book }
  let s1 := { s with proof := { s.proof with steps := s.proof.steps ++ [r], stepNow := n, lowTold := false } }
  let s2 := s1.proof.free.foldl (fun (x : State) f => x.undefAt f 0x10000) s1
  if s2.proof.poolPages = 0 then s2 else s2.poolCheck

/-- Completes what made a boundary, with a status (R320, R321). -/
def State.endBoundary (s : State) (status detail : Nat) : Option State :=
  match s.proof.boundary with
  | none => some s
  | some b =>
    let s1 := { s with proof := { s.proof with boundary := none, waiting := false } }
    match b.by_ with
    | .mark ring cmd => some (s1.complete ring cmd status false detail)
    | .op id =>
      match s1.op id with
      | some o => s1.finishOp o status none (fun st => shortRecord st 0 o.tag s1.proof.stepNow s1.clock.time)
      | none => some s1

/-- R325: opens the next step of a boundary whose step has closed, once the latent steps have fallen to D. -/
def State.tryOpen (s : State) : State :=
  match s.proof.boundary with
  | none => s
  | some b =>
    if !s.proof.waiting || s.stepFailed then s
    else if decide (s.proof.depthLatched < (s.proof.steps.filter (fun r => r.st == .latent)).length) then s
    else
      let s0 := match b.table with
        | some k => { s with proof := { s.proof with kept := some k } }
        | none => s
      let s1 := s0.reshard b.epoch
      let s2 := s1.openAs b.step .isOpen
      (s2.endBoundary 0 0).getD s

/-- Proves what can be proved, and opens a step that waited for it. -/
def State.settleProof (s : State) : State :=
  (s.proveAll (s.proof.steps.length)).tryOpen

/-- R323: applies the outcome of a step. -/
def State.applyOutcome (s : State) (n cause lowest : Nat) : State :=
  match s.step_ n with
  | none => s
  | some r =>
    if r.outcome.isSome then s
    else
      let s1 := s.setStep { r with outcome := some cause }
      if cause = 0 then s1.settleProof else s1.failStep n (heardCause cause) lowest

/-- R322: a closed step's own verdict is formed: dirty, or with no cut outstanding. -/
def StepRec.ownFormed (r : StepRec) : Bool := r.closed && (r.cause != 0 || r.mirrorTo.isNone || r.mirrorAcked)

/-- R323: a step whose combined verdict is known: its own verdict is formed, or a child's failed it while it was open, so that it
never closes. -/
def StepRec.judged (r : StepRec) : Bool := r.ownFormed || (r.st == .failed && !r.closed && r.combined != 0)

/-- R323: sends the combined verdict of a step once the own one is formed and every child was heard. -/
def State.advance (s : State) (n : Nat) : State :=
  match s.step_ n with
  | none => s
  | some r =>
    let kids := s.verdictChildren r
    if r.judged && !r.sentUp && kids.all r.heard.contains then
      let rank := s.verdictRank r
      let cause := if r.cause != 0 then r.cause else r.combined
      let low := if r.cause != 0 then min rank r.lowest else r.lowest
      let s1 := s.setStep { r with sentUp := true }
      if rank = 0 then (s1.sendVerdicts r cause low kids).applyOutcome n cause low
      else s1.sendVerdict r (treeParent rank) cause low
    else s

/-- R319: closes the open step: reports, the cut, the verdict. -/
def State.closeStep (s : State) (c : StepRec) : State :=
  let s1 := (s.idleReport c.num).gstatReport c.num
  let d := { s1.proof with depthLatched := s1.proof.depth }
  let s2 := { s1 with proof := d }
  let r1 : StepRec := { c with closed := true, group := s2.groupActive s2.proof.group, mirrorTo := s2.proof.partner
                               st := if c.st == .failed then .failed else .latent }
  let s3 := (s2.setStep r1).sendCut c.num
  let cause := ((s3.step_ c.num).map (·.cause)).getD r1.cause
  let s4 := if cause != 0 && r1.st != .failed then s3.failStep c.num cause (s3.verdictRank r1) else s3
  s4.advance c.num

/-! ### Evacuation (R345) -/

/-- R345 step 2: a dirty verdict for a step, cause EVACUATED. -/
def State.evacVerdict (s : State) (r0 : StepRec) : State :=
  let r : StepRec := if r0.closed then r0 else { r0 with group := s.groupActive s.proof.group }
  let rank := s.verdictRank r
  if rank = 0 then s.sendVerdicts r 5 rank (s.verdictChildren r) else s.sendVerdict r (treeParent rank) 5 rank

def State.evacVerdicts (s : State) : List StepRec → State
  | [] => s
  | r :: rs => (if r.st == .failed then s else s.evacVerdict r).evacVerdicts rs

/-- R345 step 1: a STEP_MARK whose boundary has not acted, and a restore in flight. -/
def State.abortProof (s : State) : State :=
  let s0 : State := { s with proof := { s.proof with boundary := none, repair := none } }
  let s1 : State := match s.proof.boundary with
    | some b => (match b.by_ with
      | .mark ring cmd => s0.complete ring cmd 0x60 false 0
      | .op _ => s0)
    | none => s0
  match s1.proof.restore with
  | some x =>
    let s2 := { s1 with proof := { s1.proof with restore := none } }
    let s3 := s2.uniquePages.foldl (fun (y : State) p => match y.frameOf p with
      | some f => y.undefAt f.2 0x10000
      | none => y) s2
    s3.complete x.2.1 x.2.2 0x60 false 0
  | none => s1

/-- R345 steps 1 to 3. -/
def State.evacuateNow (s : State) : State :=
  let s1 := s.abortWork.abortProof
  let s2 := s1.evacVerdicts s1.proof.steps
  let back := s2.proof.log.map (·.old)
  ({ s2 with
      numerics := { s2.numerics with chains := [] }
      net := { s2.net with early := [] }
      proof := { s2.proof with steps := [], log := [], free := s2.proof.free ++ back, kept := none, partner := none
                               partnerWhole := false, boundary := none, waiting := false } }).switchIfIdle

/-! ### Entries an op names -/

/-- Scale book entries an op names: operands and output of a MATMUL, slots of a VEC, input and output of a COLL. -/
def Op.entries (o : Op) : List Nat :=
  let lo := fun off => entryIndex (BitVec.ofNat 32 (o.w off))
  let hi := fun off => entryIndex (BitVec.ofNat 32 (o.w off / 2 ^ 32))
  if o.kind = opMatmul then [lo 0x68, hi 0x68, lo 0x70]
  else if o.kind = opVec then
    let t := [lo 0x28, hi 0x28, lo 0x30, hi 0x30]
    (List.range 4).filterMap (fun i => if bit (o.w 0) (13 + i) then t[i]? else none)
  else if o.kind = opColl then
    (if bit (o.w 0) 14 then [lo 0x60] else []) ++ (if bit (o.w 0) 15 then [hi 0x60] else [])
  else []

/-- An op in flight names an entry from `first` on, of `n`. -/
def State.namesEntry (s : State) (first n : Nat) : Bool :=
  s.seq.window.any (fun o => o.phase != .taken && o.entries.any (fun e => decide (first ≤ e) && decide (e < first + n)))

end Sys2Proof.Machine
end

