-- ==== Sys2Proof/Machine/Tick.lean ====
section
/-! DEFINITION. One nanosecond of the clocks (R15, R18, R178, R363): what the module does on an empty queue (log 2).
MODULE_TIME counts one CCLK cycle, and the eight root periods of it are spent on ACLK cycles of two or three periods,
each counted once per die. -/

namespace Sys2Proof.Machine

/-- The run has columns on a die (R40, R43). -/
def MatRun.onDie (r : MatRun) (die : Nat) : Bool := decide (0 < halfCols r.ws.1 r.ws.2 r.d.n die)

/-- The plate ramps for a run (R357). -/
def State.ramps (s : State) (r : MatRun) : Bool := r.ramping && decide (s.clock.aclk < r.rowsFrom)

/-- A MATMUL streams a row on the die. -/
def State.streamsOn (s : State) (die : Nat) : Bool := s.plate.running.any (fun r => r.onDie die && s.rowsStream r)

/-- An op of a kind is in the ready window. -/
def State.inWindow (s : State) (p : Op → Bool) : Bool := s.seq.window.any p

/-- R252: a MOVE with a side on a tray peer. -/
def Op.trayMove (o : Op) : Bool := o.kind == opMove && (bits (o.w 0x10) 50 48 != 7 || bits (o.w 0x18) 50 48 != 7)

/-- The causes of R178 in order of priority, for a die that does not stream. -/
def State.heatHolds (s : State) : Bool := s.power.requests.any (fun f => f.isPlate && f.denied && f.thermalOnly)
def State.frankHolds (s : State) (die : Nat) : Bool :=
  s.plate.running.any (fun r => r.onDie die && s.asksFrank r.op) || s.plate.running.any s.ramps
/-- R325: a boundary that has closed its step waits for the proof window. -/
def State.proofHolds (s : State) : Bool := s.proof.boundary.isSome && s.proof.waiting
def State.memoryHolds (s : State) (die : Nat) : Bool :=
  s.plate.running.any (fun r => r.onDie die && s.holdsFrank r.op)
def State.dependencyHolds (s : State) : Bool :=
  s.inWindow (fun o => o.kind == opVec || o.kind == opBranch || (o.kind == opMove && !o.trayMove))
def State.peerHolds (s : State) : Bool :=
  s.inWindow (fun o => o.kind == opColl || o.trayMove) ||
  (!s.seq.window.isEmpty && s.seq.window.all (fun o => o.kind == opWait))
def State.hostHolds (s : State) : Bool :=
  s.seq.window.isEmpty &&
  (s.host.rings.any (fun p => s.mayFetch p.2) ||
    s.seq.programs.any (fun p => p.next.isSome) || !s.host.dma.isEmpty)

/-- R178: counts one ACLK cycle of a die in exactly one counter. -/
def State.countCycle (s : State) (die : Nat) (c : DieCount) : DieCount :=
  if s.streamsOn die then { c with stream := c.stream + 1 }
  else if s.heatHolds then { c with thermal := c.thermal + 1 }
  else if s.frankHolds die then { c with frank := c.frank + 1 }
  else if s.proofHolds then { c with proof := c.proof + 1 }
  else if s.memoryHolds die then { c with memory := c.memory + 1 }
  else if s.dependencyHolds then { c with dependency := c.dependency + 1 }
  else if s.peerHolds then { c with peer := c.peer + 1 }
  else if s.hostHolds then { c with host := c.host + 1 }
  else { c with empty := c.empty + 1 }

/-- R363: whether the cycle at a place of a pattern of 16 is one of the s stretched ones, spread evenly. -/
def stretchedAt (st pos : Nat) : Bool := decide ((pos + 1) * st / 16 ≠ pos * st / 16)

/-- One ACLK cycle of `periods` root periods. -/
def State.aclkCycle (s : State) (periods : Nat) (stretched : Bool) (left : Nat) : State :=
  { s with clock := { s.clock with
      aclk := s.clock.aclk + 1
      die0 := s.countCycle 0 s.clock.die0
      die1 := s.countCycle 1 s.clock.die1
      rootLeft := left - periods
      stretchPos := (s.clock.stretchPos + 1) % 16
      stretched := s.clock.stretched + bitOf stretched } }

/-- Spends the root periods at hand on whole ACLK cycles. -/
def State.aclkCycles : Nat → State → State
  | 0, s => s
  | fuel + 1, s =>
    let st := stretchedAt s.stretchNow s.clock.stretchPos
    let p := if st then 3 else 2
    if s.clock.rootLeft < p then s else (s.aclkCycle p st s.clock.rootLeft).aclkCycles fuel

/-- The root PLL is locked and no clock has been stopped (R17, R18). -/
def State.clocksRun (s : State) : Bool :=
  s.life.rootLocked && (match s.life.phase with
    | .off => false
    | .inReset => false
    | .stopped _ => false
    | _ => true)

/-- One CCLK cycle. -/
def State.tick (s : State) : State :=
  if s.clocksRun then
    let s1 : State := { s with clock := { s.clock with time := (s.clock.time + 1) % 2 ^ 64 } }
    if s1.isReady then
      State.aclkCycles 5 { s1 with clock := { s1.clock with rootLeft := s1.clock.rootLeft + 8 } }
    else s1
  else s

end Sys2Proof.Machine
end

