-- ==== Sys2Proof/Machine/Images.lean ====
section
/-! DEFINITION. Firmware images and their acceptance (R373 to R377), and the choice of images at a start (R376). -/

namespace Sys2Proof.Machine

/-- Bytes of a slot of KIND 1 (Gyton) or 2 (Rolrohan). -/
def slotBytes (kind : Nat) : Nat := if kind = 1 then 0x40000 else 0x1000000

def State.bank (s : State) (kind : Nat) : ImageBank := if kind = 1 then s.fw.gyton else s.fw.rolrohan

def State.setBank (s : State) (kind : Nat) (b : ImageBank) : State :=
  if kind = 1 then { s with fw := { s.fw with gyton := b } } else { s with fw := { s.fw with rolrohan := b } }

def ImageBank.slot (b : ImageBank) (i : Nat) : Slot := if i = 0 then b.a else b.b

def ImageBank.setSlot (b : ImageBank) (i : Nat) (x : Slot) : ImageBank :=
  if i = 0 then { b with a := x } else { b with b := x }

/-- R375: the image of a slot, or the mailbox result that refuses it (0x04, or 0x05 for its version). -/
def checkImage (kind fuseCount : Nat) (x : Slot) : Except Nat ImageInfo :=
  match x.factory with
  | some i => if i.secVersion < fuseCount then .error 5 else .ok i
  | none =>
    let h := x.bytes.read 0 256
    let body := field h 0x0C 4
    let cert := field h 0x10 4
    let sv := field h 5 1
    let wrong := field h 0 4 != 0x57464B4E || field h 4 1 != kind || decide (64 < sv) || field h 6 2 != 0 ||
      field h 0x14 4 != 0x3220 || field h 0x18 40 != 0 || field h 0x80 128 != 0 || decide (4096 < cert) ||
      decide (slotBytes kind < 768 + cert + body)
    if wrong then .error 4
    else
      let sig := x.bytes.read 256 512
      let c := x.bytes.read 768 cert
      let digest := Config.sha512 (x.bytes.read (768 + cert) body)
      if !Config.imageSigned h sig c || beNat ((h.drop 0x40).take 64) != digest.toNat then .error 4
      else if sv < fuseCount then .error 5
      else .ok { version := BitVec.ofNat 32 (field h 8 4), secVersion := sv, digest := digest }

/-- R376, R396: IMAGE_REJECTED. -/
def State.rejected (s : State) (kind slot result : Nat) : State :=
  s.raise 9 2 s.currentStep 0 kind (leBytes 1 slot ++ leBytes 1 result)

/-- What a choice of images came to: a running image, a reset by Gyton because a pending slot was refused, or none. -/
inductive Choice where
  | running
  | again
  | nothing
  deriving DecidableEq, Repr

/-- R376: chooses the image of a kind when its boot record holds no pending slot: the active slot, or the other if that is
refused. -/
def State.chooseActive (s : State) (kind : Nat) : State × Choice :=
  let b := s.bank kind
  let run := fun (x : State) (i : ImageInfo) => x.setBank kind { b with running := some i }
  match checkImage kind s.fuses.fuseCount (b.slot b.active) with
  | .ok i => (run s i, .running)
  | .error e =>
    let s1 := s.rejected kind b.active e
    let o := 1 - b.active
    match checkImage kind s.fuses.fuseCount (b.slot o) with
    | .ok i => let s2 := run s1 i; ({ s2 with fw := { s2.fw with fellBack := true } }, .running)
    | .error e2 => ((s1.rejected kind o e2).setBank kind { b with running := none }, .nothing)

/-- R376: the boot record of a kind loses its pending slot, and the module falls back. -/
def State.dropPending (s : State) (kind : Nat) : State :=
  let s1 := s.setBank kind { s.bank kind with pending := none, tried := false }
  { s1 with fw := { s1.fw with fellBack := true } }

/-- R376: chooses the image of a kind. A refused pending slot is cleared and Gyton resets the module; one whose try ended
in a reset before READY is cleared and the active slot is tried. -/
def State.chooseImage (s : State) (kind : Nat) : State × Choice :=
  let b := s.bank kind
  match b.pending with
  | some p =>
    if b.tried then (s.dropPending kind).chooseActive kind
    else
      match checkImage kind s.fuses.fuseCount (b.slot p) with
      | .ok i => (s.setBank kind { b with tried := true, running := some i }, .running)
      | .error e => ((s.dropPending kind).rejected kind p e, .again)
  | none => s.chooseActive kind

/-- R376: a pending slot that reached READY becomes the active slot. -/
def ImageBank.adopt (b : ImageBank) : ImageBank :=
  match b.pending with
  | some p => { b with active := p, pending := none, tried := false }
  | none => b

/-! ### Resets (R401) -/

/-- What power-off and a module reset keep: fuses, flash (slots, boot record, Gyton's store of spares and rows to
repair), the queue and the outbox of the model. -/
def State.cleared (s : State) : State :=
  { State.reset with
      pending := s.pending, outbox := s.outbox, freeGen := s.freeGen, nextId := s.nextId, fuses := s.fuses
      fw := { Firmware.reset with
        gyton := { s.fw.gyton with running := none }, rolrohan := { s.fw.rolrohan with running := none }
        bootGen := s.fw.bootGen, repairs := s.fw.repairs }
      plate := { Plate.reset with
        spares0 := s.plate.spares0, spares1 := s.plate.spares1, scheduled := s.plate.scheduled
        lanesScheduled := s.plate.lanesScheduled, laneSpares := s.plate.laneSpares
        coresScheduled := s.plate.coresScheduled, coreRetired := s.plate.coreRetired } }

/-- The same for a module reset, which keeps START_TESTS and holds MOD_PWRGD released. -/
def State.moduleCleared (s : State) (cause : BitVec 2) : State :=
  let s1 := s.cleared
  { s1 with life := { s1.life with extended := s.life.extended, pwrgd := true, resetCause := cause } }

/-- Samples the straps (R399). -/
def State.strap (s : State) (tray : BitVec 2) (slot : BitVec 4) : State :=
  { s with life := { s.life with tray := tray, slot := slot } }

/-- R376: the ROM or Gyton holds the module in recovery with ALERT# asserted. -/
def State.recover (s : State) : State := { s with life := { s.life with phase := .recovery, alertHw := true } }

/-- Step 2 of R402: the boot ROM chooses a Gyton image and starts it; step 3 is then in progress. -/
def State.bootGyton : Nat → State → State
  | 0, s => { s with life := { s.life with stage := 1 } }.recover
  | fuel + 1, s =>
    match s.chooseImage 1 with
    | (s1, .running) => { s1 with life := { s1.life with phase := .starting, stage := 2 } }
    | (s1, .again) =>
      let f := s1.fw.fellBack
      let s2 := (s1.moduleCleared 3).strap s1.life.tray s1.life.slot
      State.bootGyton fuel { s2 with fw := { s2.fw with fellBack := f } }
    | (s1, .nothing) => { s1 with life := { s1.life with stage := 1 } }.recover

/-- A reset that Gyton causes (R376), falling back. -/
def State.gytonReset (s : State) : State :=
  let s1 := (s.moduleCleared 3).strap s.life.tray s.life.slot
  State.bootGyton 2 { s1 with fw := { s1.fw with fellBack := true } }

end Sys2Proof.Machine
end

