-- ==== Sys2Proof/Machine/Qp.lean ====
section
/-! DEFINITION. RoCEv2 targets and queue pairs (R258 to R261). -/

namespace Sys2Proof.Machine

/-! ### The target table (R259) -/

def parseTarget (bs : List Byte) : Target :=
  { addr := BitVec.ofNat 128 (field bs 0 16), rkey := BitVec.ofNat 32 (field bs 20 4)
    qpn := field bs 16 3, base := field bs 24 8, limit := field bs 32 8
    ports := (List.range 32).filter (fun i => bit (field bs 40 4) i) }

def targetBad (bs : List Byte) : Bool :=
  let t := parseTarget bs
  field bs 19 1 != 0 || field bs 44 20 != 0 || decide (4 < t.ports.length) || t.ports.any (fun p => decide (23 < p))

/-- Entry of target t: none when it cannot be read or is malformed. -/
def State.readTarget (s : State) (t : Nat) : State × Option Target :=
  let base := s.net.rdmaTargets.toNat
  if base % 64 ≠ 0 then (s, none)
  else
    match s.readPhys allowHbm (base + 64 * t) 64 with
    | (s1, .error _) => (s1, none)
    | (s1, .ok bs) => (s1, if targetBad bs then none else some (parseTarget bs))

/-! ### Contexts (R260, R261) -/

def qpKey (t j : Nat) : Nat := 4 * t + j

def State.qp (s : State) (k : Nat) : QP := s.net.qps.get QP.reset k

def State.setQp (s : State) (k : Nat) (q : QP) : State :=
  { s with net := { s.net with qps := s.net.qps.set QP.reset k q } }

def State.contextAddr (s : State) (k : Nat) : Nat := s.net.qpBaseReg.toNat + 64 * k

/-- R260: a context that breaks a range. -/
def contextBad (bs : List Byte) : Bool :=
  let ack := field bs 12 1
  field bs 7 1 != 0 || field bs 11 1 != 0 || decide (ack < 1) || decide (31 < ack) || decide (7 < field bs 13 1) ||
    field bs 14 1 % 4 != 0 || field bs 15 1 == 0 || bits (field bs 16 4) 31 20 != 0 || field bs 22 2 != 0 ||
    field bs 28 36 != 0

/-- R260: what the run-time writes in a context. -/
def parseContext (bs : List Byte) : QpContext :=
  { nextHop := BitVec.ofNat 48 (field bs 0 6), ackTimeout := field bs 12 1, rnrRetry := field bs 13 1
    trafficClass := BitVec.ofNat 8 (field bs 14 1), hopLimit := BitVec.ofNat 8 (field bs 15 1)
    flowLabel := BitVec.ofNat 20 (field bs 16 4), pkey := BitVec.ofNat 16 (field bs 20 2) }

/-- Writes STATE of a context. -/
def State.writeQpState (s : State) (k st : Nat) : State :=
  (s.writePhys allowHbm (s.contextAddr k + 6) (leBytes 1 st)).1

/-- PSN of the first packet of a write of which the last one's is given. -/
def firstPsn (last n : Nat) : Nat := (last + 2 ^ 24 + 1 - packetCount n) % 2 ^ 24

/-- Writes LAST_PSN of a context: the oldest unacknowledged PSN. -/
def State.writeLastPsn (s : State) (k : Nat) : State :=
  let q := s.qp k
  let psn := (q.unacked.map (fun (u : Nat × Nat × List Byte) => firstPsn u.1 u.2.2.length)).headD q.psn
  (s.writePhys allowHbm (s.contextAddr k + 24) (leBytes 3 psn ++ leBytes 1 0)).1

/-- Takes a queue pair to RESET. -/
def State.resetQp (s : State) (k : Nat) : State :=
  ((s.writeLastPsn k).writeQpState k 0).setQp k QP.reset

/-- R261: every queue pair to RESET. -/
def State.resetQps (s : State) : State :=
  (s.net.qps.map (·.1)).foldl (fun (x : State) k => x.resetQp k) s

def State.qpResult (s : State) (r : Nat) : State := { s with net := { s.net with qpResult := r } }

/-- RDMA_QP_CONTROL LOAD. A queue pair that is not in RESET stays as it is (log 34). -/
def qpLoad (t : BitVec 8) (j : BitVec 2) (s : State) : State :=
  let k := qpKey t.toNat j.toNat
  match s.readTarget t.toNat with
  | (s1, none) => s1.qpResult 3
  | (s1, some g) =>
    match s1.readPhys allowHbm (s1.contextAddr k) 64 with
    | (s2, .error _) => s2.qpResult 1
    | (s2, .ok bs) =>
      if contextBad bs || s2.net.qpBaseReg.toNat % 65536 != 0 || decide (g.ports.length ≤ j.toNat) then s2.qpResult 1
      else if (s2.qp k).inUse then s2.qpResult 2
      else if (s2.qp k).state = 0 then
        ((s2.setQp k { QP.reset with state := 1, psn := field bs 8 3, ctx := parseContext bs, remote := g }).writeQpState k 1).qpResult 0
      else s2.qpResult 0

/-- RDMA_QP_CONTROL RESET. -/
def qpReset (t : BitVec 8) (j : BitVec 2) (s : State) : State :=
  let k := qpKey t.toNat j.toNat
  if (s.qp k).inUse then s.qpResult 2 else (s.resetQp k).qpResult 0

def execQpLoad (t : BitVec 8) (j : BitVec 2) (s : State) : Out := whenReady s (qpLoad t j)
def execQpReset (t : BitVec 8) (j : BitVec 2) (s : State) : Out := whenReady s (qpReset t j)

end Sys2Proof.Machine
end

