-- ==== Sys2Proof/Machine/Start.lean ====
section
/-! DEFINITION. Start-up, resets, the PCIe function's power and link states, and the stops of the whole module (R11, R17,
R183, R184, R308, R310, R360, R376, R389, R397 to R405, R409, R413). -/

namespace Sys2Proof.Machine

/-! ### Supplies and start-up -/

/-- POWER_ON (R397 to R402 steps 1 and 2). -/
def powerOn (tray : BitVec 2) (slot : BitVec 4) (s : State) : State :=
  if s.life.phase = .off then
    let s1 := s.cleared.strap tray slot
    State.bootGyton 2 { s1 with life := { s1.life with pwrgd := true } }
  else s

/-- R403: start-up holds, with its cause reported. -/
def State.holdStart (s : State) (stage code unit : Nat) (subject : Nat) : State :=
  let s1 := { s with life := { s.life with
      phase := .held, stage := stage, startFailed := true, startFault := BitVec.ofNat 16 code
      startUnit := BitVec.ofNat 16 unit, alertHw := true } }
  s1.fault code 0 subject 2 0 unit 0 0 noColumns

/-- R402 step 7: rows repaired, and those whose spares are exhausted (R309). -/
def State.exhaustedEvents (s : State) : List Nat → State
  | [] => s
  | f :: fs =>
    (s.fault 0x0A 0 (hbmStack (f * 4096)) 2 0 (memoryUnit (f * 4096)) 0 (f * 4096) noColumns).exhaustedEvents fs

/-- TABLE_W of each class from start-up (R361). -/
def startClasses (v : Variant) (ws : List Nat) : SMap EnergyClass :=
  (List.range 6).foldl (fun (m : SMap EnergyClass) c =>
    m.set EnergyClass.reset c ⟨min (ws.getD c 0) (1000 * ceilingW v c), 0⟩) []

/-- R396: BOOTED. -/
def State.bootedEvent (s : State) : State :=
  let ver := fun (i : Option ImageInfo) => (i.map (fun x => x.version.toNat)).getD 0
  s.raise 9 1 s.currentStep 0 0 (leBytes 1 s.fw.gyton.active ++ leBytes 1 s.fw.rolrohan.active ++
    leBytes 1 (bitOf s.fw.fellBack) ++ leBytes 1 s.fuses.fuseCount ++ leBytes 4 (ver s.fw.gyton.running) ++
    leBytes 4 (ver s.fw.rolrohan.running))

/-- R222: READY. -/
def State.readyEvent (s : State) : State := s.raise 10 1 s.currentStep 0 0 (leBytes 8 s.clock.time)

/-- R402 steps 4 to 9 once every test has passed. -/
def State.reachReady (s : State) (run : StartRun) : State :=
  let lost := s.fw.repairs.filter (fun f => run.exhausted.contains f)
  let s1 : State := { s with
      clock := { Clock.reset with time := run.readyTime.toNat }
      fw := { s.fw with repairs := lost }
      power := { s.power with l85 := run.l85, classes := startClasses s.fuses.variant run.tableMw
                              hbmTemp := List.replicate 20 0 }
      life := { s.life with
        lanesRepaired := run.lanesRepaired, rowsRepaired := run.rowsRepaired, sramRemaps := run.sramRemaps
        extendedRan := s.life.extended } }
  let s2 := (s1.exhaustedEvents lost).switchSpares
  let s3 : State := { s2 with
      life := { s2.life with phase := .ready, stage := 8, readyMs := run.readyMs }
      fw := { s2.fw with gyton := s2.fw.gyton.adopt, rolrohan := s2.fw.rolrohan.adopt, bootGen := (s2.fw.bootGen + 1) % 2 ^ 32 } }
  let s4 : State := { s3 with power := { s3.power with standingMw := s3.standing } }
  s4.readyEvent.bootedEvent

/-- ROOT_PLL_LOCK (R402 steps 3 to 9, R403). -/
def rootPllLock (run : StartRun) (s : State) : State :=
  if s.life.phase = .starting ∧ s.life.stage = 2 then
    match run.fail with
    | some .pll => s.holdStart 2 0x10 0 0
    | other =>
      let s1 : State := { s with clock := Clock.reset
                                 life := { s.life with rootLocked := true, oscillator := false, stage := 3 } }
      match other with
      | some (.link l) => s1.holdStart 3 0x0F l.val l.val
      | some (.sram m) => s1.holdStart 4 8 m.toNat m.toNat
      | _ =>
        match s1.chooseImage 2 with
        | (s2, .again) => s2.gytonReset
        | (s2, .nothing) => { s2 with life := { s2.life with stage := 5 } }.recover
        | (s2, .running) =>
          let s3 : State := { s2 with fw := { s2.fw with firewall := true } }
          match other with
          | some (.stack h) => s3.holdStart 6 8 (1 + 256 * h.val) (1 + 256 * h.val)
          | _ => s3.reachReady run
  else s

/-- REFCLK_START_TIMEOUT (R403). -/
def refclkStartTimeout (s : State) : State :=
  if s.life.phase = .starting ∧ s.life.stage = 2 then s.holdStart 2 0x10 0 0 else s

/-- IMAGE_TRIAL_TIMEOUT (R376): the pending slots are cleared and Gyton resets the module. -/
def imageTrialTimeout (s : State) : State :=
  let waiting := match s.life.phase with
    | .starting => true
    | .held => true
    | .recovery => true
    | _ => false
  if waiting && (s.fw.gyton.tried || s.fw.rolrohan.tried) then
    let clear := fun (b : ImageBank) => if b.tried then { b with pending := none, tried := false } else b
    { s with fw := { s.fw with gyton := clear s.fw.gyton, rolrohan := clear s.fw.rolrohan } }.gytonReset
  else s

/-- SUPPLY_LOSS (R400). -/
def supplyLoss (s : State) : State := if s.life.phase = .off then s else s.cleared

/-- MODULE_RESET (R401): a thermal trip outlasts it (R360). -/
def moduleReset (s : State) : State :=
  if s.life.phase = .off ∨ s.life.thermtrip then s
  else
    let s1 := s.moduleCleared 2
    { s1 with life := { s1.life with phase := .inReset, jtag := s.life.jtag } }

/-- MOD_RESET_RELEASE (R399, R401). -/
def modResetRelease (tray : BitVec 2) (slot : BitVec 4) (s : State) : State :=
  if s.life.phase = .inReset then
    State.bootGyton 2 ({ s with life := { s.life with jtag := .bypass } }.strap tray slot)
  else s

def execPowerOn (tray : BitVec 2) (slot : BitVec 4) (s : State) : Out := restarted s (powerOn tray slot s)
def execRootPllLock (run : StartRun) (s : State) : Out := restarted s (rootPllLock run s)
def execRefclkStartTimeout (s : State) : Out := done s (refclkStartTimeout s)
def execImageTrialTimeout (s : State) : Out := restarted s (imageTrialTimeout s)
def execSupplyLoss (s : State) : Out := restarted s (supplyLoss s)
def execModuleReset (s : State) : Out := restarted s (moduleReset s)
def execModResetRelease (tray : BitVec 2) (slot : BitVec 4) (s : State) : Out :=
  restarted s (modResetRelease tray slot s)

/-! ### The PCIe function -/

/-- R183: acts as EVACUATE, with no completion records, and returns the RINGS block to reset. The events held in the
buffer of R218 stay (R401), and so does the number dropped since the last notice. PRESUMED from PCI Express (log 24): MSI-X and D3hot return to their reset values. -/
def State.functionReset (s : State) : State :=
  let mute : State := { s with host := { s.host with rings := s.host.rings.map (fun p => (p.1, { p.2 with cmds := [] })) } }
  let s1 := mute.evacuateNow.resetQps
  { s1 with host := { HostSide.reset with buffer := s1.host.buffer, droppedNew := s1.host.droppedNew }
            pcie := { s1.pcie with d3hot := false } }

/-- FLR. Before READY the rings have nothing to lose. -/
def flr (s : State) : State := s.functionReset

/-- PCIE_CONVENTIONAL_RESET (R401, R405): the link and configuration space too; READY is raised once more. -/
def pcieConventionalReset (s : State) : State :=
  let s1 := if s.isReady then s.functionReset else { s with pcie := { s.pcie with d3hot := false } }
  let s2 : State := { s1 with
      pcie := { s1.pcie with linkUp := false, cfgReady := false, ide := .off, ideKeyRx := 0, ideKeyTx := 0
                             loopActive := false, follower := false }
      fw := { s1.fw with spdmDoe := Spdm.reset } }
  if s2.isReady then s2.readyEvent else s2

/-- PCIE_LINK_TRAINING (R405, R409): a follower's loop has ended, and held requests go out. PCIe does not train while the ROM or Gyton holds the
module in recovery (R376). -/
def pcieLinkTraining (s : State) : State :=
  let runs := s.life.rootLocked && (match s.life.phase with
    | .starting => true
    | .held => true
    | .ready => true
    | _ => false)
  if runs && !s.pcie.loopActive then
    let s1 : State := { s with pcie := { s.pcie with linkUp := true, cfgReady := true, follower := false } }
    State.drainEvents drainFuel s1.flushHeld
  else s

/-- The function exists: the module has power and is not in reset. -/
def State.functionRuns (s : State) : Bool :=
  match s.life.phase with
  | .off => false
  | .inReset => false
  | .stopped _ => false
  | _ => true

/-- POWER_STATE_D3HOT (R184). -/
def powerStateD3hot (s : State) : State := { s with pcie := { s.pcie with d3hot := true } }

/-- POWER_STATE_D0 (R184): held records go out, then held events. -/
def powerStateD0 (s : State) : State :=
  let s1 : State := { s with pcie := { s.pcie with d3hot := false } }
  State.drainEvents drainFuel s1.flushHeld

/-- LOOPBACK_FOLLOWER (R409): the module accepts the role while its link is up and no loop of its own runs. -/
def loopbackFollower (s : State) : State :=
  if s.pcie.linkUp && !s.pcie.loopActive then
    { s with pcie := { s.pcie with follower := true, linkUp := false } }
  else s

def execPcieConventionalReset (s : State) : Out := done s (s.onlyIf s.functionRuns pcieConventionalReset)
def execPcieLinkTraining (s : State) : Out := done s (pcieLinkTraining s)
def execFlr (s : State) : Out := done s (s.onlyIf s.functionRuns flr)
def execPowerStateD3hot (s : State) : Out := done s (s.onlyIf s.functionRuns powerStateD3hot)
def execPowerStateD0 (s : State) : Out := done s (s.onlyIf s.functionRuns powerStateD0)
def execLoopbackFollower (s : State) : Out := done s (s.onlyIf s.functionRuns loopbackFollower)

/-! ### The module stops -/

/-- Gyton, or the boot ROM in recovery, answers the management path (R376, R389). -/
def State.gytonRuns (s : State) : Bool :=
  match s.life.phase with
  | .off => false
  | .inReset => false
  | .stopped .lockstep => false
  | _ => true

/-- R17, R310, R360: the clocks stop, the PCIe link goes down, SCLK moves to the internal oscillator, hardware asserts
ALERT#, and memory is not retained. A stop of the management pair outlasts the other two. -/
def State.halt (s : State) (c : StopCause) : State :=
  let s1 : State := { s with
    life := { s.life with phase := if s.life.phase = .stopped .lockstep then s.life.phase else .stopped c
                          rootLocked := false, oscillator := true, alertHw := true }
    pcie := { s.pcie with linkUp := false, cfgReady := false } }
  s1.undefAt 0 (2 ^ 48)

/-- REFCLK_LOSS (R17, R389). -/
def refclkLoss (s : State) : State :=
  if s.clocksRun then (s.halt .clockLost).fault 0x10 0 0 2 0 0 0 0 noColumns else s

/-- THERMTRIP (R360, R367): the comparator needs neither clocks nor firmware; Gyton reports it where it runs. -/
def thermtrip (part : Fin 36) (temp : BitVec 16) (s : State) : State :=
  if s.life.phase ≠ .off ∧ !s.life.thermtrip ∧ (part.val < 3 ∨ 16 ≤ part.val) then
    let s1 := s.halt .thermtrip
    let s2 : State := { s1 with life := { s1.life with thermtrip := true } }
    if s.gytonRuns then s2.raise 8 6 s2.currentStep 0 part.val (leBytes 2 temp.toNat) else s2
  else s

def execRefclkLoss (s : State) : Out := done s (refclkLoss s)
def execThermtrip (part : Fin 36) (temp : BitVec 16) (s : State) : Out := done s (thermtrip part temp s)

/-! ### Commands ended from outside their meaning (R11, R310) -/

/-- Ends the program of an OP_PROGRAM with `status`: its unissued ops leave, and it completes when the issued ones
have. -/
def State.endProgram (s : State) (p : Program) (status : Nat) : State :=
  let p1 : Program := { p with stopped := true, next := none, failure := some (status, 0, none), proofFailed := false }
  ((s.setProgram p1).dropUnissued p.ring).settleProgram p.ring

/-- Ends one fetched command, whatever runs for it, with `status`. -/
def State.stopCmd (s : State) (status : Nat) (id : Nat) : State :=
  match s.seq.programs.find? (fun p => p.cmd == id) with
  | some p => s.endProgram p status
  | none =>
    let held := match s.proof.boundary with
      | some b => (match b.by_ with | .mark _ c => c == id | _ => false)
      | none => false
    let s1 := if s.proof.ckpt.any (fun c => c.cmd == id) then (s.stopCheckpoint status).releaseNegatives else s
    let s2 : State := { s1 with
      host := { s1.host with dma := s1.host.dma.filter (fun d => d.cmd != id) }
      proof := { s1.proof with
        snapshots := s1.proof.snapshots.filter (fun n => n.2.1 != id)
        restore := if s1.proof.restore.any (fun x => x.2.2 == id) then none else s1.proof.restore
        boundary := if held then none else s1.proof.boundary
        repair := if held then none else s1.proof.repair
        waiting := s1.proof.waiting && !held } }
    s2.endCmd id status

def State.stopCmds (s : State) (status : Nat) : List Nat → State
  | [] => s
  | c :: cs => (s.stopCmd status c).stopCmds status cs

/-- R310: a BRANCH the core was serving. -/
def State.stopBranches (s : State) (ids : List Nat) : List Op → State
  | [] => s
  | o :: os =>
    (if o.kind = opBranch ∧ ids.contains o.id then s.finishWith o 0x70 (s.recordOf o s.clock.time)
     else s).stopBranches ids os

/-- R310: times of the watchdog's expiries on a core within the last day. -/
def State.expiries (s : State) (core : Nat) : Nat :=
  (s.plate.watchTimes.filter (fun p => p.1 == core && decide (s.clock.time < p.2 + 86400000000000))).length

/-- WATCHDOG (R310, R312, R396). -/
def watchdog (core : Fin 8) (served : List Nat) (retire : Bool) (s : State) : State :=
  let second := decide (1 ≤ s.expiries core.val)
  let s1 : State := { s with plate := { s.plate with watchTimes := s.plate.watchTimes ++ [(core.val, s.clock.time)] } }
  let s2 := s1.fault 0x0D 0 core.val (if served.isEmpty then 2 else 1) (if served.isEmpty then 0 else 0x70) 0 0 0 noColumns
  let s3 := (s2.dirty 1).raise 9 5 s2.currentStep 0 core.val (leBytes 1 1)
  let s4 := (s3.stopBranches served s3.seq.window).stopCmds 0x70 served
  if second || retire then
    ({ s4 with plate := { s4.plate with coresScheduled := s4.plate.coresScheduled ++ [core.val] } }).switchIfIdle
  else s4

/-- R11: commands in flight other than EVACUATE and HANDOVER. -/
def State.abortable (s : State) : List Nat :=
  (s.commands.filter (fun c => !(c.typ == cmdEvacuate || c.typ == cmdHandover))).map (·.id)

/-- PACKAGE_LINK_FAILED (R11, R312). -/
def packageLinkFailed (link : Fin 3) (s : State) : State :=
  if s.life.failedLinks.contains link.val then s
  else
    let s1 : State := { s with life := { s.life with failedLinks := s.life.failedLinks ++ [link.val] } }
    let s2 := (s1.fault 0x0F 0 link.val 2 0 0 0 0 noColumns).dirty 1
    let s3 := s2.abortWork.abortProof.releaseNegatives
    s3.endCmds 0x60 s3.abortable

def execWatchdog (core : Fin 8) (served : List Nat) (retire : Bool) (s : State) : Out :=
  whenReady s (watchdog core served retire)
def execPackageLinkFailed (link : Fin 3) (s : State) : Out := whenReady s (packageLinkFailed link)

/-! ### Scrubbing and boundary scan -/

/-- The block a scrub reads: its address in the map, or its name in a memory outside it. -/
def State.scrubTarget (s : State) (mem : BitVec 8) (addr : Nat) : Option Nat :=
  let m := mem.toNat
  if [1, 2, 3, 8].contains m then
    match s.place addr 1 with
    | .ok (z, a) => if allowOwn z && memoryId a == m then some a else none
    | .error _ => none
  else if 4 ≤ m ∧ m ≤ 10 ∧ addr < 2 ^ 48 then some (hiddenAddr m 0 addr) else none

/-- The last block of a memory, where a scrub pass over it ends (log 80). -/
def State.lastBlock (s : State) (m : Nat) : Nat :=
  match m with
  | 1 => s.hbmBytes / 64 - 1
  | 2 => 0x2007C000000 / 64 - 1
  | 3 => 0x20104000000 / 64 - 1
  | 8 => 0x30008000000 / 64 - 1
  | _ => hiddenAddr m 0 (Config.lastHidden m) / 64

/-- R317: whether a memory is scrubbed: by the pass under way over it, or by the pass that the register lets begin. -/
def State.scrubs (s : State) (m : Nat) : Bool :=
  s.plate.scrubbing.contains m || (if m = 1 then s.plate.scrubHbm else s.plate.scrubSram)

/-- R318: a pass over a memory has ended. SCRUB_PASSES.SRAM counts once every SRAM of R305 has been scrubbed since the last count
(log 80). -/
def State.passEnded (s : State) (m : Nat) : State :=
  let s1 : State := { s with plate := { s.plate with scrubbing := s.plate.scrubbing.filter (· != m) } }
  let bump := fun (x : State) (off : Nat) => ({ x with tele := x.tele.set 0 off ((x.tele.get 0 off + 1) % 2 ^ 32) } : State)
  if m = 1 then bump s1 0x584
  else
    let d := m :: s1.plate.scrubbed.filter (· != m)
    if 9 ≤ d.length then bump { s1 with plate := { s1.plate with scrubbed := [] } } 0x580
    else { s1 with plate := { s1.plate with scrubbed := d } }

/-- A scrub has read the block at `a`: the pass goes on, or ends with the memory's last block. -/
def State.scrubbedBlock (s : State) (m a : Nat) : State :=
  if a / 64 = s.lastBlock m then s.passEnded m
  else if s.plate.scrubbing.contains m then s
  else { s with plate := { s.plate with scrubbing := m :: s.plate.scrubbing } }

/-- SCRUB_READ (R306 to R309, R317, R318). -/
def scrubRead (mem : BitVec 8) (addr : Nat) (found : ScrubFind) (s : State) : State :=
  match s.scrubTarget mem addr with
  | none => s
  | some a =>
    if !s.scrubs mem.toNat then s
    else
      let s0 := s.scrubbedBlock mem.toNat a
      let s1 := s0.meet [a / 64]
      if (s1.poisoned a 1).isSome then s1
      else
        match found with
        | .clean => s1
        | .correctable => s1.corrected a
        | .uncorrectable => s1.poisonBlock a

/-- The instructions that take effect only while MOD_RESET# is low. -/
def jtagScans : JtagInstr → Bool
  | .extest => true
  | .extestPulse => true
  | .extestTrain => true
  | .clamp => true
  | .highz => true
  | _ => false

/-- R413: IDCODE. -/
def State.idcode (s : State) : Nat :=
  1 + at_ s.fuses.jedecId.toNat 1 + at_ 0x3220 12 + at_ (s.fuses.stepping.toNat / 16) 28

/-- JTAG_INSTRUCTION (R413): what a code other than those listed does is not stated beyond IEEE 1149.1, under which
it is BYPASS (log 25). -/
def jtagInstruction (i : JtagInstr) (s : State) : State :=
  let eff := match i with
    | .other _ => JtagInstr.bypass
    | x => if jtagScans x && s.life.phase != .inReset then .bypass else x
  let s1 : State := { s with life := { s.life with jtag := eff } }
  if eff = .idcode then s1.send (.tdo (BitVec.ofNat 32 s.idcode)) else s1

def execScrubRead (mem : BitVec 8) (addr : Nat) (found : ScrubFind) (s : State) : Out :=
  whenReady s (scrubRead mem addr found)
def execJtagInstruction (i : JtagInstr) (s : State) : Out :=
  done s (s.onlyIf (s.life.phase != .off) (jtagInstruction i))

end Sys2Proof.Machine
end

