-- ==== Sys2Proof/Machine/Firmware.lean ====
section
/-! DEFINITION. The firmware update operations of the mailbox and of FW_OP (R377 to R380, R386). -/

namespace Sys2Proof.Machine

/-- Whether a firmware operation is heard: the mailbox from READY on (R404), FW_OP whenever Gyton runs. -/
def State.hears (s : State) : FwReq → Bool
  | .mailbox _ => s.isReady
  | .mctp _ _ _ _ _ => s.gytonRuns

/-- The path of a request. -/
def fwPath : FwReq → LockHolder
  | .mailbox _ => .host
  | .mctp _ _ _ _ _ => .controller

/-- ARG[i] of a request. -/
def State.fwArg (s : State) (r : FwReq) (i : Nat) : Nat :=
  match r with
  | .mailbox _ => (s.fw.mboxArgs.get 0 i).toNat
  | .mctp _ a0 a1 a2 _ => match i with
    | 0 => a0.toNat
    | 1 => a1.toNat
    | _ => a2.toNat

/-- Answers a request: MBOX_STATUS, or the response of FW_OP, with a result of R380. -/
def State.fwAnswer (s : State) (r : FwReq) (result detail : Nat) : State :=
  match r with
  | .mailbox tag =>
    { s with fw := { s.fw with mboxResult := BitVec.ofNat 8 result, mboxTag := tag, mboxDetail := BitVec.ofNat 32 detail } }
  | .mctp seq _ _ _ _ => s.send (.mgmt 6 true seq.toNat (leBytes 1 result))

/-- R378: the other path holds the update lock. -/
def State.lockedOut (s : State) (r : FwReq) : Bool :=
  match s.fw.lock with
  | some h => h != fwPath r
  | none => false

/-- The path has an update under way. -/
def State.staging (s : State) (r : FwReq) : Bool := s.fw.lock == some (fwPath r) && s.fw.stagedKind != 0

/-- The inactive slot of a kind, and that slot replaced. -/
def State.stagedSlot (s : State) (kind : Nat) : Slot := (s.bank kind).slot (1 - (s.bank kind).active)
def State.setStaged (s : State) (kind : Nat) (x : Slot) : State :=
  s.setBank kind ((s.bank kind).setSlot (1 - (s.bank kind).active) x)

/-- An erased slot: what erased flash reads as is not stated (log 10). -/
def State.eraseStaged (s : State) (kind : Nat) : State :=
  let g := s.draw
  g.2.setStaged kind { factory := none, bytes := (Store.empty 8).undef 0 (slotBytes kind) g.1 }

/-- FW_BEGIN. -/
def fwBegin (r : FwReq) (flashOk : Bool) (s : State) : State :=
  let kind := s.fwArg r 0
  if s.lockedOut r then s.fwAnswer r 1 0
  else if kind ≠ 1 ∧ kind ≠ 2 then s.fwAnswer r 2 0
  else
    let s1 := s.eraseStaged kind
    let s2 : State := { s1 with fw := { s1.fw with lock := some (fwPath r), stagedKind := kind, verified := false } }
    s2.fwAnswer r (if flashOk then 0 else 6) 0

/-- The bytes FW_WRITE writes: from HBM, or inline. `.error` is the result that refuses them; what meets a poisoned
block is not stated (log 10). -/
def State.fwData (s : State) (r : FwReq) : State × Except Nat (List Byte) :=
  let n := s.fwArg r 1
  match r with
  | .mctp _ _ _ _ data => (s, if data.isEmpty || n != data.length then .error 2 else .ok data)
  | .mailbox _ =>
    if n = 0 then (s, .error 2)
    else
      match s.readPhys allowHbm (s.fwArg r 0) n with
      | (s1, .ok bs) => (s1, .ok bs)
      | (s1, .error (.addr _)) => (s1, .error 3)
      | (s1, .error _) => let g := s1.draw; (g.2, .error (Config.freeBits 8 g.1 0).toNat)

/-- FW_WRITE. A failed program leaves the range it was writing undefined. -/
def fwWrite (r : FwReq) (flashOk : Bool) (s : State) : State :=
  let off := s.fwArg r 2
  let kind := s.fw.stagedKind
  if s.lockedOut r then s.fwAnswer r 1 0
  else if !s.staging r then s.fwAnswer r 2 0
  else if slotBytes kind < off + s.fwArg r 1 then s.fwAnswer r 3 0
  else
    match s.fwData r with
    | (s1, .error e) => s1.fwAnswer r e 0
    | (s1, .ok bs) =>
      let g := s1.draw
      let x := g.2.stagedSlot kind
      let y := if flashOk then x.bytes.write off bs else x.bytes.undef off (off + bs.length) g.1
      let s2 := g.2.setStaged kind { x with bytes := y }
      let s3 : State := { s2 with fw := { s2.fw with verified := false } }
      if flashOk then s3.fwAnswer r 0 bs.length else s3.fwAnswer r 6 0

/-- FW_VERIFY. -/
def fwVerify (r : FwReq) (s : State) : State :=
  if s.lockedOut r then s.fwAnswer r 1 0
  else if !s.staging r then s.fwAnswer r 2 0
  else
    match checkImage s.fw.stagedKind s.fuses.fuseCount (s.stagedSlot s.fw.stagedKind) with
    | .ok _ => { s with fw := { s.fw with verified := true } }.fwAnswer r 0 0
    | .error e => { s with fw := { s.fw with verified := false } }.fwAnswer r e 0

/-- Releases the update lock. -/
def State.unlock (s : State) : State := { s with fw := { s.fw with lock := none, stagedKind := 0, verified := false } }

/-- FW_ACTIVATE (R373, R378): the boot record names the verified slot as pending, and UPDATE_STAGED tells it. -/
def fwActivate (r : FwReq) (flashOk : Bool) (s : State) : State :=
  let kind := s.fw.stagedKind
  if s.lockedOut r then s.fwAnswer r 1 0
  else if !s.staging r || !s.fw.verified then s.fwAnswer r 2 0
  else if !flashOk then s.fwAnswer r 6 0
  else
    let b := s.bank kind
    let s1 := s.setBank kind { b with pending := some (1 - b.active), tried := false }
    let s2 : State := { s1 with fw := { s1.fw with bootGen := (s1.fw.bootGen + 1) % 2 ^ 32 } }
    let info := match checkImage kind s.fuses.fuseCount (s.stagedSlot kind) with
      | .ok i => leBytes 4 i.version.toNat ++ leBytes 1 i.secVersion
      | .error _ => zeros 5
    let s3 := s2.raise 9 3 s2.currentStep 0 kind (info ++ leBytes 1 (match fwPath r with | .host => 0 | .controller => 1))
    s3.unlock.fwAnswer r 0 0

/-- FW_ABORT. -/
def fwAbort (r : FwReq) (s : State) : State :=
  if s.lockedOut r then s.fwAnswer r 1 0
  else if !s.staging r then s.fwAnswer r 2 0
  else ((s.eraseStaged s.fw.stagedKind).unlock).fwAnswer r 0 0

/-- SEC_VERSION of the active image of a kind. -/
def State.activeVersion (s : State) (kind : Nat) : Nat :=
  match checkImage kind 0 ((s.bank kind).slot (s.bank kind).active) with
  | .ok i => i.secVersion
  | .error _ => 0

/-- FW_COMMIT (R377). -/
def fwCommit (r : FwReq) (s : State) : State :=
  let v := s.fwArg r 0
  if s.lockedOut r then s.fwAnswer r 1 0
  else if s.activeVersion 1 < v ∨ s.activeVersion 2 < v ∨ v ≤ s.fuses.fuseCount ∨ 64 < v then
    s.fwAnswer r 7 s.fuses.fuseCount
  else
    let s1 : State := { s with fuses := { s.fuses with fuseCount := v } }
    (s1.raise 9 4 s1.currentStep 0 0 (leBytes 1 v)).fwAnswer r 0 v

/-- FW_LOCK_TIMEOUT (R378). -/
def fwLockTimeout (s : State) : State := if s.fw.lock.isSome then s.unlock else s

def execFwBegin (r : FwReq) (flashOk : Bool) (s : State) : Out := done s (s.onlyIf (s.hears r) (fwBegin r flashOk))
def execFwWrite (r : FwReq) (flashOk : Bool) (s : State) : Out := done s (s.onlyIf (s.hears r) (fwWrite r flashOk))
def execFwVerify (r : FwReq) (s : State) : Out := done s (s.onlyIf (s.hears r) (fwVerify r))
def execFwActivate (r : FwReq) (flashOk : Bool) (s : State) : Out := done s (s.onlyIf (s.hears r) (fwActivate r flashOk))
def execFwAbort (r : FwReq) (s : State) : Out := done s (s.onlyIf (s.hears r) (fwAbort r))
def execFwCommit (r : FwReq) (s : State) : Out := done s (s.onlyIf (s.hears r) (fwCommit r))
def execFwLockTimeout (s : State) : Out := done s (s.onlyIf s.gytonRuns fwLockTimeout)

end Sys2Proof.Machine
end

