-- ==== Sys2Proof/Machine/Ports.lean ====
section
/-! DEFINITION. Ethernet ports: states, labels and the topology table (R231 to R243), their configuration (R236, R244,
R264), loop-backs (R408), neighbour discovery (R253), and what a lost or restored port does to traffic (R235, R249). -/

namespace Sys2Proof.Machine

/-! ### Operations that need a tray peer (R249) -/

/-- Whether an op or command has frames or reads outstanding at tray member `m`. -/
def State.needsPeer (s : State) (m : Nat) (id : Nat) : Bool :=
  (s.channel m).unacked.any (fun f => f.op == some id) || s.net.reads.any (fun r => r.op == id && r.member == m) ||
    s.net.pulls.any (fun r => r.2.op == id && r.2.member == m) ||
    (s.channel m).windows.any (fun w => w.actor == id && w.data.isNone)

/-- Ends an op of this module that a tray peer refused or cannot be reached for. A MOVE that had failed keeps its own status; what a
MOVE sent and was not acknowledged is not counted as written. -/
def State.failOp (s : State) (id status : Nat) (d : Option Word) : State :=
  match s.op id with
  | none => s
  | some o0 =>
    let lost := (s.net.channels.flatMap (fun p => p.2.unacked.filter (fun f => f.typ == 1 && f.op == some id))).map (·.len)
    let o : Op := if o0.kind = opMove ∧ o0.moveDstMember = 7 then { o0 with sum := o0.sum - lost.sum } else o0
    let e := o.ending.getD (status, d)
    (s.finishNow o e.1 e.2 (s.recordOf o s.clock.time)).clearOp id

/-- The same for whatever acts: an op, a program whose list it reads, or another command (R213, R436). -/
def State.failActor (s : State) (id status : Nat) (d : Option Word) : State :=
  if (s.op id).isSome then s.failOp id status d
  else
    let s1 := s.clearOp id
    match s.seq.programs.find? (fun p => p.cmd == id) with
    | some p => s1.stopList p status 0 d
    | none => s1.endCmdWith id status ((d.map (·.toNat)).getD 0)

/-- Ends whatever of a list needs tray member `m` with a status; the channel keeps its frames. -/
def State.failPeerOps (s : State) (m status : Nat) : List Nat → State
  | [] => s
  | i :: is => (if s.needsPeer m i then s.failActor i status none else s).failPeerOps m status is

/-- The ops in the window and the commands in flight. -/
def State.actors (s : State) : List Nat := s.seq.window.map (·.id) ++ s.commands.map (·.id)

/-- R249: when the pair is in dead-letter, operations that need it complete at once. -/
def State.checkPair (s : State) (m : Nat) : State :=
  if s.pairDead m then s.failPeerOps m 0x42 s.actors else s

/-- TRAY_PEER_TIMEOUT. -/
def trayPeerTimeout (m : Fin 4) (s : State) : State :=
  let c := s.channel m.val
  if (s.upPair m.val).isEmpty && !s.pairDead m.val && s.actors.any (s.needsPeer m.val) then
    let first := (c.unacked.map (·.seq)).headD c.nextSeq
    let s1 := if c.lost then s
      else (s.setChannel m.val { c with lost := true }).linkEvent 5 m.val (leBytes 3 first)
    s1.failPeerOps m.val 0x40 s1.actors
  else s

def execTrayPeerTimeout (m : Fin 4) (s : State) : Out := whenReady s (trayPeerTimeout m)

/-! ### Traffic of a port (R235) -/

/-- Sends again what a channel or the sessions still keep. -/
def State.helloNodes (s : State) : List Nat → State
  | [] => s
  | n :: ns => (if s.sessionOpen n || (s.session n).dead then s else s.sendHello n 4).helloNodes ns

/-- Chunks that wait are sent, and sessions that are not open are asked for. -/
def State.resumeNpt (s : State) : State :=
  (s.putChunks (s.waitingChunks none)).helloNodes ((s.net.out.map (·.node)).eraseDups)

/-- R235: chunks in flight on a port that failed are sent again. -/
def State.rewait (s : State) (p : Nat) : State :=
  { s with net := { s.net with out := s.net.out.map (fun c =>
      if c.gone && c.ports.contains p then { c with waits := true, failed := true } else c) } }

/-- Traffic after port p left UP or entered it. -/
def State.resumePort (s : State) (p : Nat) : State :=
  if (s.port p).role = 1 then
    let m := s.facedMember p
    let c := s.channel m
    let s1 := if (s.upPair m).isEmpty then s else s.setChannel m { c with lost := false }
    (s1.yeReplay m (c.unacked.take 512)).checkPair m
  else if (s.port p).state = portUp then s.resumeNpt
  else (s.rewait p).resumeNpt

/-! ### Port states (R234 to R236) -/

/-- Whether a port that is down may train: enabled, with an entry, in no loop but the far-end one (R234, R239, R408). -/
def State.mayTrain (s : State) (p : Nat) : Bool :=
  let x := s.port p
  x.enable == 1 && (s.topoEntry p).kind != 0 && (x.loopMode == 0 || x.loopMode == 4)

/-- A port goes DOWN, with a LINK_DOWN where `told`; it then retrains if it may, and traffic moves off it. -/
def State.portFalls (s : State) (p cause : Nat) (told : Bool) : State :=
  let x := s.port p
  let s1 := s.setPort p { x with state := portDown, dead := 0, negMinor := 0, heard := none, nextHop := none }
  let s2 := if told then s1.linkEvent 2 p (leBytes 1 cause) else s1
  let s3 := if s2.mayTrain p then s2.setPort p { s2.port p with state := portTraining } else s2
  if x.state = portUp then s3.resumePort p else s3

/-- Takes a port to DOWN; LINK_DOWN is written when its link was up. -/
def State.takeDown (s : State) (p cause : Nat) : State := s.portFalls p cause (decide (2 ≤ (s.port p).state))

/-- R236: a change of configuration takes a port to DOWN from any state, with LINK_DOWN cause 4. -/
def State.reconfigure (s : State) (p : Nat) : State := s.portFalls p 4 true

def State.reconfigures (s : State) : List Nat → State
  | [] => s
  | p :: ps => (s.reconfigure p).reconfigures ps

/-! ### Labels (R238, R241) -/

/-- R238: a label is present when its string has 20 bytes and its reserved bytes are 0. -/
def validLabel (l : Option (List Byte)) : Option (List Byte) :=
  match l with
  | some bs => if bs.length = 20 ∧ field bs 13 1 = 0 ∧ field bs 18 2 = 0 then some bs else none
  | none => none

/-- Big-endian field of a label (log 27). -/
def beField (bs : List Byte) (off n : Nat) : Nat := beNat ((bs.drop off).take n)

def labelNode (bs : List Byte) : Nat := beField bs 0 4
def labelMajor (bs : List Byte) : Nat := field bs 10 1
def labelMinor (bs : List Byte) : Nat := field bs 11 1
def labelNumerics (bs : List Byte) : Nat := field bs 12 1

/-- R241: the DEAD_CAUSE of a port's evaluation, in the order of the checks; 0 when every check passes. -/
def State.judge (s : State) (p : Nat) : Nat :=
  let e := s.topoEntry p
  let x := s.port p
  let label := validLabel (x.heard.bind (·.label))
  if !s.net.nodeValid then 8
  else if e.kind = 1 then
    match label with
    | none => 1
    | some l =>
      let tray := field l 5 1
      if !bit (labelNode l) 31 || labelNode l % 2 ^ 31 != e.peerNode || field l 4 1 != e.peerPort then 2
      else if beField l 14 4 != s.net.topoGen.toNat then 4
      else if labelMajor l != 1 then 5
      else if tray / 4 != x.role then 3
      else if x.role == 1 && (tray % 4 != e.peerMember || beField l 6 2 != 0x3220) then 3
      else 0
  else
    match label with
    | some _ => 6
    | none =>
      let any := e.chassis.all (· == 0)
      match x.heard with
      | some h => if any || padTo 8 h.chassis == e.chassis then 0 else 7
      | none => if any then 0 else 7

/-- Evaluates a port in LABEL_WAIT, UP or DEAD_LETTER. -/
def State.evaluate (s : State) (p : Nat) : State :=
  let x := s.port p
  if x.state < 2 then s
  else
    let label := (validLabel (x.heard.bind (·.label))).getD (zeros 20)
    match s.judge p with
    | 0 =>
      if x.state = portUp then s
      else
        let s1 := s.setPort p { x with state := portUp, dead := 0, negMinor := min (labelMinor label) 0 }
        (s1.linkEvent 4 p label).resumePort p
    | c =>
      let s1 := s.setPort p { x with state := portDead, dead := c }
      if x.state = portDead then s1
      else
        let s2 := s1.linkEvent 3 p (leBytes 1 c ++ zeros 3 ++ label)
        if x.state = portUp then s2.resumePort p
        else if x.role = 1 then s2.checkPair (s.facedMember p) else s2

/-- LINK_UP (R237): PCS alignment; the port sends its label and waits for one. -/
def linkUp (p : Fin 24) (s : State) : State :=
  let x := s.port p.val
  if x.state = portTraining ∧ x.loopMode = 0 then
    ((s.setPort p.val { x with state := portLabelWait }).linkEvent 1 p.val (leBytes 1 x.gen ++ leBytes 1 x.medium)).sendLldp
      p.val
  else s

def linkCauseCode : LinkCause → Nat
  | .signal => 1
  | .alignment => 2
  | .fec => 3

/-- LINK_DOWN (R234), with the codewords counted until then. -/
def linkDown (p : Fin 24) (cause : LinkCause) (fec : Codewords) (s : State) : State :=
  let x := s.port p.val
  if x.state < 2 then s else (s.setPort p.val (x.codewords fec)).takeDown p.val (linkCauseCode cause)

/-- LLDP_SEND (R237). -/
def lldpSend (s : State) : State := s.sendLldps allPorts

/-- LLDPDU_RECEIVE (R241). -/
def lldpduReceive (p : Fin 24) (l : Lldpdu) (s : State) : State :=
  let x := s.port p.val
  if x.state < 2 then s
  else
    let x1 : Port := match validLabel l.label with
      | some bs => { x with heard := some l, peerNode := BitVec.ofNat 32 (labelNode bs), numDiffers := labelNumerics bs != 1 }
      | none => { x with heard := some l }
    (s.setPort p.val x1).evaluate p.val

/-- LABEL_TIMEOUT (R241): 100 ms without a label, or its time to live has passed. -/
def labelTimeout (p : Fin 24) (s : State) : State :=
  let x := s.port p.val
  if x.state < 2 then s else (s.setPort p.val { x with heard := none }).evaluate p.val

def execLinkUp (p : Fin 24) (s : State) : Out := whenReady s (linkUp p)
def execLinkDown (p : Fin 24) (fall : LinkFall) (s : State) : Out := whenReady s (linkDown p fall.cause fall.fec)
def execLldpSend (s : State) : Out := whenReady s lldpSend
def execLldpduReceive (p : Fin 24) (l : Lldpdu) (s : State) : Out := whenReady s (lldpduReceive p l)
def execLabelTimeout (p : Fin 24) (s : State) : Out := whenReady s (labelTimeout p)

/-! ### The topology table (R239, R240) -/

def parseTopo (bs : List Byte) : TopoEntry :=
  { kind := field bs 0 1, peerPort := field bs 1 1, peerMember := field bs 2 1, peerNode := field bs 4 4
    chassis := (bs.drop 8).take 8 }

/-- An entry of port p with a reserved value. -/
def topoBad (trayRole : Bool) (bs : List Byte) : Bool :=
  let e := parseTopo bs
  decide (2 < e.kind) || field bs 3 1 != 0 || decide (2 ^ 17 ≤ e.peerNode) || field bs 16 16 != 0 ||
    (e.kind == 1 && decide (23 < e.peerPort)) ||
    (if e.kind == 1 && trayRole then decide (3 < e.peerMember) else e.peerMember != 0)

/-- The first bad entry of the table. -/
def State.firstBadTopo (s : State) : Nat → List (List Byte) → Option Nat
  | _, [] => none
  | p, e :: es => if topoBad ((s.port p).role == 1) e then some p else s.firstBadTopo (p + 1) es

def tableOf : Nat → List (List Byte) → SMap TopoEntry
  | _, [] => []
  | p, e :: es => (tableOf (p + 1) es).set TopoEntry.unused p (parseTopo e)

/-- A port after a new table: held DOWN, training, or evaluated. A port in LABEL_WAIT that has heard nothing goes on waiting for
100 ms from its alignment (R241), unless no label could help it. -/
def State.applyTopo (s : State) (p : Nat) : State :=
  let x := s.port p
  if (s.topoEntry p).kind = 0 then (if x.state = portDown then s else s.takeDown p 4)
  else if x.state = portDown then
    (if s.mayTrain p then s.setPort p { x with state := portTraining } else s)
  else if x.state = portLabelWait ∧ x.heard.isNone ∧ s.net.nodeValid then s
  else s.evaluate p

def State.applyTopos (s : State) : List Nat → State
  | [] => s
  | p :: ps => (s.applyTopo p).applyTopos ps

/-- TOPOLOGY_GEN_WRITE (R240). A table that cannot be read is rejected as its first entry (log 31). -/
def topologyGenWrite (a : RegAccess) (s : State) : State :=
  let base := s.net.topoBase.toNat
  let reject := fun (x : State) (i : Nat) => x.linkEvent 7 0 (leBytes 1 i)
  if base % 64 ≠ 0 then reject s 0
  else
    match s.readPhys allowHbm base 768 with
    | (s1, .error _) => reject s1 0
    | (s1, .ok bs) =>
      let es := records 32 24 bs
      match s1.firstBadTopo 0 es with
      | some i => reject s1 i
      | none =>
        let gen := BitVec.ofNat 32 (accessValue a s.net.topoGen.toNat)
        let s2 : State := { s1 with net := { s1.net with topo := tableOf 0 es, topoGen := gen } }
        (s2.sendLldps allPorts).applyTopos allPorts

def execTopologyGenWrite (a : RegAccess) (s : State) : Out := whenReady s (topologyGenWrite a)

/-! ### Configuration (R236, R244, R264) -/

/-- R244: tray role of a port is permitted. -/
def State.trayAllowed (s : State) (p gen : Nat) : Bool :=
  decide (p < 6) && gen == 3 && s.inGroup (s.facedMember p)

/-- PORT_CFG_WRITE. -/
def portCfgWrite (p : Fin 24) (a : RegAccess) (s : State) : State :=
  let x := s.port p.val
  let v := accessValue a (portCfgReg x)
  let en := bits v 0 0
  let gen := bits v 2 1
  let med := bits v 4 3
  let role := bits v 5 5
  if gen = 0 ∨ med = 3 ∨ (role = 1 ∧ s.trayAllowed p.val gen = false) then s
  else if en = x.enable ∧ gen = x.gen ∧ med = x.medium ∧ role = x.role then s
  else
    let s1 := s.reconfigure p.val
    let s2 := s1.setPort p.val { s1.port p.val with state := portDown, enable := en, gen := gen, medium := med, role := role }
    if s2.mayTrain p.val then s2.setPort p.val { s2.port p.val with state := portTraining } else s2

/-- R255, R264: closes every session, which is then opened again. -/
def State.reopenAll (s : State) : State :=
  let nodes := s.net.sessions.map (·.1)
  let s1 : State := { s with net := { s.net with sessions := [] } }
  nodes.foldl (fun (x : State) n => x.sendHello n 4) s1

/-- NODE_ID_WRITE (R264). -/
def nodeIdWrite (a : RegAccess) (s : State) : State :=
  let v := accessValue a (s.netReg 0)
  let s1 : State := { s with net := { s.net with nodeId := BitVec.ofNat 17 v, nodeValid := bit v 31 } }
  (s1.sendLldps allPorts).reopenAll

/-- The enabled ports of a role, which a write to a common register affects (R264). -/
def State.portsOf (s : State) (role : Nat) : List Nat :=
  allPorts.filter (fun p => (s.port p).role == role && (s.port p).enable == 1)

/-- NET_CONFIG_WRITE (R263, R264): a write that changes nothing has no effect (R236). -/
def netConfigWrite (r : NetReg) (a : RegAccess) (s : State) : State :=
  match r with
  | .trayCfg =>
    let g := bits (accessValue a (s.netReg 0x20)) 3 2
    if g = s.net.group then s
    else ({ s with net := { s.net with group := g } }).reconfigures (s.portsOf 1)
  | .ipv6Prefix =>
    let v := BitVec.ofNat 64 (accessValue a (s.netReg 0x40))
    if v = s.net.prefix6 then s
    else ({ s with net := { s.net with prefix6 := v } }).reconfigures (s.portsOf 0)
  | .nptCfg =>
    let v := accessValue a (s.netReg 0x38)
    let u := bits v 15 0
    let d := bits v 21 16
    let c := bits v 26 22
    if u < 1024 ∨ c < 12 ∨ 20 < c then s
    else if u = s.net.udpPort ∧ d = s.net.dscp ∧ c = s.net.chunkLog2 then s
    else ({ s with net := { s.net with udpPort := u, dscp := d, chunkLog2 := c } }).reconfigures (s.portsOf 0)

def execPortCfgWrite (port : Fin 24) (a : RegAccess) (s : State) : Out := whenReady s (portCfgWrite port a)
def execNodeIdWrite (a : RegAccess) (s : State) : Out := whenReady s (nodeIdWrite a)
def execNetConfigWrite (r : NetReg) (a : RegAccess) (s : State) : Out := whenReady s (netConfigWrite r a)

/-! ### Loop-backs (R408, R412) -/

/-- ETH_LOOP_WRITE. Counters are cleared; those a running generator moves are free values from then on (log 32). -/
def ethLoopWrite (p : Fin 24) (a : RegAccess) (s : State) : State :=
  let x := s.port p.val
  let v := accessValue a (x.loopMode + at_ x.loopPattern 3)
  let m := bits v 2 0
  let pat := bits v 5 3
  if 5 < m ∨ 3 < pat ∨ (pat ≠ 0 ∧ m ≠ 0 ∧ m ≠ 3) then s
  else
    let g := s.draw
    let frames := m == 1 || m == 2 || m == 5
    let fresh := fun (w k : Nat) => Config.freeBits w g.1 k
    let y : Port := { x with
        loopMode := m, loopPattern := pat
        laneErrors := if pat = 0 then 0 else fresh 64 0
        sent := if frames then fresh 32 1 else 0
        good := if frames then fresh 32 2 else 0 }
    let s1 := g.2.setPort p.val y
    if m = x.loopMode then s1
    else s1.takeDown p.val 4

def execEthLoopWrite (port : Fin 24) (a : RegAccess) (s : State) : Out := whenReady s (ethLoopWrite port a)

/-! ### Neighbour discovery (R253) -/

/-- NEIGHBOR_SOLICITATION on an Ethernet-role port in UP, or on the management port (R390), is answered for the
module's address. -/
def neighborSolicitation (port : Option (Fin 24)) (ip : BitVec 128) (src : BitVec 48) (s : State) : State :=
  let on := match port with
    | some p => (s.port p.val).role == 0 && (s.port p.val).state == portUp && ip == s.ip6
    | none => false
  if on then s.send (.advert (port.map (·.val)) src ip) else s

/-- ROUTER_ADVERTISEMENT: the next hop of a port. -/
def routerAdvertisement (p : Fin 24) (mac : BitVec 48) (s : State) : State :=
  let x := s.port p.val
  if x.role = 0 ∧ x.state = portUp then s.setPort p.val { x with nextHop := some mac } else s

def execRouterAdvertisement (port : Fin 24) (mac : BitVec 48) (s : State) : Out :=
  whenReady s (routerAdvertisement port mac)

end Sys2Proof.Machine
end

