-- ==== Sys2Proof/Machine/Mgmt.lean ====
section
/-! DEFINITION. The management path (R385 to R390): endpoint, reports and their acknowledgement, status, the collector,
and the fixed-function sender of a lockstep fault. -/

namespace Sys2Proof.Machine

/-- Gyton serves every management message: it runs and holds no recovery (R376). -/
def State.mgmtServed (s : State) : Bool := s.gytonRuns && s.life.phase != .recovery

/-! ### Reports -/

/-- R386: the body of a FAULT_REPORT. The record's phase bit is 0 in a report (log 41). -/
def State.reportBody (s : State) (r : Report) : List Byte :=
  leBytes 4 r.seq ++ leBytes 4 (s.netReg 0) ++ leBytes 4 r.dropped ++ zeros 4 ++
    eventBytes r.event false (r.evSeq.getD 0xFFFFFFFF)

/-- Sends a report to the controller that set the EID, and to the collector (R385, R390). -/
def State.sendReport (s : State) (r : Report) : State :=
  let body := s.reportBody r
  let s1 := if s.fw.eid = 0 then s else s.send (.mgmt 1 false (r.seq % 2 ^ 16) body)
  match s1.fw.collector with
  | some c => s1.send (.collector c.1 c.2 body)
  | none => s1

def State.sendReports (s : State) : List Report → State
  | [] => s
  | r :: rs => (s.sendReport r).sendReports rs

/-- R388: counts a dropped report. -/
def State.dropReport (s : State) : State :=
  { s with fw := { s.fw with mgmtDropped := satCount 32 (s.fw.mgmtDropped + 1), droppedSince := satCount 32 (s.fw.droppedSince + 1) } }

/-- Puts a report at the queue's end, and sends it. -/
def State.queueReport (s : State) (e : EventRec) (n : Option Nat) : State :=
  let r : Report := { seq := s.fw.nextSeq, event := e, evSeq := n, dropped := s.fw.droppedSince }
  let s1 : State := { s with fw := { s.fw with queue := s.fw.queue ++ [r], nextSeq := (s.fw.nextSeq + 1) % 0xFFFFFFFF
                                               droppedSince := 0 } }
  s1.sendReport r

/-- FAULT_REPORT (R387, R388): the oldest event bound for the management path reaches the queue of 1,024. -/
def faultReport (s : State) : State :=
  match s.fw.bound with
  | [] => s
  | (e, n) :: rest =>
    let s1 : State := { s with fw := { s.fw with bound := rest } }
    if s1.fw.queue.length < 1024 then s1.queueReport e n
    else if e.kind = 1 then
      match s1.fw.queue.find? (fun r => r.event.kind != 1) with
      | none => s1.dropReport
      | some old =>
        let s2 : State := { s1 with fw := { s1.fw with queue := s1.fw.queue.erase old } }
        s2.dropReport.queueReport e n
    else s1.dropReport

/-- REPORT_RESEND (R388). -/
def reportResend (s : State) : State :=
  match s.fw.queue with
  | [] => s
  | r :: _ => s.sendReport r

/-- REPORT_ACK (R386, R388): reports up to one received in order leave the queue. -/
def reportAck (seq : BitVec 32) (s : State) : State :=
  { s with fw := { s.fw with queue := s.fw.queue.filter (fun r => !decide ((seq.toNat + 2 ^ 32 - r.seq) % 2 ^ 32 < 2 ^ 31)) } }

def execFaultReport (s : State) : Out := done s (s.onlyIf s.gytonRuns faultReport)
def execReportResend (s : State) : Out := done s (s.onlyIf s.gytonRuns reportResend)
def execReportAck (seq : BitVec 32) (s : State) : Out := done s (s.onlyIf s.mgmtServed (reportAck seq))

/-! ### The endpoint (R385) -/

/-- SET_ENDPOINT_ID: reports go to the EID that set it, those in the queue first. -/
def setEndpointId (requester eid : BitVec 8) (s : State) : State :=
  let s1 : State := { s with fw := { s.fw with eid := eid, requester := requester } }
  if eid = 0 then s1 else s1.sendReports s1.fw.queue

/-- I3C_ADDRESS_ASSIGN: I3C only, until reset. -/
def i3cAddressAssign (a : BitVec 7) (s : State) : State := { s with fw := { s.fw with i3c := some a } }

def execSetEndpointId (requester eid : BitVec 8) (s : State) : Out := done s (s.onlyIf s.gytonRuns (setEndpointId requester eid))
def execI3cAddressAssign (a : BitVec 7) (s : State) : Out := done s (s.onlyIf s.gytonRuns (i3cAddressAssign a))

/-! ### Messages (R386) -/

/-- SET_BOARD_CAP (R365, R366). -/
def setBoardCap (seq watts : BitVec 16) (s : State) : State :=
  let w := watts.toNat
  if w < 1000 ∨ 2400 < w then s.send (.mgmt 3 true seq.toNat (leBytes 1 2))
  else (({ s with power := { s.power with boardCap := w } }).limitChanged s).send (.mgmt 3 true seq.toNat (leBytes 1 0))

/-- GET_STATUS: its items in the order listed, each in 8 bytes (log 41). -/
def State.statusBody (s : State) : List Byte :=
  leBytes 1 0 ++ ([0x3220, s.variantCode, s.fuses.stepping.toNat, 1, s.readyBit, s.telemetryReg 0x200, s.telemetryReg 0x210,
    s.telemetryReg 0x218, s.telemetryReg 0x220, s.telemetryReg 0x228, s.proof.stepNow, s.proof.stepProved, s.fwState].flatMap (leBytes 8))

def getStatus (seq : BitVec 16) (s : State) : State := s.send (.mgmt 4 true seq.toNat s.statusBody)

/-- SET_COLLECTOR (R390). -/
def setCollector (seq : BitVec 16) (ip : BitVec 128) (udp : BitVec 16) (iface : BitVec 8) (s : State) : State :=
  if 1 < iface.toNat then s.send (.mgmt 5 true seq.toNat (leBytes 1 2))
  else
    let c := if ip = 0 then none else some (ip, udp)
    ({ s with fw := { s.fw with collector := c, collIface := iface } }).send (.mgmt 5 true seq.toNat (leBytes 1 0))

def execSetBoardCap (seq watts : BitVec 16) (s : State) : Out := done s (s.onlyIf s.mgmtServed (setBoardCap seq watts))
def execGetStatus (seq : BitVec 16) (s : State) : Out := done s (s.onlyIf s.gytonRuns (getStatus seq))
def execSetCollector (seq : BitVec 16) (ip : BitVec 128) (udp : BitVec 16) (iface : BitVec 8) (s : State) : Out :=
  done s (s.onlyIf s.mgmtServed (setCollector seq ip udp iface))

/-! ### Neighbour discovery (R253, R390) -/

/-- The link-local address of the management port, from MAC_BASE + 24 by the modified EUI-64 of RFC 4291 (log 44). -/
def State.mgmtIp (s : State) : BitVec 128 :=
  let m := (s.fuses.macBase + 24).toNat
  BitVec.ofNat 128 (at_ 0xFE80 112 + at_ (Nat.xor (m / 2 ^ 24) 0x020000) 40 + at_ 0xFFFE 24 + m % 2 ^ 24)

/-- A solicitation on the management port: answered once a collector is set. -/
def mgmtSolicitation (ip : BitVec 128) (src : BitVec 48) (s : State) : State :=
  if s.fw.collector.isSome && ip == s.mgmtIp then s.send (.advert none src ip) else s

/-- NEIGHBOR_SOLICITATION. -/
def solicitation (port : Option (Fin 24)) (ip : BitVec 128) (src : BitVec 48) (s : State) : State :=
  match port with
  | some _ => s.onlyIf s.isReady (neighborSolicitation port ip src)
  | none => s.onlyIf s.mgmtServed (mgmtSolicitation ip src)

def execNeighborSolicitation (port : Option (Fin 24)) (ip : BitVec 128) (from_ : BitVec 48) (s : State) : Out :=
  done s (solicitation port ip from_ s)

/-! ### Lockstep (R310, R389) -/

/-- The preformed report of the fixed-function sender. -/
def lockstepEvent : EventRec :=
  { kind := 1, code := 0x0E, step := 0, opTag := 0, subject := 0, detail := padTo 32 (faultDetail 2 0 0 0 0 noColumns), time := 0
    mgmt := true }

/-- Sends the preformed report by the binding in use, and to the collector if one is set. -/
def State.sendFixed (s : State) : State :=
  let s1 := s.send (.fixedReport 0x0E)
  match s1.fw.collector with
  | some c => s1.send (.collector c.1 c.2 (s1.reportBody { seq := 0xFFFFFFFF, event := lockstepEvent, evSeq := none, dropped := 0 }))
  | none => s1

/-- LOCKSTEP: the pair may diverge whenever it runs, during start-up and in a stop that left Gyton running too. -/
def lockstep (s : State) : State := if s.gytonRuns then (s.halt .lockstep).sendFixed else s

/-- LOCKSTEP_REPORT_REPEAT. -/
def lockstepReportRepeat (s : State) : State := if s.life.phase = .stopped .lockstep then s.sendFixed else s

def execLockstep (s : State) : Out := done s (lockstep s)
def execLockstepReportRepeat (s : State) : Out := done s (lockstepReportRepeat s)

end Sys2Proof.Machine
end

