-- ==== Sys2Proof/Machine/Attest.lean ====
section
/-! DEFINITION. Attestation: the SPDM 1.2 responder (R381 to R383) and the link IDE stream keyed by IDE_KM (R384).
Message codes and the order of requests are those of SPDM 1.2 and IDE_KM, which R382 and R384 name (log 42). -/

namespace Sys2Proof.Machine

/-- A transport carries SPDM: the link for DOE, Gyton for both (R376). -/
def State.spdmServed (s : State) (t : SpdmPath) : Bool :=
  s.gytonRuns && (s.life.phase != .recovery || s.fw.gyton.running.isSome) &&
    (match t with | .doe => s.pcie.linkUp && s.pcie.cfgReady | .mctp => true)

def State.spdm (s : State) (t : SpdmPath) : Spdm := match t with | .doe => s.fw.spdmDoe | .mctp => s.fw.spdmMctp

def State.setSpdm (s : State) (t : SpdmPath) (x : Spdm) : State :=
  match t with
  | .doe => { s with fw := { s.fw with spdmDoe := x } }
  | .mctp => { s with fw := { s.fw with spdmMctp := x } }

/-- An ERROR response: 0x01 InvalidRequest, 0x04 UnexpectedRequest, 0x06 DecryptError, 0x07 UnsupportedRequest, 0x0A
SessionLimitExceeded. -/
def State.spdmError (s : State) (t : SpdmPath) (code : Nat) : State := s.send (.spdm t 0x7F (leBytes 1 code))

def State.spdmReply (s : State) (t : SpdmPath) (code : Nat) (body : List Byte) : State := s.send (.spdm t code body)

/-- Answers only once the connection has come so far. -/
def State.spdmAfter (s : State) (t : SpdmPath) (ready : Bool) (f : State → State) : State :=
  if ready then f s else s.spdmError t 4

/-- A signature by the device identity key (log 17). -/
def State.sign (s : State) (m : List Byte) : State × List Byte :=
  let g := s.draw
  (g.2, leBytes 512 (Config.signPss m g.1).toNat)

def State.chain (s : State) : List Byte := Config.certificateChain s.fuses.serial
def State.chainDigest (s : State) : List Byte := leBytes 64 (Config.sha512 s.chain).toNat

/-! ### The connection -/

/-- GET_VERSION: 1.2, and the connection begins again. -/
def getVersion (t : SpdmPath) (s : State) : State :=
  (s.setSpdm t { s.spdm t with version := true, caps := false, algs := false }).spdmReply t 0x04 [0, 1, 0x00, 0x12]

/-- GET_CAPABILITIES: CERT, CHAL, MEAS with signature, MEAS_FRESH, ENCRYPT, MAC, KEY_EX, HBEAT, KEY_UPD. -/
def getCapabilities (t : SpdmPath) (s : State) : State :=
  s.spdmAfter t (s.spdm t).version (fun x => (x.setSpdm t { x.spdm t with caps := true }).spdmReply t 0x61 (leBytes 4 0x62F6))

/-- NEGOTIATE_ALGORITHMS: `offered` has a bit each for the asymmetric, hash, DHE and AEAD algorithm of R382. -/
def negotiateAlgorithms (t : SpdmPath) (offered : BitVec 4) (s : State) : State :=
  s.spdmAfter t (s.spdm t).caps (fun x =>
    if offered = 0xF then (x.setSpdm t { x.spdm t with algs := true }).spdmReply t 0x63 (leBytes 1 0xF) else x.spdmError t 1)

/-- GET_DIGESTS: slot 0. -/
def getDigests (t : SpdmPath) (s : State) : State :=
  s.spdmAfter t (s.spdm t).algs (fun x => x.spdmReply t 0x01 (leBytes 1 1 ++ x.chainDigest))

/-- GET_CERTIFICATE: a portion of the chain of slot 0, its length and what remains. -/
def getCertificate (t : SpdmPath) (slot : BitVec 4) (off len : BitVec 16) (s : State) : State :=
  s.spdmAfter t (s.spdm t).algs (fun x =>
    let c := x.chain
    if slot ≠ 0 ∨ c.length ≤ off.toNat then x.spdmError t 1
    else
      let part := (c.drop off.toNat).take len.toNat
      x.spdmReply t 0x02 (leBytes 2 part.length ++ leBytes 2 (c.length - off.toNat - part.length) ++ part))

/-- CHALLENGE. -/
def challenge (t : SpdmPath) (slot : BitVec 4) (nonce : BitVec 256) (s : State) : State :=
  s.spdmAfter t (s.spdm t).algs (fun x =>
    if slot ≠ 0 then x.spdmError t 1
    else
      let r := x.sign (leBytes 32 nonce.toNat ++ x.chainDigest)
      r.1.spdmReply t 0x03 (x.chainDigest ++ r.2))

/-! ### Measurements (R383) -/

def digestOf (i : Option ImageInfo) : List Byte := leBytes 64 (match i with | some x => x.digest.toNat | none => 0)

/-- Block 5: the spare maps, then in 8 bytes the lane spares of each die and the core CC7 replaces (log 42). -/
def State.spareBlock (s : State) : List Byte :=
  leBytes 8 s.plate.spares0.toNat ++ leBytes 8 s.plate.spares1.toNat ++
    leBytes 1 (s.plate.laneSpares.filter (fun l => l / 2048 == 0)).length ++
    leBytes 1 (s.plate.laneSpares.filter (fun l => l / 2048 == 1)).length ++
    leBytes 1 (s.plate.coreRetired.getD 0xFF) ++ zeros 5

/-- The 64-byte record that block 4 digests. -/
def State.configRecord (s : State) : List Byte :=
  padTo 64 (leBytes 1 s.variantCode ++ leBytes 1 s.fuses.stepping.toNat ++ leBytes 1 s.fuses.fuseCount ++
    leBytes 1 (bitOf s.fw.firewall) ++ leBytes 1 (bitOf (s.pcie.ide != .off)))

def State.measurement (s : State) (i : Nat) : List Byte :=
  match i with
  | 1 => leBytes 64 Config.romDigest.toNat
  | 2 => digestOf s.fw.gyton.running
  | 3 => digestOf s.fw.rolrohan.running
  | 4 => leBytes 64 (Config.sha512 s.configRecord).toNat
  | 5 => s.spareBlock
  | 6 => [1]
  | _ =>
    let sec := fun (x : Option ImageInfo) => leBytes 1 ((x.map (·.secVersion)).getD 0)
    sec s.fw.gyton.running ++ sec s.fw.rolrohan.running ++ leBytes 1 s.fuses.fuseCount

/-- A block: its index, the length of its value, the value. -/
def State.measurementBlock (s : State) (i : Nat) : List Byte :=
  leBytes 1 i ++ leBytes 2 (s.measurement i).length ++ s.measurement i

/-- GET_MEASUREMENTS: the number of blocks, one block, or all of them at one instant. -/
def getMeasurements (t : SpdmPath) (index : BitVec 8) (signed : Bool) (nonce : BitVec 256) (s : State) : State :=
  s.spdmAfter t (s.spdm t).algs (fun x =>
    let i := index.toNat
    if 7 < i ∧ i ≠ 0xFF then x.spdmError t 1
    else
      let body := if i = 0 then leBytes 1 7
        else if i = 0xFF then ([1, 2, 3, 4, 5, 6, 7].flatMap x.measurementBlock) else x.measurementBlock i
      if signed then
        let r := x.sign (leBytes 32 nonce.toNat ++ body)
        r.1.spdmReply t 0x60 (body ++ r.2)
      else x.spdmReply t 0x60 body)

/-! ### Sessions -/

def spdmSubject (t : SpdmPath) : Nat := match t with | .doe => 0 | .mctp => 1

/-- KEY_EXCHANGE: at most one session per transport. -/
def keyExchange (t : SpdmPath) (body : List Byte) (s : State) : State :=
  s.spdmAfter t (s.spdm t).algs (fun x =>
    if (x.spdm t).session.isSome then x.spdmError t 0x0A
    else
      let g := x.draw
      let secret := Config.sessionSecret g.1 body
      let s1 := g.2.setSpdm t { x.spdm t with session := some secret, established := false, keyGen := 0 }
      let s2 : State := { s1 with fw := { s1.fw with secrets := s1.fw.secrets ++ [secret] } }
      let r := s2.sign (leBytes 8 g.1 ++ body)
      r.1.spdmReply t 0x64 r.2)

/-- FINISH. One that does not verify ends the handshake. -/
def finish (t : SpdmPath) (body : List Byte) (s : State) : State :=
  match (s.spdm t).session with
  | none => s.spdmError t 4
  | some k =>
    if (s.spdm t).established then s.spdmError t 4
    else if Config.finishVerifies k body then
      (((s.setSpdm t { s.spdm t with established := true })).raise 9 9 s.currentStep 0 (spdmSubject t) (leBytes 1 1)).spdmReply
        t 0x65 []
    else (s.setSpdm t { s.spdm t with session := none }).spdmError t 6

/-- END_SESSION. -/
def endSession (t : SpdmPath) (s : State) : State :=
  s.spdmAfter t (s.spdm t).established (fun x =>
    ((x.setSpdm t { x.spdm t with session := none, established := false }).raise 9 9 x.currentStep 0 (spdmSubject t)
      (leBytes 1 0)).spdmReply t 0x6C [])

/-- HEARTBEAT. -/
def heartbeat (t : SpdmPath) (s : State) : State :=
  s.spdmAfter t (s.spdm t).established (fun x => x.spdmReply t 0x68 [])

/-- KEY_UPDATE. -/
def keyUpdate (t : SpdmPath) (s : State) : State :=
  s.spdmAfter t (s.spdm t).established (fun x =>
    (x.setSpdm t { x.spdm t with keyGen := (x.spdm t).keyGen + 1 }).spdmReply t 0x69 [])

/-- SPDM_UNSUPPORTED_REQUEST: the request codes of R382 apart, every request. -/
def spdmUnsupportedRequest (t : SpdmPath) (_code : BitVec 8) (s : State) : State := s.spdmError t 7

/-! ### IDE (R384) -/

/-- IDE_KM over the secured session on DOE: QUERY_RESP, KP_ACK or K_GOSTOP_ACK in a vendor-defined response. -/
def ideKm (k : IdeRequest) (s : State) : State :=
  s.spdmAfter .doe s.fw.spdmDoe.established (fun x =>
    match k with
    | .query => x.spdmReply .doe 0x7E [1]
    | .keyProg rx key =>
      let p := x.pcie
      let st : IdeState := if p.ide = IdeState.off then IdeState.keyed else p.ide
      let p1 : Pcie := if rx then { p with ideKeyRx := key, ide := st } else { p with ideKeyTx := key, ide := st }
      ({ x with pcie := p1 }).spdmReply .doe 0x7E [3]
    | .setGo =>
      let p := x.pcie
      ({ x with pcie := { p with ide := if p.ide = IdeState.keyed then IdeState.secure else p.ide } }).spdmReply .doe 0x7E [6]
    | .setStop => ({ x with pcie := { x.pcie with ide := .off } }).spdmReply .doe 0x7E [6])

/-- IDE_FAILED: the TLP is dropped, and the stream moves to Insecure. -/
def ideFailed (s : State) : State :=
  if s.pcie.ide = .secure then
    ({ s with pcie := { s.pcie with ide := .insecure } }).raise 9 8 s.currentStep 0 0 []
  else s

def execGetVersion (t : SpdmPath) (s : State) : Out := done s (s.onlyIf (s.spdmServed t) (getVersion t))
def execGetCapabilities (t : SpdmPath) (s : State) : Out := done s (s.onlyIf (s.spdmServed t) (getCapabilities t))
def execNegotiateAlgorithms (t : SpdmPath) (offered : BitVec 4) (s : State) : Out :=
  done s (s.onlyIf (s.spdmServed t) (negotiateAlgorithms t offered))
def execGetDigests (t : SpdmPath) (s : State) : Out := done s (s.onlyIf (s.spdmServed t) (getDigests t))
def execGetCertificate (t : SpdmPath) (slot : BitVec 4) (off len : BitVec 16) (s : State) : Out :=
  done s (s.onlyIf (s.spdmServed t) (getCertificate t slot off len))
def execChallenge (t : SpdmPath) (slot : BitVec 4) (nonce : BitVec 256) (s : State) : Out :=
  done s (s.onlyIf (s.spdmServed t) (challenge t slot nonce))
def execGetMeasurements (t : SpdmPath) (index : BitVec 8) (signed : Bool) (nonce : BitVec 256) (s : State) : Out :=
  done s (s.onlyIf (s.spdmServed t) (getMeasurements t index signed nonce))
def execKeyExchange (t : SpdmPath) (body : List Byte) (s : State) : Out :=
  done s (s.onlyIf (s.spdmServed t) (keyExchange t body))
def execFinish (t : SpdmPath) (body : List Byte) (s : State) : Out := done s (s.onlyIf (s.spdmServed t) (finish t body))
def execEndSession (t : SpdmPath) (s : State) : Out := done s (s.onlyIf (s.spdmServed t) (endSession t))
def execHeartbeat (t : SpdmPath) (s : State) : Out := done s (s.onlyIf (s.spdmServed t) (heartbeat t))
def execKeyUpdate (t : SpdmPath) (s : State) : Out := done s (s.onlyIf (s.spdmServed t) (keyUpdate t))
def execSpdmUnsupportedRequest (t : SpdmPath) (code : BitVec 8) (s : State) : Out :=
  done s (s.onlyIf (s.spdmServed t) (spdmUnsupportedRequest t code))
def execIdeKm (k : IdeRequest) (s : State) : Out := done s (s.onlyIf (s.spdmServed .doe) (ideKm k))
def execIdeFailed (s : State) : Out := done s (s.onlyIf s.functionRuns ideFailed)

end Sys2Proof.Machine
end

