-- ==== Sys2Proof/Machine/Sem.lean ====
section
/-! DEFINITION. Semaphores and the WAITs that watch them (R203, R205, R206). -/

namespace Sys2Proof.Machine

def State.sem (s : State) (i : Nat) : BitVec 32 := s.seq.sems.get i

/-- Fields of a WAIT (R205). -/
def Op.waitCond (o : Op) : Nat := bits (o.w 0) 12 11
def Op.consumes (o : Op) : Bool := bit (o.w 0) 13
def Op.semIndex (o : Op) : Nat := bits (o.w 0x10) 15 0
def Op.waitTarget (o : Op) : BitVec 32 := BitVec.ofNat 32 (o.w 0x18)
def Op.waitLimitUs (o : Op) : Nat := bits (o.w 0x18) 63 32

/-- R205: the condition of a WAIT on a value. -/
def Op.condHolds (o : Op) (v : BitVec 32) : Bool :=
  let t := o.waitTarget
  match o.waitCond with
  | 0 => decide (t.toNat ≤ v.toNat)
  | 1 => v == t
  | 2 => decide ((v - t).toNat < 2 ^ 31)
  | _ => false

/-- Issued WAITs on a semaphore in the order they issued. -/
def State.waitsOn (s : State) (i : Nat) : List Nat :=
  ((s.seq.window.filter (fun o => o.kind == opWait && o.phase == .issued && o.semIndex == i)).mergeSort
    (fun a b => a.sum ≤ b.sum)).map (·.id)

/-- Completes an issued WAIT whose condition holds: it consumes, and its record holds the value it observed. A record that must
wait (R327) leaves the WAIT as it is. -/
def State.takeWait (s : State) (id : Nat) : Option (State × Op) :=
  match s.op id with
  | none => none
  | some o =>
    let v := s.sem o.semIndex
    if o.kind = opWait ∧ o.phase = .issued ∧ o.condHolds v then
      let s1 := if o.consumes then
          { s with seq := { s.seq with sems := s.seq.sems.set o.semIndex (v - o.waitTarget) } }
        else s
      (s1.finishOp o 0 none (fun st => shortRecord st 0 o.tag v.toNat s.clock.time)).map (fun t => (t, o))
    else none

/-- R205: tests WAITs in order; one that consumes has changed the semaphore, so every WAIT on it is tested again. -/
def State.testRuns : Nat → State → List Nat → State
  | 0, s, _ => s
  | _, s, [] => s
  | fuel + 1, s, i :: is =>
    match s.takeWait i with
    | none => State.testRuns fuel s is
    | some (t, o) => State.testRuns fuel t (if o.consumes then t.waitsOn o.semIndex else is)

/-- Enough tests: every success removes a WAIT from the window. -/
def State.testWaits (s : State) (ids : List Nat) : State :=
  State.testRuns (ids.length + (s.seq.window.length + 1) * (s.seq.window.length + 1)) s ids

def State.testWait (s : State) (id : Nat) : State := s.testWaits [id]

/-- Sets a semaphore and tests the WAITs on it. -/
def State.setSem (s : State) (i : Nat) (v : BitVec 32) : State :=
  let s1 : State := { s with seq := { s.seq with sems := s.seq.sems.set i v } }
  s1.testWaits (s1.waitsOn i)

/-- R203: adds to a semaphore modulo 2^32. -/
def State.addSem (s : State) (i : Nat) (v : BitVec 32) : State := s.setSem i (s.sem i + v)

/-- SEM_VALUE_WRITE: an 8-byte access covers the next semaphore too, lower address first. -/
def semValueWrite (i : BitVec 16) (v : BitVec 32) (next : Option (BitVec 32)) (s : State) : State :=
  let s1 := s.setSem i.toNat v
  match next with
  | some w => if i.toNat % 2 = 0 then s1.setSem (i.toNat + 1) w else s
  | none => s1

/-- SEM_ADD_WINDOW_WRITE. -/
def semAddWindowWrite (i : BitVec 16) (v : BitVec 32) (next : Option (BitVec 32)) (s : State) : State :=
  let s1 := s.addSem i.toNat v
  match next with
  | some w => if i.toNat % 2 = 0 then s1.addSem (i.toNat + 1) w else s
  | none => s1

def execSemValueWrite (i : BitVec 16) (v : BitVec 32) (next : Option (BitVec 32)) (s : State) : Out :=
  whenReady s (semValueWrite i v next)
def execSemAddWindowWrite (i : BitVec 16) (v : BitVec 32) (next : Option (BitVec 32)) (s : State) : Out :=
  whenReady s (semAddWindowWrite i v next)

/-! ### SIGNAL and WAIT (R204, R205) -/

/-- R5, R52, R436, R437: bits every short op descriptor reserves: CHECK, NEXT's upper bits and alignment, RESULT_ADDR's
upper bits and alignment, and the bytes from 0x28 on. -/
def Op.shortBad (o : Op) : Bool :=
  bits (o.w 0) 10 9 != 0 || bits (o.w 8) 63 48 != 0 || bits (o.w 8) 47 0 % 128 != 0 ||
    bits (o.w 0x20) 63 48 != 0 || o.resultAddr % 32 != 0 || field o.desc 0x28 88 != 0

/-- Completes an op with BAD_DESCRIPTOR and no other effect. -/
def State.badOp (s : State) (o : Op) : Option State :=
  let i := s.issue o
  i.1.finishOp i.2 0x20 none (i.1.recordOf i.2 s.clock.time)

def Op.signalMember (o : Op) : Nat := bits (o.w 0x10) 18 16
def Op.signalSets (o : Op) : Bool := bit (o.w 0) 11

def State.signalBad (s : State) (o : Op) : Bool :=
  let m := o.signalMember
  o.shortBad || bits (o.w 0) 31 12 != 0 || bits (o.w 0x10) 63 19 != 0 || bits (o.w 0x18) 63 32 != 0 ||
    (m != 7 && (decide (3 < m) || m == s.member || !s.inGroup m || o.signalSets))

/-- SIGNAL: a local change at once, or a SEM_ADD frame whose acknowledgement completes it. -/
def signal (op : Nat) (s : State) : Option State :=
  match s.op op with
  | none => none
  | some o =>
    if o.kind != opSignal || !s.opFree o then none
    else if s.signalBad o then s.badOp o
    else
      let i := s.issue o
      let v : BitVec 32 := BitVec.ofNat 32 (o.w 0x18)
      let m := o.signalMember
      if m = 7 then
        let new := if o.signalSets then v else i.1.sem o.semIndex + v
        match i.1.finishOp i.2 0 none (fun st => shortRecord st 0 o.tag new.toNat s.clock.time) with
        | none => none
        | some t => some (t.setSem o.semIndex new)
      else if s.pairDead m then i.1.finishOp i.2 0x42 none (i.1.recordOf i.2 s.clock.time)
      else some ((i.1.setOp { i.2 with begun := true }).yeSend m 6 o.semIndex 4 0 (leBytes 4 v.toNat) (some op))

def waitBad (o : Op) : Bool :=
  o.shortBad || bits (o.w 0) 31 14 != 0 || bits (o.w 0x10) 63 16 != 0 || o.waitCond == 3 ||
    (o.consumes && o.waitCond == 1)

/-- WAIT: issues and tests its condition; a WAIT already issued is tested again. -/
def wait (op : Nat) (s : State) : Option State :=
  match s.op op with
  | none => none
  | some o =>
    if o.kind != opWait then none
    else if o.phase = .issued then some (s.testWait op)
    else if !s.opFree o then none
    else if waitBad o then s.badOp o
    else
      let n := s.fresh
      let i := n.2.issue { o with sum := n.1 }
      some (i.1.testWait op)

/-- WAIT_TIMEOUT. -/
def waitTimeout (op : Nat) (s : State) : Option State :=
  match s.op op with
  | none => none
  | some o =>
    if o.kind = opWait ∧ o.phase = .issued ∧ o.waitLimitUs ≠ 0 ∧ !o.condHolds (s.sem o.semIndex) then
      s.finishOp o 0x40 none (s.recordOf o s.clock.time)
    else none

def execSignal (op : Nat) (s : State) : Out := whenOp s op (signal op)
def execWait (op : Nat) (s : State) : Out := whenOp s op (wait op)
def execWaitTimeout (op : Nat) (s : State) : Out := whenOp s op (waitTimeout op)

end Sys2Proof.Machine
end

