-- ==== Sys2Proof/Machine/Boundary.lean ====
section
/-! DEFINITION. STEP_MARK, the STEP op and the boundary they make (R319 to R321, R325, R326, R333, R334), SNAPSHOT
(R339), PROVE_STATUS (R199, R321) and EVACUATE (R345). -/

namespace Sys2Proof.Machine

/-! ### STEP_MARK and STEP -/

/-- A boundary that begins now. -/
def boundaryNow (by_ : BoundaryBy) (step epoch : Nat) (replay : Bool) (time : Nat) : Boundary :=
  { by_ := by_, step := step, epoch := epoch, replay := replay, table := none, bad := [], undone := 0, forgotten := 0
    since := time }

/-- R333 step 1: the COLLs of failed steps end. -/
def State.endFailedColls (s : State) : List CollRun → State
  | [] => s
  | r :: rs =>
    let failed : Op → Bool := fun o => match o.step with
      | some n => (s.step_ n).any (fun x => x.st == .failed)
      | none => false
    (match s.op r.op with
     | some o => if failed o then s.failColl o r 0x60 none true else s
     | none => s).endFailedColls rs

/-- STEP_MARK: the case of R320, or the refusal. -/
def stepMark (ring : Fin 64) (s : State) : Option State :=
  if s.proof.boundary.isSome then none
  else
    match s.startCmd ring.val cmdStepMark with
    | none => none
    | some (c, s1) =>
      let n := c.w 0x10
      let epoch := bits (c.w 0x18) 31 0
      let p := s1.proof.stepProved
      let begin_ := fun (replay : Bool) =>
        let b := boundaryNow (.mark ring.val c.id) n epoch replay s1.clock.time
        some ({ s1 with proof := { s1.proof with boundary := some b } }.endFailedColls
          (if replay then s1.net.colls else []))
      if c.headerBad || bits (c.w 0x18) 63 32 != 0 || c.restBad 0x20 || decide (epoch < s1.net.epoch) then
        some (s1.badCmd ring.val c)
      else if s1.proof.steps.isEmpty then begin_ false
      else if n = s1.proof.stepNow + 1 then
        (if s1.stepFailed then some (s1.complete ring.val c.id 0x61 false 0) else begin_ false)
      else if n = (p + 1) % 2 ^ 64 ∧ n ≤ s1.proof.stepNow then begin_ true
      else some (s1.badCmd ring.val c)

/-- R5, R321, R436, R437: reserved bits of a STEP, and its alignments. -/
def Op.stepBad (o : Op) : Bool :=
  bits (o.w 0) 31 9 != 0 || bits (o.w 8) 63 48 != 0 || bits (o.w 8) 47 0 % 128 != 0 || bits (o.w 0x10) 63 48 != 0 ||
    o.resultAddr % 32 != 0 || field o.desc 0x18 104 != 0

/-- STEP: begins the boundary that closes the open step. -/
def stepOp (op : Nat) (s : State) : Option State :=
  match s.op op with
  | none => none
  | some o =>
    if o.kind != opStep || !s.opFree o then none
    else if o.stepBad then s.badOp o
    else
      match s.openStep with
      | none => s.badOp o
      | some c =>
        let i := s.issue o
        let b := boundaryNow (.op op) (c.num + 1) s.net.epoch false s.clock.time
        some { i.1 with proof := { i.1.proof with boundary := some b } }

def execStepMark (ring : Fin 64) (s : State) : Out := whenReadyOr s (stepMark ring)
def execStep (op : Nat) (s : State) : Out := whenReadyOr s (stepOp op)

/-! ### SNAPSHOT (R339) -/

/-- Bytes of 16-bit cells. -/
def cells16 (s : Store 16) (lo n : Nat) : List Byte := (s.read lo n).flatMap (fun x => leBytes 2 x.toNat)
def cells64 (s : Store 64) (lo n : Nat) : List Byte := (s.read lo n).flatMap (fun x => leBytes 8 x.toNat)
def cells32 (s : Store 32) (lo n : Nat) : List Byte := (s.read lo n).flatMap (fun x => leBytes 4 x.toNat)

/-- Packs bits eight to a byte, lowest first. -/
def packBits : Nat → List (BitVec 1) → List Byte
  | 0, _ => []
  | n + 1, bs => BitVec.ofNat 8 (flagBits ((bs.take 8).map (· == 1))) :: packBits n (bs.drop 8)

/-- Predicates, summary registers and function tables of an engine, in that order (log 37). -/
def Engine.smallImage (e : Engine) : List Byte :=
  padTo 0x100000 (packBits (8 * 8192) (e.p.read 0 (8 * 65536)) ++ cells64 e.q 0 16 ++ cells64 e.tables 0 (16 * 4096))

/-- Address of the next op of a program that has not issued. -/
def State.resumeAt (s : State) (p : Program) : Nat :=
  match s.seq.window.find? (fun o => o.ring == p.ring && o.phase != .issued) with
  | some o => o.addr
  | none => p.next.getD 0

/-- Programs in flight, 16 bytes each: next op, ring, sequence number. -/
def State.programImage (s : State) : List Byte :=
  padTo 0x200000 (s.seq.programs.flatMap (fun p =>
    leBytes 8 (s.resumeAt p) ++ leBytes 4 p.ring ++ leBytes 4 ((((s.ring p.ring).cmd p.cmd).map (·.seq)).getD 0)))

/-- Header of an image. -/
def imageHeader (step epoch depth scope : Nat) : List Byte :=
  padTo 0x10000 (leBytes 8 step ++ leBytes 4 epoch ++ leBytes 1 depth ++ leBytes 1 scope)

/-- Parts of the image of a closing step: offset and bytes. -/
def State.imageParts (s : State) (c : StepRec) (scope : Nat) : List (Nat × List Byte) :=
  let own := fun (a n : Nat) => s.mem.ram.read a n
  [(0, imageHeader c.num c.epoch s.proof.depth scope), (0x10000, bookImage s.numerics.book),
   (0x310000, cells32 s.seq.sems 0 65536), (0x350000, zeros 0xB0000)] ++
  (if scope = 0 then [] else
    [(0x400000, own 0x20000000000 0x3C000000), (0x3C400000, own 0x20040000000 0x3C000000),
     (0x78400000, own 0x20100000000 0x2000000), (0x7A400000, own 0x20102000000 0x2000000),
     (0x7C400000, cells16 s.vec.e0.v 0 (64 * 65536)), (0x7CC00000, cells16 s.vec.e1.v 0 (64 * 65536)),
     (0x7D400000, s.vec.e0.smallImage), (0x7D500000, s.vec.e1.smallImage),
     (0x7D600000, own 0x30000000000 0x8000000), (0x85600000, s.programImage)])

def imageBytes (scope : Nat) : Nat := if scope = 0 then 0x400000 else 0x85800000

/-- SNAPSHOT: checked, then it waits for a boundary. -/
def snapshot (ring : Fin 64) (s : State) : Option State :=
  match s.startCmd ring.val cmdSnapshot with
  | none => none
  | some (c, s1) =>
    let scope := bits (c.w 0x20) 0 0
    if c.headerBad || devBad (c.w 0x10) || bits (c.w 0x20) 63 1 != 0 || c.restBad 0x28 ||
        decide (c.w 0x18 < imageBytes scope) then some (s1.badCmd ring.val c)
    else some { s1 with proof := { s1.proof with snapshots := s1.proof.snapshots ++ [(ring.val, c.id, s1.mem.ptRoot)] } }

def execSnapshot (ring : Fin 64) (s : State) : Out := whenReadyOr s (snapshot ring)

/-- Writes the parts of an image. -/
def State.writeParts (s : State) (root : Word) (dest : Nat) : List (Nat × List Byte) → State × Option MemErr
  | [] => (s, none)
  | p :: ps =>
    match s.writeDev root allowHbm (dest + p.1) p.2 with
    | (s1, .error e) => (s1, some e)
    | (s1, .ok _) => s1.writeParts root dest ps

/-- A waiting SNAPSHOT copies the image of the closing step and completes. A full image needs both dies, so a failed link ends it
with ABORTED (R11). -/
def State.takeSnapshot (s : State) (c : StepRec) (w : Nat × Nat × Word) : State :=
  match (s.ring w.1).cmd w.2.1 with
  | none => s
  | some k =>
    let scope := bits (k.w 0x20) 0 0
    match (if scope = 1 then s.life.failedLinks else []) with
    | l :: _ => s.complete w.1 w.2.1 0x60 false l
    | [] =>
      match ({ s with actor := some (k.id, 0) } : State).writeParts w.2.2 (k.w 0x10) (s.imageParts c scope) with
      | (s1, none) =>
        let kept := s1.proof.fullImages.filter (fun f => f.1 != c.num && decide (s1.proof.stepProved ≤ f.1))
        (s1.onlyIf (scope = 1) (fun x => { x with proof := { x.proof with
          fullImages := kept ++ [(c.num, k.w 0x10)] } })).complete w.1 w.2.1 0 false 0
      | (s1, some e) => s1.failCmd w.1 k e

/-- Every waiting SNAPSHOT is taken, in the order they came. -/
def State.takeSnapshots (s : State) (c : StepRec) : State :=
  s.proof.snapshots.foldl (fun (x : State) w => x.takeSnapshot c w) { s with proof := { s.proof with snapshots := [] } }

/-! ### Replay (R333, R334) -/

/-- Undoes one redirection: the leaf goes back to the negative, the newer frame to the pool. -/
def State.undoRedir (s : State) (r : Redir) : State :=
  let e := s.ramWord r.pte
  { s with mem := { s.mem with ram := s.mem.ram.write r.pte (leBytes 8 (e % 0x10000 + bits e 63 48 * 2 ^ 48 + r.old)) }
           proof := { s.proof with free := s.proof.free ++ [r.new] } }

/-- Step 3: every redirection of steps from s on, newest first. -/
def State.undoFrom (s : State) (n : Nat) : State :=
  let gone := s.proof.log.filter (fun r => n ≤ r.step)
  let s1 := gone.reverse.foldl State.undoRedir s
  { s1 with mem := { s1.mem with tlb := [] }
            proof := { s1.proof with log := s1.proof.log.filter (fun r => r.step < n) } }

/-- Virtual addresses of the poisoned blocks of kept pages, in the order of the table. -/
def State.poisonedKept (s : State) : List Nat :=
  s.keptPages.flatMap (fun p => match s.frameOf p with
    | none => []
    | some f => ((List.range 1024).filter (fun i => s.mem.poison.get false (f.2 / 64 + i))).map
        (fun i => p * 0x10000 + 64 * i))

/-- A virtual block lies in a unique region. -/
def State.uniqueBlock (s : State) (va : Nat) : Bool := (s.regionOf (va / 0x10000)).any (fun r => !r.replicated)

/-- Region ID and page number within the region of a kept page. -/
def State.regionPage (s : State) (page : Nat) : Nat × Nat :=
  match s.regionOf page with
  | some r => (r.id, page - r.vbase / 0x10000)
  | none => (0, 0)

/-- Asks a node for pages of the committed cut it holds for this module, or for all of it (R333, R338, log 35). -/
def State.askCut (s : State) (node : Nat) (pages : List (Nat × Nat)) : State :=
  s.sendMirror node 5 0 0 pages.length (pages.flatMap (fun p => leBytes 4 p.1 ++ leBytes 4 p.2))

/-- Steps 6 and 7: the epoch actions, step s opens as REPLAYING, and the STEP_MARK completes. -/
def State.finishReplay (s : State) (b : Boundary) : State :=
  let s1 := s.reshard b.epoch
  let s2 : State := { s1 with proof := { s1.proof with steps := [], repair := none, kept := (b.table.orElse (fun _ => s1.proof.kept)) } }
  let s3 := s2.openAs b.step .replaying
  let s4 := s3.raise 3 3 b.step 0 0 (leBytes 8 b.forgotten ++ leBytes 8 b.undone ++ leBytes 8 (s3.clock.time - b.since))
  match b.bad with
  | [] => (s4.endBoundary 0 0).getD s4
  | v :: _ => (s4.endBoundary 0x31 (virtDetail v)).getD s4

/-- Steps 2 to 5. -/
def State.replay (s : State) (b : Boundary) : State :=
  let n := b.step
  let undone := (s.proof.log.filter (fun r => n ≤ r.step)).length
  let book := ((s.step_ n).map (·.book)).getD s.numerics.book
  let s1 : State := { s with numerics := { s.numerics with chains := [] } }
  let s2 := (s1.undoFrom n).clearGstat
  let s3 : State := { s2 with numerics := { s2.numerics with book := book } }
  let bad := s3.poisonedKept
  let unique := bad.filter s3.uniqueBlock
  let b1 : Boundary := { b with bad := bad, undone := undone, forgotten := s3.proof.stepNow - n }
  match s3.proof.partner, unique with
  | some node, _ :: _ =>
    let pages := (unique.map (· / 0x10000)).eraseDups
    let s4 : State := { s3 with proof := { s3.proof with
        boundary := some b1, repair := some (unique.map (fun v => (v / 0x10000, v % 0x10000 / 64))) } }
    s4.askCut node (pages.map s4.regionPage)
  | _, _ => s3.finishReplay b1

/-! ### The boundary acts (R319) -/

/-- Every issued op but the boundary's own STEP, and every started copy, has completed. -/
def State.drainedFor (s : State) (b : Boundary) : Bool :=
  s.host.dma.isEmpty &&
  s.seq.window.all (fun o => o.phase != .issued || (match b.by_ with | .op id => o.id == id | .mark _ _ => false))

/-- R326: whether this boundary reads the kept table. -/
def State.readsKept (s : State) (b : Boundary) : Bool :=
  s.proof.keptWritten && (s.proof.steps.isEmpty || s.proof.keptDirty) &&
    (match b.by_ with | .mark _ _ => true | .op _ => false)

/-- The first case of R320. -/
def State.firstStep (s : State) (b : Boundary) : State :=
  let s0 := match b.table with
    | some k => { s with proof := { s.proof with kept := some k } }
    | none => s
  let s1 : State := { s0 with proof := { s0.proof with
      stepProved := (b.step + 2 ^ 64 - 1) % 2 ^ 64, provedEpoch := b.epoch, log := [], depthLatched := s0.proof.depth } }
  let s2 := ((s1.reshard b.epoch).switchSpares).openAs b.step .isOpen
  (s2.endBoundary 0 0).getD s

/-- An ordinary boundary: the open step closes, and the next opens once the proof window allows. -/
def State.ordinary (s : State) (b : Boundary) (c : StepRec) : State :=
  let s1 := ({ s with proof := { s.proof with boundary := some b } }).closeStep c
  let s2 := (s1.takeSnapshots c).switchSpares
  match s2.proof.boundary with
  | none => s2
  | some _ => ({ s2 with proof := { s2.proof with waiting := true } }).settleProof

/-- STEP_BOUNDARY. A replay whose step was proved while it waited (R326) has no case left in R320 but the last (log 77). -/
def stepBoundary (s : State) : Option State :=
  match s.proof.boundary with
  | none => none
  | some b =>
    if s.proof.waiting then some s.settleProof
    else if !s.drainedFor b || s.proof.repair.isSome then none
    else if b.replay && b.step != (s.proof.stepProved + 1) % 2 ^ 64 then s.endBoundary 0x20 0
    else
      let act := fun (x : State) (y : Boundary) =>
        if b.replay then x.replay y
        else
          match x.openStep with
          | some c => x.ordinary y c
          | none => x.firstStep y
      if s.readsKept b then
        if s.proof.steps.any (fun r => r.st == .latent) then none
        else
          match s.readKept with
          | (s1, .ok k) =>
            some (act { s1 with proof := { s1.proof with keptDirty := false } } { b with table := some k })
          | (s1, .error e) => ({ s1 with proof := { s1.proof with keptDirty := false } }).endBoundary e.1 e.2
      else some (act s b)

def execStepBoundary (s : State) : Out := whenReadyOr s stepBoundary

/-! ### PROVE_STATUS (R199, R321) -/

/-- State code of a step, or none where PROVE_STATUS is refused. -/
def State.stepCode (s : State) (n : Nat) : Option Nat :=
  if n ≤ s.proof.stepProved then some 2
  else if s.proof.steps.isEmpty then (if n ≤ s.proof.stepNow then some 3 else none)
  else if s.proof.stepNow < n then none
  else (s.step_ n).map (fun r => r.st.code)

/-- PROVE_STATUS. -/
def proveStatus (ring : Fin 64) (s : State) : Option State :=
  match s.startCmd ring.val cmdProveStatus with
  | none => none
  | some (c, s1) =>
    if c.headerBad || c.restBad 0x18 then some (s1.badCmd ring.val c)
    else
      match s1.stepCode (c.w 0x10) with
      | none => some (s1.badCmd ring.val c)
      | some k => some (s1.complete ring.val c.id 0 false (k + at_ (s1.proof.stepProved % 2 ^ 56) 8))

def execProveStatus (ring : Fin 64) (s : State) : Out := whenReadyOr s (proveStatus ring)

/-! ### EVACUATE (R201, R345) -/

/-- EVACUATE: an EVACUATE acts ahead of every other command of its ring. -/
def evacuate (ring : Fin 64) (s : State) : Option State :=
  match (s.ring ring.val).cmds.find? (fun c => c.typ == cmdEvacuate && !c.started) with
  | none => none
  | some c =>
    if s.commands.any (fun d => d.typ == cmdEvacuate && d.started) then none
    else
      let s1 := s.markStarted ring.val c.id cmdEvacuate
      if c.headerBad || c.restBad 0x10 then some (s1.badCmd ring.val c)
      else some (s1.evacuateNow.complete ring.val c.id 0 false 0)

def execEvacuate (ring : Fin 64) (s : State) : Out := whenReadyOr s (evacuate ring)

end Sys2Proof.Machine
end

