-- ==== Sys2Proof/Machine/Mirror.lean ====
section
/-! DEFINITION. Mirror partners (R335 to R338): MIRROR_SETUP, cuts staged and committed for a source, restores and
repairs from a partner, and the verdict messages of R322 to R324. -/

namespace Sys2Proof.Machine

/-! ### MIRROR_SETUP (R335, R338) -/

/-- R335: reserved bits of a mirror descriptor. -/
def mirrorBad (bs : List Byte) : Bool :=
  field bs 0 8 % 0x10000 != 0 || bits (field bs 12 4) 30 17 != 0 || bits (field bs 16 4) 30 17 != 0 || field bs 20 44 != 0

/-- The store a descriptor configures; frames of a store hold what the model keeps apart (log 35). -/
def State.setStore (s : State) (bs : List Byte) : State :=
  let base := field bs 0 8
  let src := field bs 12 4
  let st : MirrorStore :=
    if base = 0 then MirrorStore.none
    else { base := base, pages := field bs 8 4, source := bits src 16 0, valid := bit src 31, staged := [], committed := none }
  let s1 : State := { s with proof := { s.proof with store := st } }
  if base = 0 then s1 else s1.undefAt base (st.pages * 0x10000)

/-- Names the outgoing partner, from the next step that closes on; a new one is sent that cut whole. -/
def State.setPartner (s : State) (enable : Bool) (node : Nat) : State :=
  if !enable then { s with proof := { s.proof with partner := none, partnerWhole := false } }
  else if s.proof.partner = some node then s
  else { s with proof := { s.proof with partner := some node, partnerWhole := false } }

/-- MIRROR_SETUP. One that restores holds the next that does until it completes; a source in dead-letter ends it at once (R255). -/
def mirrorSetup (ring : Fin 64) (s : State) : Option State :=
  match s.startCmd ring.val cmdMirrorSetup with
  | none => none
  | some (c, s1) =>
    let w := c.w 0x10
    let table := c.w 0x18
    let set := fun (x : State) => x.setPartner (bit w 32) (bits w 16 0)
    if c.headerBad || bits w 31 17 != 0 || bits w 63 33 != 0 || devBad table || c.restBad 0x20 then
      some (s1.badCmd ring.val c)
    else if table = 0 then some ((set s1).complete ring.val c.id 0 false 0)
    else
      match s1.readDev s1.mem.ptRoot allowOwn table 64 with
      | (s2, .error e) => some (s2.failCmd ring.val c e)
      | (s2, .ok bs) =>
        let from_ := field bs 16 4
        if mirrorBad bs || (bit from_ 31 && s2.openStep.isSome) then some (s2.badCmd ring.val c)
        else if field bs 0 8 ≠ 0 ∧ !s2.inHbm (field bs 0 8) (field bs 8 4 * 0x10000) then
          some (s2.complete ring.val c.id 0x21 false (max (field bs 0 8) s2.hbmBytes))
        else
          if !bit from_ 31 then some (((set s2).setStore bs).complete ring.val c.id 0 false 0)
          else if s2.proof.restore.isSome then none
          else
            match s2.readKept with
            | (s3, .error e) => some (s3.complete ring.val c.id e.1 false e.2)
            | (s3, .ok k) =>
              let node := bits from_ 16 0
              let s4 := (set s3).setStore bs
              if (s4.session node).dead then some (s4.complete ring.val c.id 0x42 false 0)
              else some (({ s4 with proof := { s4.proof with
                  kept := some k, restore := some (node, ring.val, c.id) } }).askCut node [])

def execMirrorSetup (ring : Fin 64) (s : State) : Out := whenReadyOr s (mirrorSetup ring)

/-! ### Restoring and repairing -/

/-- Virtual page of a region's page. -/
def State.kvPage (s : State) (region page : Nat) : Option Nat :=
  match s.proof.kept with
  | none => none
  | some k =>
    match k.regions.find? (fun r => r.id == region && !r.replicated) with
    | some r => if page < r.pages then some (r.vbase / 0x10000 + page) else none
    | none => none

/-- R338: writes a restored page. -/
def State.restorePage (s : State) (page : Nat) (bytes : List Byte) : State :=
  match s.frameOf page with
  | some f => s.store f.2 bytes
  | none => s

/-- R333 step 5: writes the poisoned blocks of one page whole. -/
def State.repairBlocks (s : State) (frame : Nat) (bytes : List Byte) : List Nat → State
  | [] => s
  | i :: is => (s.store (frame + 64 * i) ((bytes.drop (64 * i)).take 64)).repairBlocks frame bytes is

/-- A page of the partner's committed cut arrives for a replay. -/
def State.repairPage (s : State) (page : Nat) (bytes : List Byte) (todo : List (Nat × Nat)) (b : Boundary) : State :=
  match s.frameOf page with
  | none => s
  | some f =>
    let mine := (todo.filter (fun x => x.1 == page)).map (·.2)
    let left := todo.filter (fun x => x.1 != page)
    let s1 := s.repairBlocks f.2 bytes mine
    let b1 : Boundary := { b with bad := b.bad.filter (fun v =>
        !(v / 0x10000 == page && mine.contains (v % 0x10000 / 64))) }
    let s2 : State := { s1 with proof := { s1.proof with boundary := some b1, repair := some left } }
    if left.isEmpty then s2.finishReplay b1 else s2

/-! ### The store of a source (R336, R337) -/

/-- Pages a cut takes, with its image. -/
def Cut.size (c : Cut) : Nat := c.pages.length + 48

/-- R337: pages the store needs for its cuts. -/
def MirrorStore.needs (m : MirrorStore) : Nat :=
  let all := m.staged ++ m.committed.toList
  (all.map Cut.size).sum + ceilDiv (largest (all.map (fun c => c.pages.length))) 8192

/-- Adds a page to the staged cut of a step. -/
def MirrorStore.stage (m : MirrorStore) (step : Nat) (f : Cut → Cut) : MirrorStore :=
  if m.staged.any (fun c => c.step == step) then
    { m with staged := m.staged.map (fun (c : Cut) => if c.step = step then f c else c) }
  else
    { m with staged := m.staged ++ [f { step := step, pages := [], image := Option.none, whole := false }] }

/-- Whether a node's mirror traffic is for this module's store. -/
def State.storeFor (s : State) (node : Nat) : Bool := s.proof.store.valid && s.proof.store.source == node

/-- Stages part of a cut, or refuses a cut that does not fit and forgets it. -/
def State.stageCut (s : State) (node step : Nat) (f : Cut → Cut) (ack : Bool) : State :=
  let m := s.proof.store.stage step f
  if m.pages < m.needs then
    ({ s with proof := { s.proof with store := { m with staged := m.staged.filter (fun c => c.step != step) } } }).sendMirror
      node 4 step 0 2 []
  else
    let s1 : State := { s with proof := { s.proof with store := m } }
    let s2 := s1.undefAt m.base (m.pages * 0x10000)
    if ack then s2.sendMirror node 4 step 0 (if m.committed.isSome then 0 else 3) [] else s2

/-- Part of a restore, of a replay's repair, or of a cut of this module's source. -/
def State.takePage (s : State) (node step region page : Nat) (bytes : List Byte) : State :=
  match s.proof.restore, s.proof.repair, s.proof.boundary with
  | some x, _, _ =>
    if x.1 = node then
      match s.kvPage region page with
      | some p => s.restorePage p bytes
      | none => s
    else s
  | none, some todo, some b =>
    if s.proof.partner = some node then
      match s.kvPage region page with
      | some p => s.repairPage p bytes todo b
      | none => s
    else s
  | _, _, _ =>
    if s.storeFor node then
      s.stageCut node step (fun c => { c with pages := c.pages.filter (fun p => p.1 != region || p.2.1 != page) ++
        [(region, page, bytes)] }) false
    else s

/-- The last part of a cut, acknowledged; or the end of a restore. -/
def State.takeImage (s : State) (node step : Nat) (image : List Byte) : State :=
  match s.proof.restore with
  | some x =>
    if x.1 = node then
      let s1 : State := { s with proof := { s.proof with restore := none }
                                 numerics := { s.numerics with book := readBook image 16384 } }
      (s1.raise 3 0x0A s1.currentStep 0 node (leBytes 8 step)).complete x.2.1 x.2.2 0 false step
    else s
  | none =>
    if s.storeFor node then s.stageCut node step (fun c => { c with image := some image }) true else s

/-- Serves the committed cut this module holds for a node, or pages of it. -/
def State.serveCut (s : State) (n : Nat) (blocks : List (Nat × Nat)) : State :=
  match (if s.storeFor n then s.proof.store.committed else none) with
  | none => s.sendMirror n 4 0 0 2 []
  | some c =>
    let wanted := c.pages.filter (fun p => blocks.isEmpty || blocks.contains (p.1, p.2.1))
    let s1 := wanted.foldl (fun (x : State) p => x.sendMirror n 2 c.step p.1 p.2.1 p.2.2) s
    if blocks.isEmpty then s1.sendMirror n 3 c.step 0 0 (c.image.getD []) else s1

/-- R335: the node named by a cut that waits for its acknowledgement. -/
def State.cutFor (s : State) (step : Nat) : Option Nat := (s.step_ step).bind (·.mirrorTo)

/-- A node has staged, or committed, the cut of a step that was sent to it. -/
def State.takeCutAck (s : State) (node step : Nat) (a : MirrorAnswer) : State :=
  match a with
  | .committed =>
    if s.proof.partner = some node then { s with proof := { s.proof with mirrorStep := max s.proof.mirrorStep step } } else s
  | .staged holds =>
    let s1 : State := if holds || s.proof.partner != some node then s
      else { s with proof := { s.proof with partnerWhole := false } }
    match s1.step_ step with
    | some r => if r.mirrorTo = some node then (s1.setStep { r with mirrorAcked := true }).advance step else s1
    | none => s1

/-- A mirror message arrives whole: it is acknowledged (R256), and then acts. -/
def State.hearsMirror (s : State) (a : Arrival) (h : NptHeader) (f : State → Nat → State) : State :=
  s.receives a h (fun x => f (x.nptAnswer 2 h 0 []) (chunkSender h))

/-- MIRROR_PAGE. -/
def mirrorPage (a : Arrival) (h : NptHeader) (step region page : Nat) (bytes : List Byte) (s : State) : State :=
  s.hearsMirror a h (fun x node => x.takePage node step region page bytes)

/-- MIRROR_SCALE_IMAGE. -/
def mirrorScaleImage (a : Arrival) (h : NptHeader) (step : Nat) (image : List Byte) (s : State) : State :=
  s.hearsMirror a h (fun x node => x.takeImage node step image)

/-- COMMITTED_CUT_FETCH (R333, R338). -/
def committedCutFetch (a : Arrival) (h : NptHeader) (blocks : List (Nat × Nat)) (s : State) : State :=
  s.hearsMirror a h (fun x node => x.serveCut node blocks)

/-- MIRROR_ACK. -/
def mirrorAck (a : Arrival) (h : NptHeader) (step : Nat) (answer : MirrorAnswer) (s : State) : State :=
  s.hearsMirror a h (fun x node => x.takeCutAck node step answer)

/-- MIRROR_LOST: a partner that refused or stayed silent. A replay's repair ends as R334 says, a restore with
BAD_DESCRIPTOR or PEER_LOST, and a cut with a dirty verdict of cause MIRROR. -/
def mirrorLost (step : Nat) (silent : Bool) (s : State) : State :=
  match s.proof.restore, s.proof.repair, s.proof.boundary with
  | some x, _, _ =>
    ({ s with proof := { s.proof with restore := none } }).complete x.2.1 x.2.2 (if silent then 0x40 else 0x20) false 0
  | none, some _, some b => s.finishReplay b
  | _, _, _ =>
    match s.step_ step, s.cutFor step with
    | some r, some node =>
      if r.closed && !r.mirrorAcked then
        let s1 := s.setStep { r with cause := if r.cause = 0 then 4 else r.cause, mirrorTo := none }
        let s2 := s1.raise 3 6 step 0 node (leBytes 1 (if silent then 2 else 1))
        (s2.failStep step 4 (s2.verdictRank r)).advance step
      else s
    | _, _ => s

def execMirrorPage (a : Arrival) (h : NptHeader) (step region page : Nat) (bytes : List Byte) (s : State) : Out :=
  whenReady s (mirrorPage a h step region page bytes)
def execMirrorScaleImage (k : Packet) (step : Nat) (image : List Byte) (s : State) : Out :=
  whenReady s (mirrorScaleImage k.arrival k.header step image)
def execCommittedCutFetch (k : Packet) (blocks : List (Nat × Nat)) (s : State) : Out :=
  whenReady s (committedCutFetch k.arrival k.header blocks)
def execMirrorAck (k : Packet) (step : Nat) (answer : MirrorAnswer) (s : State) : Out :=
  whenReady s (mirrorAck k.arrival k.header step answer)
def execMirrorLost (step : Nat) (silent : Bool) (s : State) : Out := whenReady s (mirrorLost step silent)

/-! ### Verdicts (R322 to R324) -/

/-- A child's combined verdict: dirty fails the step here at once. -/
def State.hearChild (s : State) (r : StepRec) (rank cause lowest : Nat) : State :=
  let r1 : StepRec := { r with
      heard := r.heard ++ [rank], combined := if r.combined = 0 then heardCause cause else r.combined
      lowest := if cause = 0 then r.lowest else min r.lowest lowest }
  let s1 := s.setStep r1
  let s2 := if cause = 0 then s1 else s1.failStep r.num (heardCause cause) lowest
  s2.advance r.num

/-- The outcome from above: passed down, then applied. -/
def State.hearOutcome (s : State) (r : StepRec) (cause lowest : Nat) : State :=
  if r.outcome.isSome then s
  else (s.sendVerdicts r cause lowest (s.verdictChildren r)).applyOutcome r.num cause lowest

/-- What a verdict does. One for a step this module has not opened yet is not acknowledged, and is sent again (log 36). -/
def State.takeVerdict (s : State) (h : NptHeader) (payload : List Byte) : State :=
  let n := field payload 0 8
  let cause := field payload 8 1
  let low := field payload 12 4
  let rank := h.contributor.toNat
  if h.collId.toNat ≠ 1 then s
  else
    match s.step_ n with
    | none => if n ≤ s.proof.stepProved ∨ n ≤ s.proof.stepNow then s.nptAnswer 2 h 0 [] else s
    | some r =>
      let s1 := s.nptAnswer 2 h 0 []
      let r0 : StepRec := if r.closed then r else { r with group := s.groupActive s.proof.group }
      if h.epoch.toNat ≠ r.epoch then s1
      else if (s1.verdictChildren r0).contains rank then
        (if r.heard.contains rank then s1 else s1.hearChild r rank cause low)
      else if s1.verdictRank r0 ≠ 0 ∧ rank = treeParent (s1.verdictRank r0) ∧ (r.closed ∨ cause ≠ 0) then
        s1.hearOutcome r0 cause low
      else s1

/-- VERDICT. -/
def verdict (a : Arrival) (h : NptHeader) (payload : List Byte) (s : State) : State :=
  s.receives a h (fun x => x.takeVerdict h payload)

/-- VERDICT_SILENCE_TIMEOUT (R324): a neighbour waited for stayed silent. -/
def verdictSilenceTimeout (step rank : Nat) (s : State) : State :=
  match s.step_ step with
  | none => s
  | some r =>
    let own := s.verdictRank r
    if s.verdictWaits r rank then
      let s1 := s.setStep { r with sentUp := true, outcome := some 3, cause := if r.cause = 0 then 3 else r.cause }
      let s2 := if own = 0 then s1 else s1.sendVerdict r (treeParent own) 3 own
      (s2.sendVerdicts r 3 own (s2.verdictChildren r)).failStep step 3 own
    else s

def execVerdict (k : Packet) (payload : List Byte) (s : State) : Out := whenReady s (verdict k.arrival k.header payload)
def execVerdictSilenceTimeout (step rank : Nat) (s : State) : Out := whenReady s (verdictSilenceTimeout step rank)

end Sys2Proof.Machine
end

