-- ==== Sys2Proof/Machine/Checkpoint.lean ====
section
/-! DEFINITION. CHECKPOINT (R340 to R344) and the RoCEv2 requester that carries it (R258). -/

namespace Sys2Proof.Machine

/-! ### What a checkpoint writes -/

/-- Frame that holds a kept page as of the newest proved step: its oldest negative of a later step, else its current
frame. -/
def State.cutFrame (s : State) (page : Nat) : Option Nat :=
  match s.proof.log.find? (fun r => r.page == page && s.proof.stepProved < r.step) with
  | some r => some r.old
  | none => (s.frameOf page).map (·.2)

/-- Bytes of a region in the cut; `none` when a page has no frame or holds a poisoned block. -/
def State.cutPagesBytes (s : State) (first : Nat) : Nat → Except MemErr (List Byte)
  | 0 => .ok []
  | n + 1 =>
    match s.cutFrame first with
    | none => .error (.addr (virtDetail (first * 0x10000)))
    | some f =>
      match s.poisoned f 0x10000 with
      | some b => .error (.bad b)
      | none =>
        match s.cutPagesBytes (first + 1) n with
        | .ok rest => .ok (s.mem.ram.read f 0x10000 ++ rest)
        | e => e

/-- Reading the cut's pages meets their errors (R306, R307). -/
def State.meetCut (s : State) (rs : List KeptRegion) : State :=
  (rs.flatMap (fun r => (List.range r.pages).map (fun i => r.vbase / 0x10000 + i))).foldl
    (fun (x : State) page => match x.cutFrame page with
      | some f => x.meet (blocksOf f 0x10000)
      | none => x) s

/-- R342: rank of the elected writer of a replicated region. -/
def electedRank (region step members : Nat) : Nat :=
  let x := Nat.xor (Nat.xor region (step % 2 ^ 32)) (step / 2 ^ 32 % 2 ^ 32)
  let y := x * 0x9E3779B9 % 2 ^ 32
  Nat.xor y (y / 2 ^ 16) % max 1 members

/-- Node that writes a region. -/
def State.writerOf (s : State) (r : KeptRegion) (step : Nat) : Nat :=
  if r.replicated then
    match s.groupActive r.group with
    | some g => g.node (electedRank r.id step g.members.length)
    | none => s.net.nodeId.toNat
  else s.net.nodeId.toNat

/-- R343: one entry of the contact sheet. -/
def sheetEntry (region writer offset : Nat) (bytes : List Byte) : List Byte :=
  leBytes 4 region ++ leBytes 4 writer ++ leBytes 8 offset ++ leBytes 8 bytes.length ++ zeros 8 ++
    beBytes 64 (Config.sha512 bytes).toNat

/-- R343: header of the contact sheet. -/
def State.sheetHeader (s : State) (step mode slot entries : Nat) : List Byte :=
  leBytes 4 1 ++ leBytes 4 s.net.nodeId.toNat ++ leBytes 8 step ++ leBytes 1 mode ++ leBytes 1 slot ++ zeros 2 ++
    leBytes 4 entries ++ leBytes 4 s.proof.provedEpoch ++ zeros 4 ++
    (beBytes 64 (Config.sha512 (Config.deviceCertificate s.fuses.serial)).toNat).take 16 ++ zeros 16

/-- Regions of the cut: region, its writer, its bytes. -/
def State.cutRegions (s : State) (step : Nat) :
    List KeptRegion → Except MemErr (List (KeptRegion × Nat × List Byte))
  | [] => .ok []
  | r :: rs =>
    match s.cutPagesBytes (r.vbase / 0x10000) r.pages with
    | .error e => .error e
    | .ok bs =>
      match s.cutRegions step rs with
      | .error e => .error e
      | .ok rest => .ok ((r, s.writerOf r step, bs) :: rest)

/-- R339, R340: a boundary image of a proved step, from the scale book image of R329. Nothing holds the semaphores
of that step: their bytes are free values (log 38). -/
def State.bookImageOf (s : State) (step : Nat) : State × List Byte :=
  let g := s.draw
  let book := ((s.step_ (step + 1)).map (·.book)).getD s.numerics.book
  (g.2, imageHeader step s.proof.provedEpoch s.proof.depth 0 ++ bookImage book ++
    (List.range 0x40000).map (fun i => Config.freeBits 8 g.1 i) ++ zeros 0xB0000)

/-- The image entry of the sheet: MODE 1 takes the full image of the newest SCOPE 1 SNAPSHOT of the step. -/
def State.ckptImage (s : State) (step mode : Nat) : State × Except MemErr (List Byte) :=
  if mode = 0 then let r := s.bookImageOf step; (r.1, .ok r.2)
  else
    match s.proof.fullImages.find? (fun f => f.1 == step) with
    | some f => s.readDev s.mem.ptRoot allowHbm f.2 0x85800000
    | none => (s, .error .identity)

/-- R343: the sheet's bytes before its signature. -/
def State.sheetBody (s : State) (step mode slot sheet : Nat) (regions : List (KeptRegion × Nat × List Byte))
    (image : List Byte) : List Byte :=
  let entries := regions.map (fun x => sheetEntry x.1.id x.2.1 x.1.offset x.2.2) ++
    [sheetEntry 0xFFFFFFFF s.net.nodeId.toNat (sheet + 0x100000) image]
  s.sheetHeader step mode slot entries.length ++ entries.flatMap (fun e => e)

/-- R372: Gyton signs a message only if its first four bytes hold FORMAT = 1 and its length agrees with its ENTRIES field. -/
def gytonSigns (m : List Byte) : Bool := field m 0 4 == 1 && m.length == 64 + 96 * field m 20 4

/-- R372, R396: Gyton hears a request for a signature; one it refuses raises FIREWALL. Which control core asks is not stated. -/
def State.askSignature (s : State) (m : List Byte) : State :=
  if gytonSigns m then s else let g := s.draw; g.2.firewallEvent (Config.freeBits 3 g.1 0).toNat 0

/-- The signature Gyton gives: none for a message it refuses. -/
def signature (m : List Byte) (salt : Nat) : List Byte :=
  if gytonSigns m then beBytes 512 (Config.signPss m salt).toNat else zeros 512

/-- R341, R344: the writes of a checkpoint in order, by offset within the slot: the cleared signature, regions, image,
sheet, signature. -/
def State.ckptWrites (s : State) (step mode slot sheet : Nat) (regions : List (KeptRegion × Nat × List Byte))
    (image : List Byte) : List (Nat × List Byte) :=
  let own := s.net.nodeId.toNat
  let body := s.sheetBody step mode slot sheet regions image
  let mine := (regions.filter (fun x => x.2.1 == own)).map (fun x => (x.1.offset, x.2.2))
  [(sheet + body.length, zeros 512)] ++ mine ++ [(sheet + 0x100000, image), (sheet, body),
    (sheet + body.length, signature body step)]

/-! ### Queue pairs at work (R258) -/

/-- R260: local QP number of queue pair j of target t on a port. -/
def State.qpNumber (s : State) (port t j : Nat) : Nat := (s.fuses.qpBase.get 0 port).toNat + 4 * t + j

/-- Packet `i` of a write on a queue pair: bytes, addresses and numbers of its context and of its target's entry. -/
def State.rocePacket (s : State) (t j port psn addr : Nat) (bytes : List Byte) (i : Nat) : RocePacket :=
  let q := s.qp (qpKey t j)
  { port := port, destMac := q.ctx.nextHop, srcMac := s.portMac port, srcIp := s.ip6, destIp := q.remote.addr
    trafficClass := q.ctx.trafficClass + 2, flowLabel := q.ctx.flowLabel, hopLimit := q.ctx.hopLimit, pkey := q.ctx.pkey
    srcQp := BitVec.ofNat 24 (s.qpNumber port t j), destQp := BitVec.ofNat 24 (q.remote.qpn + j)
    psn := BitVec.ofNat 24 (psn + i), rkey := q.remote.rkey, addr := BitVec.ofNat 64 (addr + 4096 * i)
    bytes := (bytes.drop (4096 * i)).take 4096 }

/-- Sends the packets of a write on its queue pair's port; a port that carries no RoCEv2 traffic sends none (R235, R244), and they are
sent again when the retry timer runs out. -/
def State.roceSend (s : State) (t j psn addr : Nat) (bytes : List Byte) : State :=
  match (s.qp (qpKey t j)).remote.ports[j]? with
  | none => s
  | some port =>
    if s.carriesIp port then
      (List.range (packetCount bytes.length)).foldl (fun (x : State) i => x.send (.roce (s.rocePacket t j port psn addr bytes i))) s
    else s

/-- Sends one RDMA WRITE; it stays outstanding until its last packet is acknowledged. -/
def State.rdmaWrite (s : State) (t j addr : Nat) (bytes : List Byte) : State :=
  let k := qpKey t j
  let q := s.qp k
  let n := packetCount bytes.length
  let last := (q.psn + n - 1) % 2 ^ 24
  let s1 := s.setQp k { q with psn := (q.psn + n) % 2 ^ 24, unacked := q.unacked ++ [(last, addr, bytes)], inUse := true }
  s1.roceSend t j q.psn addr bytes

/-- The first queue pair of a target in READY. -/
def State.readyQp (s : State) (t : Nat) (g : Target) : Option Nat :=
  (List.range g.ports.length).find? (fun j => (s.qp (qpKey t j)).state == 1 && (s.qp (qpKey t j)).unacked.isEmpty)

/-- A checkpoint stopped at its start: CHECKPOINT_FAILED. -/
def State.refuseCkpt (s : State) (ring : Nat) (c : FetchedCmd) (target status slot step : Nat) (detail : Nat) : State :=
  (s.raise 3 8 step 0 target (leBytes 1 slot ++ leBytes 1 status)).complete ring c.id status false detail

/-- Places the writes of a checkpoint in a slot of the target and starts the first. -/
def State.startCkpt (s : State) (ring : Nat) (c : FetchedCmd) (t : Nat) (g : Target) (j step mode slot : Nat)
    (ws : List (Nat × List Byte)) : State :=
  let z := g.limit / 131072 * 65536
  if ws.any (fun w => decide (z < w.1 + w.2.length)) then s.refuseCkpt ring c t 0x20 slot step 0
  else
    let placed := ws.map (fun w => (g.base + slot * z + w.1, w.2))
    let run : CkptRun := { ring := ring, cmd := c.id, target := t, qp := j, step := step, mode := mode, slot := slot
                           writes := placed, done := 0 }
    let k := qpKey t j
    let s0 := s.setQp k { s.qp k with remote := g }
    let s1 : State := { s0 with proof := { s0.proof with ckpt := some run } }
    match placed with
    | [] => s1
    | w :: _ => s1.rdmaWrite t j w.1 w.2

/-- CHECKPOINT. -/
def checkpoint (ring : Fin 64) (s : State) : Option State :=
  if s.proof.ckpt.isSome then none
  else
    match s.startCmd ring.val cmdCheckpoint with
    | none => none
    | some (c, s1) =>
      let step := c.w 0x10
      let m := c.w 0x18
      let mode := bits m 0 0
      let t := bits m 15 8
      let slot := s1.proof.nextSlot
      if c.headerBad || bits m 7 1 != 0 || bits m 63 16 != 0 || c.restBad 0x20 then some (s1.badCmd ring.val c)
      else if s1.stepCode step = some 3 then some (s1.complete ring.val c.id 0x61 false 0)
      else if step ≠ s1.proof.stepProved then some (s1.badCmd ring.val c)
      else if mode = 1 ∧ !(s1.proof.fullImages.any (fun f => f.1 == step)) then some (s1.badCmd ring.val c)
      else
        match s1.proof.kept, s1.readTarget t with
        | none, _ => some (s1.badCmd ring.val c)
        | some _, (s2, none) => some (s2.refuseCkpt ring.val c t 0x20 slot step 0)
        | some k, (s2, some g) =>
          match s2.readyQp t g with
          | none => some (s2.refuseCkpt ring.val c t 0x20 slot step 0)
          | some j =>
            let s2m := s2.meetCut (k.regions.filter (·.checkpoint))
            match s2m.cutRegions step (k.regions.filter (·.checkpoint)) with
            | .error e => some (s2m.refuseCkpt ring.val c t e.status slot step e.detail)
            | .ok regions =>
              match s2m.ckptImage step mode with
              | (s3, .error e) => some (s3.refuseCkpt ring.val c t e.status slot step e.detail)
              | (s3, .ok image) =>
                some ((s3.askSignature (s3.sheetBody step mode slot k.sheet regions image)).startCkpt ring.val c t g j step mode slot
                  (s3.ckptWrites step mode slot k.sheet regions image))

def execCheckpoint (ring : Fin 64) (s : State) : Out := whenReadyOr s (checkpoint ring)

/-- R344 step 4: the sheet is sealed. -/
def State.sealCkpt (s : State) (r : CkptRun) : State :=
  let k := qpKey r.target r.qp
  let s1 : State := { s with proof := { s.proof with ckpt := none, nextSlot := 1 - r.slot } }
  let s2 := (s1.setQp k { s1.qp k with inUse := false }).raise 3 7 r.step 0 r.target (leBytes 1 r.slot)
  s2.releaseNegatives.complete r.ring r.cmd 0 false (r.slot + at_ (r.done / 65536) 8)

/-- Whether a PSN is at or before an acknowledged one. -/
def acked24 (ack x : Nat) : Bool := decide ((ack + 2 ^ 24 - x) % 2 ^ 24 < 2 ^ 23)

/-- The running checkpoint, where it is the one on this queue pair. -/
def State.ckptOn (s : State) (t j : Nat) : Option CkptRun :=
  match s.proof.ckpt with
  | some r => if r.target = t ∧ r.qp = j then some r else none
  | none => none

/-- More bytes of a checkpoint have been acknowledged. -/
def State.ckptBytes (s : State) (t j n : Nat) : State :=
  match s.ckptOn t j with
  | some r => { s with proof := { s.proof with ckpt := some { r with done := r.done + n } } }
  | none => s

/-- The write at the head of the checkpoint is done, and the next starts. -/
def State.nextWrite (s : State) (t j : Nat) : State :=
  match s.ckptOn t j with
  | some r =>
    let r1 : CkptRun := { r with writes := r.writes.drop 1 }
    let s1 : State := { s with proof := { s.proof with ckpt := some r1 } }
    match r1.writes with
    | [] => s1.sealCkpt r1
    | w :: _ => s1.rdmaWrite t j w.1 w.2
  | none => s

/-- ROCE_RESPONSE: acknowledges packets up to a PSN, which is progress (R258); once a write is acknowledged whole, the
next write of the checkpoint starts. -/
def roceResponse (t : BitVec 8) (j : BitVec 2) (psn : BitVec 24) (s : State) : State :=
  let k := qpKey t.toNat j.toNat
  let q := s.qp k
  match q.unacked with
  | [] => s
  | (last, addr, bytes) :: rest =>
    if q.state ≠ 1 then s
    else
    let n := packetCount bytes.length
    let got := (psn.toNat + n + 2 ^ 24 - last) % 2 ^ 24
    if acked24 psn.toNat last then
      let s1 := (s.setQp k { q with unacked := rest, retries := 0, inUse := (s.ckptOn t.toNat j.toNat).isSome || !rest.isEmpty })
      (s1.ckptBytes t.toNat j.toNat bytes.length).nextWrite t.toNat j.toNat
    else if got = 0 ∨ n ≤ got then s
    else
      (s.setQp k { q with unacked := (last, addr + 4096 * got, bytes.drop (4096 * got)) :: rest, retries := 0 }).ckptBytes
        t.toNat j.toNat (4096 * got)

/-- R257: the rate of a queue pair now: it has risen by 1/32 for every 50 µs since its last cut, up to the whole (log 39). -/
def QP.rateAt (q : QP) (time : Nat) : Nat :=
  match q.lastCut with
  | none => q.rate
  | some t => min (2 ^ 32) (q.rate + 2 ^ 27 * ((time - t) / 50000))

/-- ROCE_CNP: the rate is cut as for a chunk whose packets were all marked, at most once per 20 µs (R257, log 39). -/
def roceCnp (t : BitVec 8) (j : BitVec 2) (s : State) : State :=
  let k := qpKey t.toNat j.toNat
  let q := s.qp k
  let now := s.clock.time
  if q.state ≠ 1 ∨ q.lastCut.any (fun c => decide (now < c + 20000)) then s
  else s.setQp k { q with rate := q.rateAt now / 2, lastCut := some now }

/-- Sends the outstanding writes of a queue pair again: go-back-N from the first packet not acknowledged. -/
def State.resendQp (s : State) (t j : Nat) : List (Nat × Nat × List Byte) → State
  | [] => s
  | (last, addr, bytes) :: us => (s.roceSend t j (firstPsn last bytes.length) addr bytes).resendQp t j us

/-- ROCE_RETRY_TIMEOUT: after 7 retries the queue pair enters ERROR, keeping what is not acknowledged, and its command ends with
PEER_LOST. -/
def roceRetryTimeout (t : BitVec 8) (j : BitVec 2) (s : State) : State :=
  let k := qpKey t.toNat j.toNat
  let q := s.qp k
  if q.state ≠ 1 ∨ q.unacked.isEmpty then s
  else if q.retries < 7 then (s.setQp k { q with retries := q.retries + 1 }).resendQp t.toNat j.toNat q.unacked
  else
    let s1 := ((s.writeLastPsn k).writeQpState k 2).setQp k { q with state := 2, inUse := false }
    match s1.ckptOn t.toNat j.toNat with
    | some _ => (s1.stopCheckpoint 0x40).releaseNegatives
    | none => s1

def execRoceResponse (t : BitVec 8) (j : BitVec 2) (psn : BitVec 24) (s : State) : Out := whenReady s (roceResponse t j psn)
def execRoceCnp (t : BitVec 8) (j : BitVec 2) (s : State) : Out := whenReady s (roceCnp t j)
def execRoceRetryTimeout (t : BitVec 8) (j : BitVec 2) (s : State) : Out := whenReady s (roceRetryTimeout t j)

end Sys2Proof.Machine
end

