-- ==== Sys2Proof/Machine/Move.lean ====
section
/-! DEFINITION. MOVE (R250 to R252). -/

namespace Sys2Proof.Machine

/-! ### Fields -/

def Op.moveSrc (o : Op) : Nat := bits (o.w 0x10) 47 0
def Op.moveSrcMember (o : Op) : Nat := bits (o.w 0x10) 50 48
def Op.moveSrcVirt (o : Op) : Bool := bit (o.w 0x10) 63
def Op.moveDst (o : Op) : Nat := bits (o.w 0x18) 47 0
def Op.moveDstVirt (o : Op) : Bool := bit (o.w 0x18) 63
def Op.rowLen (o : Op) : Nat := bits (o.w 0x28) 31 0
def Op.rows (o : Op) : Nat := bits (o.w 0x28) 63 32
def Op.srcStride (o : Op) : Nat := bits (o.w 0x30) 47 0
def Op.dstStride (o : Op) : Nat := bits (o.w 0x38) 47 0
def Op.moveSem (o : Op) : Nat := bits (o.w 0x40) 15 0
def Op.moveSemAdd (o : Op) : BitVec 32 := BitVec.ofNat 32 (o.w 0x40 / 2 ^ 16)

/-- R251: a side that names a member it must not. -/
def State.sideBad (s : State) (member addr stride : Nat) (virt : Bool) (len : Nat) : Bool :=
  member != 7 && (decide (3 < member) || member == s.member || !s.inGroup member || virt ||
    addr % 64 != 0 || stride % 64 != 0 || len % 64 != 0)

/-- R251, R436, R437. -/
def State.moveBad (s : State) (o : Op) : Bool :=
  bits (o.w 0) 10 9 != 0 || bits (o.w 0) 31 11 != 0 || bits (o.w 8) 63 48 != 0 || bits (o.w 8) 47 0 % 128 != 0 ||
    bits (o.w 0x10) 62 51 != 0 || bits (o.w 0x18) 62 51 != 0 || bits (o.w 0x20) 63 48 != 0 ||
    o.resultAddr % 32 != 0 || o.rowLen == 0 || o.rows == 0 || bits (o.w 0x30) 63 48 != 0 || bits (o.w 0x38) 63 48 != 0 ||
    bits (o.w 0x40) 63 48 != 0 || field o.desc 0x48 56 != 0 ||
    (o.moveSrcMember != 7 && o.moveDstMember != 7) ||
    s.sideBad o.moveSrcMember o.moveSrc o.srcStride o.moveSrcVirt o.rowLen ||
    s.sideBad o.moveDstMember o.moveDst o.dstStride o.moveDstVirt o.rowLen

/-! ### Franks (R349 to R351) -/

/-- Pieces of a row, (offset, length), that cross no page of either side and hold at most `cap` bytes. -/
def pieces (src dst cap : Nat) : Nat → Nat → Nat → List (Nat × Nat)
  | 0, _, _ => []
  | fuel + 1, off, n =>
    if n = 0 then []
    else
      let k := min n (min cap (min (0x10000 - (src + off) % 0x10000) (0x10000 - (dst + off) % 0x10000)))
      (off, k) :: pieces src dst cap fuel (off + k) (n - k)

/-- Enough pieces for a row of n bytes. -/
def pieceFuel (n : Nat) : Nat := n / 64 + n / 0x10000 + 8

/-- Whether the byte at an address of a local side lies in HBM. -/
def State.inStacks (s : State) (root : Word) (virt : Bool) (a : Nat) : Bool :=
  match (if virt then (s.translate root a false).2 else .ok a) with
  | .ok pa => s.zoneAt pa == some .hbm
  | .error _ => false

/-- HBM bytes of one side of a MOVE, page by page. -/
def State.sideHbm (s : State) (root : Word) (o : Op) (member addr stride : Nat) (virt : Bool) : Nat :=
  if member ≠ 7 then 0
  else
    ((List.range o.rows).map (fun r =>
      let a := addr + r * stride
      ((pieces a a 0x10000 (pieceFuel o.rowLen) 0 o.rowLen).map (fun p =>
        if s.inStacks root virt (a + p.1) then p.2 else 0)).sum)).sum

/-- HBM bytes a MOVE streams, both sides counted (R351). -/
def State.moveHbm (s : State) (root : Word) (o : Op) : Nat :=
  s.sideHbm root o o.moveSrcMember o.moveSrc o.srcStride o.moveSrcVirt +
    s.sideHbm root o o.moveDstMember o.moveDst o.dstStride o.moveDstVirt

/-- Bytes per µs of half the HBM bandwidth (R1). -/
def State.halfHbm (s : State) : Nat :=
  match s.fuses.variant with
  | .alc => 8192000
  | .elc => 10240000

/-- R349. -/
def State.moveAsks (s : State) (root : Word) (o : Op) : Bool :=
  decide (2 ^ 26 ≤ o.rows * o.rowLen) && s.moveHbm root o != 0

/-- A request of a class for an op, its share and duty 1. -/
def plainFrank (op cls watts dur : Nat) : Frank :=
  { id := 0, op := op, use_ := .run, cls := cls, watts := watts, dur := dur, band := 0, shareNum := 1, shareDen := 1
    dutyNum := 1, dutyDen := 1, denied := false, counted := false, deniedAt := 0, timeoutMs := 0, ageUs := 0, aged := false, thermalOnly := false, energy := 0, ran := 0
    since := 0, parent := 0 }

def State.moveFrank (s : State) (root : Word) (o : Op) : Frank :=
  plainFrank o.id 4 (frankWatts (s.baseMw 4) 1 1 1 1) (min 65535 (ceilDiv (s.moveHbm root o) s.halfHbm))

/-! ### Local copies -/

/-- A side of the copy: whether its addresses are virtual. -/
def State.readSide (s : State) (root : Word) (virt : Bool) (a n : Nat) : State × Except MemErr (List Byte) :=
  if virt then s.readVirt root allowOps a n else s.readPhys allowOps a n

def State.writeSide (s : State) (root : Word) (virt : Bool) (a : Nat) (bs : List Byte) : State × Except MemErr Unit :=
  if virt then s.writeVirt root allowOps a bs else s.writePhys allowOps a bs

/-- Every piece of a MOVE: source address, destination address, length. -/
def Op.movePieces (o : Op) (cap : Nat) : List (Nat × Nat × Nat) :=
  (List.range o.rows).flatMap (fun r =>
    let src := o.moveSrc + r * o.srcStride
    let dst := o.moveDst + r * o.dstStride
    (pieces src dst cap (pieceFuel o.rowLen) 0 o.rowLen).map (fun p => (src + p.1, dst + p.1, p.2)))

/-- Copies pieces in order; what was copied, and the error that ended it. -/
def State.copyPieces (s : State) (root : Word) (o : Op) :
    List (Nat × Nat × Nat) → State × List (Nat × Nat × Nat) × Option MemErr
  | [] => (s, [], none)
  | p :: ps =>
    match s.readSide root o.moveSrcVirt p.1 p.2.2 with
    | (s1, .error e) => (s1, [], some e)
    | (s1, .ok bs) =>
      match s1.writeSide root o.moveDstVirt p.2.1 bs with
      | (s2, .error e) => (s2, [], some e)
      | (s2, .ok _) => let r := s2.copyPieces root o ps; (r.1, p :: r.2.1, r.2.2)

/-- Module-local address of a piece, once copied. -/
def State.pieceAt (s : State) (root : Word) (virt : Bool) (a : Nat) : Option Nat :=
  let pa := if virt then (match (s.translate root a false).2 with | .ok x => some x | .error _ => none) else some a
  match pa with
  | none => none
  | some x => match s.place x 1 with
    | .ok (.tray _, _) => none
    | .ok (_, l) => some l
    | .error _ => none

/-- The ranges of one destination piece that some source piece covers. -/
def meetings (d n : Nat) : List (Nat × Nat) → List (Nat × Nat)
  | [] => []
  | (a, m) :: t =>
    let lo := max d a
    let hi := min (d + n) (a + m)
    if lo < hi then (lo, hi - lo) :: meetings d n t else meetings d n t

/-- R252: destination bytes where source and destination overlap are undefined. -/
def State.undefOverlap (s : State) (root : Word) (o : Op) (ps : List (Nat × Nat × Nat)) : State :=
  let srcs := ps.filterMap (fun p => (s.pieceAt root o.moveSrcVirt p.1).map (fun a => (a, p.2.2)))
  let hits := ps.flatMap (fun p => match s.pieceAt root o.moveDstVirt p.2.1 with
    | some d => meetings d p.2.2 srcs
    | none => [])
  hits.foldl (fun (x : State) (h : Nat × Nat) => x.undefAt h.1 h.2) s

/-- Bytes of pieces. -/
def pieceBytes (ps : List (Nat × Nat × Nat)) : Nat := (ps.map (fun p => p.2.2)).sum

/-- Ends a MOVE, once no frame of it is on its way (R252): its record, its franks, then its increment of a local semaphore. -/
def State.endMove (s : State) (o : Op) (status : Nat) (d : Option Word) : Option State :=
  if !s.quiet o.id then some (s.setOp { o with begun := true, ending := some (status, d) })
  else
    match s.finishOp o status d (fun st => shortRecord st 0 o.tag o.sum s.clock.time) with
    | none => none
    | some t =>
      let t1 := t.clearOp o.id
      some (if status = 0 ∧ o.moveDstMember = 7 ∧ o.moveSemAdd ≠ 0 then t1.addSem o.moveSem o.moveSemAdd else t1)

/-- A copy within the module, or through a tray window (R22). -/
def State.moveLocal (s : State) (root : Word) (o : Op) : Option State :=
  let r := s.copyPieces root o (o.movePieces 0x10000)
  match r.2.2 with
  | some .wait => none
  | e =>
    let s1 := r.1.undefOverlap root o r.2.1
    let o1 : Op := { o with sum := pieceBytes r.2.1, begun := true }
    match e with
    | none => (s1.setOp o1).endMove o1 0 none
    | some e => (s1.setOp o1).endMove o1 e.status e.word

/-! ### Tray sides -/

/-- Sends pieces to a tray member as WRITE frames. -/
def State.pushPieces (s : State) (root : Word) (o : Op) : List (Nat × Nat × Nat) → State × Option MemErr
  | [] => (s, none)
  | p :: ps =>
    match s.readSide root o.moveSrcVirt p.1 p.2.2 with
    | (s1, .error e) => (s1, some e)
    | (s1, .ok bs) => (s1.yeSend o.moveDstMember 1 p.2.1 p.2.2 0 bs (some o.id)).pushPieces root o ps

/-- Sends the READ_REQs of pieces at a tray member that have a free tag; the others wait for one (R247). -/
def State.sendPulls : Nat → State → Nat → State
  | 0, s, _ => s
  | fuel + 1, s, m =>
    match s.net.pulls.find? (fun r => r.2.member == m), s.freeTag m with
    | some r, some tag =>
      let c := s.channel m
      let s1 := s.setChannel m { c with nextTag := (tag + 1) % 1024 }
      let s2 : State := { s1 with net := { s1.net with pulls := s1.net.pulls.erase r
                                                       reads := s1.net.reads ++ [{ r.2 with tag := tag }] } }
      State.sendPulls fuel (s2.yeSend m 2 r.1 r.2.len tag [] (some r.2.op)) m
    | _, _ => s

/-- The reads of a MOVE's pieces at a tray member. -/
def State.pullPieces (s : State) (o : Op) (ps : List (Nat × Nat × Nat)) : State :=
  let rs := ps.map (fun p => (p.1, ({ member := o.moveSrcMember, tag := 0, op := o.id, dst := p.2.1, virt := o.moveDstVirt
                                      len := p.2.2 } : YeRead)))
  State.sendPulls rs.length { s with net := { s.net with pulls := s.net.pulls ++ rs } } o.moveSrcMember

/-- Rows cut into frames of at most 4,096 bytes (R245). -/
def Op.framePieces (o : Op) : List (Nat × Nat × Nat) :=
  (List.range o.rows).flatMap (fun r =>
    (pieces 0 0 4096 (pieceFuel o.rowLen) 0 o.rowLen).map (fun p =>
      (o.moveSrc + r * o.srcStride + p.1, o.moveDst + r * o.dstStride + p.1, p.2)))

def State.moveTray (s : State) (root : Word) (o : Op) : Option State :=
  let m := if o.moveSrcMember ≠ 7 then o.moveSrcMember else o.moveDstMember
  let s1 := s.setOp { o with begun := true }
  if s.pairDead m then (s1.endMove o 0x42 none)
  else if o.moveSrcMember ≠ 7 then some (s1.pullPieces o o.framePieces)
  else
    match s1.pushPieces root o o.framePieces with
    | (s2, none) =>
      some (if o.moveSemAdd = 0 then s2 else s2.yeSend m 6 o.moveSem 4 0 (leBytes 4 o.moveSemAdd.toNat) (some o.id))
    | (s2, some e) => s2.endMove { o with begun := true } e.status e.word

/-- Starts the copy of an issued MOVE. -/
def State.moveGo (s : State) (root : Word) (o : Op) : Option State :=
  if o.moveSrcMember = 7 ∧ o.moveDstMember = 7 then s.moveLocal root o else s.moveTray root o

/-- MOVE: checked, its frank asked for if it needs one, and copied once it may start. -/
def move (op : Nat) (s : State) : Option State :=
  match s.op op with
  | none => none
  | some o =>
    let root := s.rootOf o.ring
    if o.kind != opMove then none
    else
      match o.phase with
      | .taken =>
        if !s.opFree o then none
        else if s.moveBad o then s.badOp o
        else if s.moveAsks root o then
          some ((s.setOp { o with phase := OpPhase.asking }).ask (s.moveFrank root o))
        else let i := s.issue o; i.1.moveGo root i.2
      | .asking => none
      | .issued => if o.begun then none else s.moveGo root o

def execMove (op : Nat) (s : State) : Out := whenOpPeers s op (move op)

end Sys2Proof.Machine
end

