-- ==== Sys2Proof/Machine/Checks.lean ====
section
/-! DEFINITION. What the checks of duplicated silicon record beside an op's status (R293, R295 to R300, R304, R338):
culprits, spares scheduled, and the events that name them. -/

namespace Sys2Proof.Machine

/-- Spares of a die neither in use nor promised to a scheduled column. -/
def State.sparesLeft (s : State) (die : Nat) : Nat :=
  let m := if die = 0 then s.plate.spares0 else s.plate.spares1
  let used := (List.range 8).filter (fun i => spareByte m i != 0xFF)
  8 - largest (used.map (· + 1)) - (s.plate.scheduled.filter (fun c => c / 200 == die)).length

/-- R304: schedules a physical cell column for a spare, or reports that its die has none left. -/
def State.scheduleColumn (s : State) (c : Nat) : State :=
  if s.plate.scheduled.contains c then s
  else if s.sparesLeft (c / 200) = 0 then s.fault 0x0C 0 (c / 200) 2 0 0 0 0 noColumns
  else
    let s1 := { s with plate := { s.plate with scheduled := s.plate.scheduled ++ [c] } }
    (s1.fault 0x0B 0 c 2 0 0 0 0 noColumns).switchIfIdle

/-- Nanoseconds in 24 hours. -/
def dayNs : Nat := 86400000000000

/-- Adds one occurrence, and whether it is the second of its unit within 24 hours. -/
def twiceInDay (now unit : Nat) (seen : List (Nat × Nat)) : List (Nat × Nat) × Bool :=
  (seen ++ [(unit, now)], seen.any (fun p => p.1 == unit && decide (now < p.2 + dayNs)))

/-- R304: a physical cell column was the culprit of a masked fault. -/
def State.columnCulprit (s : State) (c : Nat) : State :=
  let r := twiceInDay s.clock.time c s.plate.culprits
  let s1 := { s with plate := { s.plate with culprits := r.1 } }
  if r.2 then s1.scheduleColumn c else s1

/-- R338: a vector lane lost a vote. One of the engine's 32 spare lanes replaces it at the second time in a day. -/
def State.laneCulprit (s : State) (die lane : Nat) : State :=
  let k := 2048 * die + lane % 2048
  let r := twiceInDay s.clock.time k s.plate.laneCulprits
  let s1 := { s with plate := { s.plate with laneCulprits := r.1 } }
  let used := ((s1.plate.laneSpares ++ s1.plate.lanesScheduled).filter (fun l => l / 2048 == die)).length
  if r.2 && decide (used < 32) && !s1.plate.lanesScheduled.contains k then
    ({ s1 with plate := { s1.plate with lanesScheduled := s1.plate.lanesScheduled ++ [k] } }).switchIfIdle
  else s1

/-- Cell column that carries a logical position of the whole plate, through the spare map (R32, R299). -/
def State.cellOf (s : State) (position : Nat) : Nat := s.physicalColumn (position % 3072 / 8)

/-- R299: cell columns of runs P, D and V for a logical position. -/
def State.placements (s : State) (c : Nat) : List Nat :=
  [s.cellOf c, s.cellOf (c + 1536), s.cellOf (c + 768)]

end Sys2Proof.Machine
end

