-- ==== Sys2Proof/Machine/Plate.lean ====
section
/-! DEFINITION. The plate's data path: stored operands and the turn-over loader (R39 to R48), tile sums (R68 to R72),
positions, the fold tree and the ladder (R81 to R88), and the results left in result slots (R74 to R77, R83). -/

namespace Sys2Proof.Machine

/-! ### Stored elements (R39, R40) -/

/-- `n` elements of `b` bits, the first one `first` elements into a row, out of the bytes that hold them. -/
def unpackFrom (b first n : Nat) (bs : List Byte) : List Nat :=
  let x := leNat bs / 2 ^ (first * b % 8)
  (List.range n).map (fun i => x / 2 ^ (b * i) % 2 ^ b)

/-- Codes of `b` bits side by side, lowest first. -/
def packNat (b : Nat) : List Nat → Nat
  | [] => 0
  | c :: cs => c % 2 ^ b + 2 ^ b * packNat b cs

/-- R39, R41: a stored piece of a row, its last byte whole. -/
def packCodes (b : Nat) (cs : List Nat) : List Byte := leBytes (rowBytes cs.length b) (packNat b cs)

/-- Reads elements of one stored row. -/
def State.readElems (s : State) (root : Word) (row b first n : Nat) : State × Except MemErr (List Nat) :=
  let lo := first * b / 8
  match s.readVirt root allowLocal (row + lo) (ceilDiv ((first + n) * b) 8 - lo) with
  | (s1, .ok bs) => (s1, .ok (unpackFrom b first n bs))
  | (s1, .error e) => (s1, .error e)

/-- Reads elements `first` on of rows `r` on. -/
def State.readMatrix (s : State) (root : Word) (base stride b first n r : Nat) : Nat → State × Except MemErr (List (List Nat))
  | 0 => (s, .ok [])
  | k + 1 =>
    match s.readElems root (base + r * stride) b first n with
    | (s1, .error e) => (s1, .error e)
    | (s1, .ok xs) =>
      match s1.readMatrix root base stride b first n (r + 1) k with
      | (s2, .ok rest) => (s2, .ok (xs :: rest))
      | z => z

/-- Turns rows into columns. -/
def turned (n : Nat) (rows : List (List Nat)) : List (List Nat) :=
  (List.range n).map (fun j => rows.map (fun r => r.getD j 0))

/-- R44: vectors along K: `h` of them from the `i`-th on, elements k0 on, out of either orientation. -/
def State.readVectors (s : State) (root : Word) (alongK : Bool) (base stride b i h k0 kk : Nat) :
    State × Except MemErr (List (List Nat)) :=
  if alongK then s.readMatrix root base stride b k0 kk i h
  else
    match s.readMatrix root base stride b i h k0 kk with
    | (s1, .ok rows) => (s1, .ok (turned h rows))
    | z => z

/-- Columns in ascending order out of the two halves. -/
def mergeHalves (d : MatDesc) : Nat → Nat → List (List Nat) → List (List Nat) → List (List Nat)
  | 0, _, _, _ => []
  | k + 1, n, xs, ys =>
    let x := d.mode.ws d.band
    if (halfOf x.1 x.2 n).1 = 0 then
      match xs with
      | [] => []
      | v :: vs => v :: mergeHalves d k (n + 1) vs ys
    else
      match ys with
      | [] => []
      | v :: vs => v :: mergeHalves d k (n + 1) xs vs

/-- Columns n < `n` of a half (R40). -/
def MatDesc.halfAt (d : MatDesc) (n h : Nat) : Nat :=
  let x := d.mode.ws d.band
  halfCols x.1 x.2 n h

/-- Codes of rows m0 on of A, elements k0 on. -/
def State.readA (s : State) (root : Word) (d : MatDesc) (m0 h k0 kk : Nat) : State × Except MemErr (List (List Nat)) :=
  s.readVectors root (!d.transA) d.aAddr d.aStride d.aBits m0 h k0 kk

/-- Codes of columns n0 on of B, elements k0 on. -/
def State.readB (s : State) (root : Word) (d : MatDesc) (n0 w k0 kk : Nat) : State × Except MemErr (List (List Nat)) :=
  let half := fun (x : State) (addr j c : Nat) => x.readVectors root d.transB addr d.bStride d.bBits j c k0 kk
  if !d.split then half s d.b0Addr n0 w
  else
    match half s d.b0Addr (d.halfAt n0 0) (d.halfAt (n0 + w) 0 - d.halfAt n0 0) with
    | (s1, .error e) => (s1, .error e)
    | (s1, .ok xs) =>
      match half s1 d.b1Addr (d.halfAt n0 1) (d.halfAt (n0 + w) 1 - d.halfAt n0 1) with
      | (s2, .ok ys) => (s2, .ok (mergeHalves d w n0 xs ys))
      | z => z

/-- R47: exponents k0 on of the smoothing vector; none without smoothing. -/
def State.readSmooth (s : State) (root : Word) (d : MatDesc) (k0 kk : Nat) : State × Except MemErr (List Int) :=
  if !d.smooth then (s, .ok [])
  else
    match s.readVirt root allowLocal (d.smoothPage * 65536 + k0) kk with
    | (s1, .ok bs) => (s1, .ok (bs.map (fun b => b.toInt)))
    | (s1, .error e) => (s1, .error e)

/-! ### The loader (R45 to R48, R105, R106) -/

/-- Value of a code, before its scale. -/
def codeVal (fmt x : Nat) : Val :=
  match floatFmt fmt with
  | some f => decodeFloat f x
  | none => Val.ofInt (sintOf (codeBits fmt) x)

/-- Applies an exponent scale; a BF16 scale waits for the drain (R106). -/
def onPlate (sc : Scale) (v : Val) : Val :=
  match sc with
  | .exp e => v.scale e
  | .bf _ => v

/-- Parity of the ones of i & j below 256. -/
def oddAnd (i j : Nat) : Bool := (List.range 8).foldl (fun p k => p != (bit i k && bit j k)) false

/-- R45: one rotated element of a block. -/
def rotated (h : Nat) (x : List Val) (i : Nat) : Val :=
  (sumVals ((x.zip (List.range x.length)).map (fun p => if oddAnd i p.2 then p.1.neg else p.1))).scale (-(h / 2 : Nat))

/-- R45: rotates blocks of 2^h elements. -/
def rotate (h : Nat) : Nat → List Val → List Val
  | 0, _ => []
  | k + 1, xs =>
    let x := xs.take (2 ^ h)
    (List.range x.length).map (rotated h x) ++ rotate h k (xs.drop (2 ^ h))

/-- h of R45. -/
def rotLog2 (rot : Nat) : Nat := if rot = 1 then 6 else 8

/-- One operand as the loader handles it: stored format and its scale, plate format and its scale, rotation, sign of
the smoothing exponents. -/
structure Loader where
  fmt    : Nat
  loadq  : Bool
  source : Scale
  scale  : Scale
  rot    : Nat
  smooth : Int
  deriving DecidableEq, Repr

/-- R105: the scale of an operand stored as BF16 (log 56). -/
def Entry.sourceScale (e : Entry) : Scale :=
  if e.curValid && !isIntCode e.curFmt then .exp (expField e.scaleCur) else .exp 0

/-- R45 to R47: exact values of a vector, rotated or smoothed. -/
def Loader.exact (l : Loader) (sm : List Int) (codes : List Nat) : List Val :=
  let vs := codes.map (fun c => if l.loadq then onPlate l.source (codeVal codeBF16 c) else codeVal l.fmt c)
  if l.rot ≠ 0 then rotate (rotLog2 l.rot) (vs.length / 2 ^ rotLog2 l.rot) vs
  else if sm.isEmpty then vs
  else List.zipWith (fun v e => v.scale (l.smooth * e)) vs sm

/-- R48: quantises one value. -/
def Loader.quantise (l : Loader) (v : Val) : Nat × Conv := storedCode l.fmt .nearest (v.div l.scale.value)

/-- R106: the value of an element on the plate. -/
def Loader.plate (l : Loader) (v : Val) : Val :=
  onPlate l.scale (if l.loadq then codeVal l.fmt (l.quantise v).1 else v)

/-- A vector along K as the plate receives it. -/
def Loader.load (l : Loader) (sm : List Int) (codes : List Nat) : List Val := (l.exact sm codes).map l.plate

def loaderA (d : MatDesc) (e : Entry) (sc : Scale) : Loader := ⟨d.aFmt, d.aLoadq, e.sourceScale, sc, d.rotA, -1⟩
def loaderB (d : MatDesc) (e : Entry) (sc : Scale) : Loader := ⟨d.bFmt, d.bLoadq, e.sourceScale, sc, d.rotB, 1⟩

/-- R117, R127: counts one quantised element; its amax is that of the quantised values. -/
def Loader.tally (l : Loader) (u : SlotUse) (v : Val) : SlotUse :=
  let q := l.quantise v
  u.add ((codeVal l.fmt q.1).mul l.scale.value) (if v.isFinite then q.2 else .nonfinite)

/-- The largest magnitude among finite values. -/
def amaxOf (vs : List Val) : Val := vs.foldl maxMag .zero

/-! ### Tile sums (R68 to R72) -/

/-- The integer a value stands for. -/
def valInt : Val → Int
  | .num neg n _ _ => signedAt neg n
  | _ => 0

/-! ### Residues (R291, R292, R294) -/

/-- R291: exponent of a format's least magnitude; that of an integer is 1. -/
def leastUnit (fmt : Nat) : Int :=
  match floatFmt fmt with
  | some f => f.qmin
  | none => 0

/-- R70: exponent of the tree's least significant bit. -/
def treeUnit (a b : Nat) : Int :=
  if isIntCode a then 0
  else if a = codeE5M2 ∨ b = codeE5M2 then -32
  else if a = codeE2M1 ∧ b = codeE2M1 then -2
  else -18

/-- The exponent an operand's scale adds on the plate (R106). -/
def Scale.shift : Scale → Int
  | .exp e => e
  | .bf _ => 0

/-- A value as a whole number of units 2^u. -/
def unitsOf (u : Int) : Val → Int
  | .num neg n _ e => let p := pow2Frac (e - u); signedAt neg (n * p.1 / p.2)
  | _ => 0

/-- R291: rho of an integer. -/
def rho (x : Int) : Nat := if x < 0 then 255 - x.natAbs % 255 else x.natAbs % 255

/-- Exponent of the units in which the run's operand values of A, of B and its tile integers count (R70, R106, R291). -/
def MatRun.unitA (r : MatRun) : Int := leastUnit r.d.aFmt + r.aScale.shift
def MatRun.unitB (r : MatRun) : Int := leastUnit r.d.bFmt + r.bScale.shift
def MatRun.unitTree (r : MatRun) : Int := treeUnit r.d.aFmt r.d.bFmt + r.aScale.shift + r.bScale.shift

/-- R291: r_pred of a tile of 8-bit or 4-bit mode, from the operands as they enter the column. -/
def MatRun.predicted (r : MatRun) (as bs : List Val) : Nat :=
  let j := (r.unitA + r.unitB - r.unitTree).toNat % 8
  (List.zipWith (fun a b => rho (unitsOf r.unitA a) * rho (unitsOf r.unitB b) * 2 ^ j) as bs).sum % 255

/-- R292: the sum of the aligned terms' residues of a 16-bit tile, in window units. -/
def windowPredicted (ps : List Val) : Nat :=
  match windowOf ps with
  | none => 0
  | some w => ((ps.filter (fun p => !p.isZero)).map (fun p => rho (windowTerm w.2.1 p).1)).sum % 255

/-- The tree integer of a tile: in tree units, or in window units in 16-bit mode (R291, R292). -/
def MatRun.treeInt (r : MatRun) (ps : List Val) : Int :=
  match r.d.mode with
  | .bit16 => match windowOf ps with
    | some w => w.1
    | none => 0
  | _ => unitsOf r.unitTree (sumVals ps)

/-- r_tree of R291 for a tree integer that a fault changed by `e`. The two's complement integer's value is meant, as the worked
example of R294 counts it. -/
def treeResidue (t e : Int) : Nat := ((t + e) % 255).toNat

/-- R291: the tile is residue-checked: no product of it has a NaN or an infinity as an operand. -/
def tileChecked (as bs : List Val) : Bool := as.all Val.isFinite && bs.all Val.isFinite

/-- R291, R292: a tile whose tree integer a fault changed by `e` has a residue failure. -/
def MatRun.residueFails (r : MatRun) (as bs : List Val) (e : Int) : Bool :=
  let ps := List.zipWith Val.mul as bs
  let pred := match r.d.mode with
    | .bit16 => windowPredicted ps
    | _ => r.predicted as bs
  tileChecked as bs && pred != treeResidue (r.treeInt ps) e

/-- R69 to R71: the tile sum of a float column whose tree integer a fault changed by `e`. -/
def MatRun.tileWith (r : MatRun) (ps : List Val) (e : Int) : BitVec 24 :=
  match r.d.mode with
  | .bit16 => windowSumWith ps e
  | _ => if e = 0 then tileSum ps else tileSum (ps ++ [(Val.ofInt e).scale r.unitTree])

/-- The tile sum as the check buffer of R300 holds it. -/
def MatRun.tileBits (r : MatRun) (as bs : List Val) (e : Int) : BitVec 48 :=
  let ps := List.zipWith Val.mul as bs
  if r.d.isInt then BitVec.ofInt 48 (valInt (sumVals ps) + e) else BitVec.ofNat 48 (r.tileWith ps e).toNat

/-- What a run's faults change in the tile of a row and column. -/
def faultOf (fs : List TileFault) (row col : Nat) : Int :=
  ((fs.filter (fun f => f.row == row && f.col == col)).map (·.e)).sum

/-! ### Positions and the ladder (R81 to R88) -/

/-- Random words of a MATMUL's ladder and drain (R94, R95): stream, sub-stream, element index. -/
def MatRun.rand (r : MatRun) (seed : Word) (step stream sub i : Nat) : BitVec 32 :=
  randWord seed r.d.outTid r.d.srUse step stream sub i

/-- R87: closes the latest root window of an element; whether a ladder addition was made. -/
def ElemAcc.close (rand : Nat → BitVec 32) (a : ElemAcc) : ElemAcc × Bool :=
  match windowRoots a.leaves with
  | [] => (a, false)
  | (w, v) :: _ =>
    match a.lam with
    | none => (⟨some v, []⟩, false)
    | some l => (⟨some (srA24 (rand w) ((a24Value l).add (a24Value v))), []⟩, true)

/-- R88: a position beyond the window of the leaves held so far. -/
def ElemAcc.beyondWindow (a : ElemAcc) (p : Nat) : Bool := a.leaves.any (fun x => x.1 / 4096 < p / 4096)

/-- A tile sum enters the tree at position `p`. -/
def ElemAcc.enter (rand : Nat → BitVec 32) (a : ElemAcc) (p : Nat) (v : BitVec 24) : ElemAcc × Bool :=
  let c := if a.beyondWindow p then a.close rand else (a, false)
  ({ c.1 with leaves := c.1.leaves ++ [(p, v)] }, c.2)

/-- R83: the tree value of an element. -/
def ElemAcc.value (rand : Nat → BitVec 32) (a : ElemAcc) : BitVec 24 × Bool :=
  let c := a.close rand
  (c.1.lam.getD a24Zero, c.2)

/-- Folds one element's products of a K-tile at position `p`; `e`: what a fault that no check caught changed in their tile. -/
def MatRun.enter (r : MatRun) (seed : Word) (step p i : Nat) (ps : List Val) (e : Int) : MatRun :=
  if r.d.isInt then { r with ints := r.ints.set 0 i (r.ints.get 0 i + (valInt (sumVals ps) + e)) }
  else
    let x := (r.elems.get ⟨none, []⟩ i).enter (fun w => r.rand seed step 1 w i) p (r.tileWith ps e)
    { r with elems := r.elems.set ⟨none, []⟩ i x.1, ladder := r.ladder || x.2 }

/-- One row of A against every column of the slice, from its `col`-th on. -/
def MatRun.enterRow (r : MatRun) (seed : Word) (step p i : Nat) (err : Nat → Int) (col : Nat) (a : List Val) :
    List (List Val) → MatRun
  | [] => r
  | b :: bs =>
    (r.enter seed step p i (List.zipWith Val.mul a b) (err col)).enterRow seed step p (i + 1) err (col + 1) a bs

/-- Every row of a block from its `row`-th on: `m` is the row of the output, `n0` the first column of the slice. -/
def MatRun.enterRows (r : MatRun) (seed : Word) (step p m n0 : Nat) (err : Nat → Nat → Int) (row : Nat)
    (bs : List (List Val)) : List (List Val) → MatRun
  | [] => r
  | a :: as =>
    (r.enterRow seed step p (m * r.d.n + n0) (err row) 0 a bs).enterRows seed step p (m + 1) n0 err (row + 1) bs as

/-! ### Result slots (R75 to R77) -/

/-- Die and address of the result slot of an element in whole form. -/
def MatDesc.slotAt (d : MatDesc) (m n : Nat) : Nat × Nat :=
  let x := d.mode.ws d.band
  let h := halfOf x.1 x.2 n
  (h.1, 0x20100000000 + h.1 * 0x2000000 + 3 * (d.firstSlot + d.e * (m * d.halves h.1 + h.2)))

/-- The old value of an element's result slot. -/
def State.readSlot (s : State) (d : MatDesc) (m n : Nat) : State × Except MemErr (BitVec 48) :=
  let x := d.slotAt m n
  match s.readAt (.acc x.1) x.2 (3 * d.e) with
  | (s1, .ok bs) => (s1, .ok (BitVec.ofNat 48 (leNat bs)))
  | (s1, .error e) => (s1, .error e)

/-- R74: keeps an integer result within I48; whether it saturated. -/
def clampI48 (x : Int) : Int × Bool :=
  let y := clampInt (-(2 ^ 47)) (2 ^ 47 - 1) x
  (y, decide (y ≠ x))

/-- R83: C of one element, from its tree value and the old slot value. -/
def MatRun.resultOf (r : MatRun) (seed : Word) (step i : Nat) (old : BitVec 48) : MatRun × BitVec 48 :=
  if r.d.isInt then
    let x := clampI48 (r.ints.get 0 i + (if r.d.accAdd then old.toInt else 0))
    ({ r with intSat := r.intSat + bitOf x.2 }, BitVec.ofInt 48 x.1)
  else
    let v := (r.elems.get ⟨none, []⟩ i).value (fun w => r.rand seed step 1 w i)
    let c := if r.d.accAdd then fold (BitVec.ofNat 24 old.toNat) v.1 else v.1
    ({ r with ladder := r.ladder || v.2 }, BitVec.ofNat 48 c.toNat)

/-- R85: a result of a chain whose region was written is undefined. -/
def MatRun.spoiltResult (r : MatRun) (g i : Nat) : BitVec 48 :=
  BitVec.ofNat 48 ((Config.freeBits 48 g i).toNat % 2 ^ (24 * r.d.e))

/-- C of elements of one row from column `n` on; `spoilt`: the draw that names undefined results. -/
def State.finishRow (s : State) (seed : Word) (step m n : Nat) (spoilt : Option Nat) (r : MatRun) :
    Nat → State × Except MemErr MatRun
  | 0 => (s, .ok r)
  | k + 1 =>
    let i := m * r.d.n + n
    let old := if r.d.accAdd then s.readSlot r.d m n else (s, .ok 0)
    match old with
    | (s1, .error e) => (s1, .error e)
    | (s1, .ok x) =>
      let c := r.resultOf seed step i x
      let v := match spoilt with
        | some g => r.spoiltResult g i
        | none => c.2
      s1.finishRow seed step m (n + 1) spoilt { c.1 with results := c.1.results.set 0 i v } k

/-- C of every element of a block: rows `m` on, columns n0 on. -/
def State.finishRows (s : State) (seed : Word) (step m n0 w : Nat) (spoilt : Option Nat) (r : MatRun) :
    Nat → State × Except MemErr MatRun
  | 0 => (s, .ok r)
  | k + 1 =>
    match s.finishRow seed step m n0 spoilt r w with
    | (s1, .ok r1) => s1.finishRows seed step (m + 1) n0 w spoilt r1 k
    | z => z

/-! ### Values of results (R121, R124) -/

/-- The real value of a result: C, or v of an integer MATMUL. -/
def MatRun.realOf (r : MatRun) (c : BitVec 48) : Val :=
  if r.d.isInt then ((Val.ofInt c.toInt).mul r.aScale.value).mul r.bScale.value
  else a24Value (BitVec.ofNat 24 c.toNat)

/-- R124: the A24 value of a result that row statistics and amax take. -/
def MatRun.statOf (r : MatRun) (c : BitVec 48) : BitVec 24 :=
  if r.d.isInt then a24Round (r.realOf c) else BitVec.ofNat 24 c.toNat

end Sys2Proof.Machine
end

