-- ==== Sys2Proof/Machine/VecWord.lean ====
section
/-! DEFINITION. Vector instruction words (R139 to R144): fields, opcodes, operand shapes, and the checks of a program
before it runs (R138). -/

namespace Sys2Proof.Machine

/-! ### The V-format (R140) -/

def wordOp (w : Word) : Nat := bits w.toNat 7 0
def wordVD (w : Word) : Nat := bits w.toNat 13 8
def wordVA (w : Word) : Nat := bits w.toNat 19 14
def wordVB (w : Word) : Nat := bits w.toNat 25 20
def wordVC (w : Word) : Nat := bits w.toNat 31 26
/-- The scalar block b of R147. -/
def wordBlock (w : Word) : Nat := bits w.toNat 28 26
def wordScale (w : Word) : Nat := bits w.toNat 30 29
def wordOpt (w : Word) : Bool := bit w.toNat 31
def wordPred (w : Word) : Nat := bits w.toNat 34 32
def wordPen (w : Word) : Bool := bit w.toNat 35
def wordPneg (w : Word) : Bool := bit w.toNat 36
def wordPzero (w : Word) : Bool := bit w.toNat 37
/-- Elements: COUNT + 1. -/
def wordCount (w : Word) : Nat := bits w.toNat 53 38 + 1
def wordEtype (w : Word) : Nat := bits w.toNat 56 54
def wordBsrc (w : Word) : Nat := bits w.toNat 58 57
def wordRnd (w : Word) : Nat := bits w.toNat 60 59
def wordSlot (w : Word) : Nat := bits w.toNat 62 61
def wordKeep (w : Word) : Bool := bit w.toNat 63

/-! ### The S-format (R141) -/

def wordSD (w : Word) : Nat := bits w.toNat 12 8
def wordSA (w : Word) : Nat := bits w.toNat 18 14
def wordSB (w : Word) : Nat := bits w.toNat 24 20
def wordImm (w : Word) : Nat := bits w.toNat 63 32

/-! ### Types (R133) -/

def etBF16 : Nat := 0
def etFP16 : Nat := 1
def etINT16 : Nat := 2
def etA24 : Nat := 4
def etINT32 : Nat := 5

def etypeOk (t : Nat) : Bool := [0, 1, 2, 4, 5].contains t
def isInt (t : Nat) : Bool := t == etINT16 || t == etINT32
/-- Held in a register pair. -/
def isWide (t : Nat) : Bool := t == etA24 || t == etINT32
/-- Bits of an element. -/
def etBits (t : Nat) : Nat := if isWide t then 32 else 16
/-- Bits of an integer type. -/
def etFloat (t : Nat) : FloatFmt := if t = 0 then fmtBF16 else if t = 1 then fmtFP16 else fmtA24

/-! ### Opcodes (R144) -/

/-- Whether an opcode is in the list. -/
def opListed (op : Nat) : Bool :=
  decide (op ≤ 0x33) || (decide (0x40 ≤ op) && decide (op ≤ 0x54)) || (decide (0x58 ≤ op) && decide (op ≤ 0x6B)) ||
    (decide (0x70 ≤ op) && decide (op ≤ 0x7E)) || op == 0x80 || op == 0x81

def isScalar (op : Nat) : Bool := decide (op < 0x10)

/-- VB[3:0] names a memory format. -/
def opMemFmt (op : Nat) : Bool := decide (0x60 ≤ op) && decide (op ≤ 0x65)
/-- VC holds the scalar block, SCALE and OPT: memory, conversion, random and statistics opcodes (R140). -/
def opBlocked (op : Nat) : Bool :=
  (decide (0x60 ≤ op) && decide (op ≤ 0x67)) || (decide (0x50 ≤ op) && decide (op ≤ 0x54)) || op == 0x80 || op == 0x81
def opLoads (op : Nat) : Bool := op == 0x60 || op == 0x62 || op == 0x63
/-- VST and VSCATTER; VSCATADD adds into its locations and is no store of R152 (log 51). -/
def opStores (op : Nat) : Bool := op == 0x61 || op == 0x64

/-- VD is a vector register (or pair) of ETYPE. -/
def opDestVec (op : Nat) : Bool :=
  (decide (0x10 ≤ op) && decide (op ≤ 0x33)) || op == 0x48 || (decide (0x50 ≤ op) && decide (op ≤ 0x5F)) || opLoads op ||
    op == 0x68 || op == 0x69

/-- VSEGSUM to VSEGMAXABS: VD is a pair (R161). -/
def opSegs (op : Nat) : Bool := decide (0x77 ≤ op) && decide (op ≤ 0x7B)

/-- VA is a vector source of ETYPE. -/
def opSrcA (op : Nat) : Bool :=
  (decide (0x10 ≤ op) && decide (op ≤ 0x31)) || (decide (0x40 ≤ op) && decide (op ≤ 0x48)) ||
    (decide (0x51 ≤ op) && decide (op ≤ 0x5F)) || op == 0x61 || op == 0x64 || op == 0x65 ||
    (decide (0x70 ≤ op) && decide (op ≤ 0x7B) && op != 0x75) || op == 0x81

/-- VB is a second source of ETYPE, read as BSRC selects. -/
def opSrcB (op : Nat) : Bool :=
  [0x10, 0x11, 0x12, 0x13, 0x14, 0x15, 0x16, 0x1B, 0x1C, 0x1D, 0x1E, 0x21, 0x23, 0x24, 0x25, 0x26, 0x27, 0x28, 0x29, 0x2A,
    0x2C, 0x2D, 0x2E, 0x32, 0x40, 0x41, 0x42, 0x43, 0x44, 0x45, 0x46, 0x48, 0x5B, 0x5C].contains op

/-- VC is a third vector source: VFMA, VFMS, VNFMA, VLERP, VCLAMP. -/
def opSrcC (op : Nat) : Bool := [0x13, 0x14, 0x15, 0x26, 0x27].contains op

/-- R144, R155: the ETYPEs an opcode takes. -/
def opTakes (op t : Nat) : Bool :=
  if decide (0x28 ≤ op) && decide (op ≤ 0x30) || op == 0x33 then isInt t
  else if op == 0x68 || op == 0x69 then !isInt t
  else true

/-- R133, R138: an odd register named as a pair. -/
def oddPair (w : Word) : Bool :=
  let op := wordOp w
  let wide := isWide (wordEtype w)
  let odd := fun (x : Nat) => x % 2 == 1
  (wide && ((opDestVec op && odd (wordVD w)) || (opSrcA op && odd (wordVA w)) ||
      (opSrcB op && wordBsrc w == 0 && odd (wordVB w)) || (opSrcC op && odd (wordVC w)))) ||
  (op == 0x50 && isWide (bits (wordVB w) 2 0) && odd (wordVA w)) ||
  (op == 0x63 && odd (wordVA w)) || ((op == 0x64 || op == 0x65) && odd (wordVD w)) || (opSegs op && odd (wordVD w))

/-! ### Memory formats (R149) -/

def memFmt (w : Word) : Nat := bits (wordVB w) 3 0

/-- INT8, INT4, INT16, INT32. -/
def memIsInt (f : Nat) : Bool := f == 5 || f == 6 || f == 8 || f == 9

/-- Formats that need a slot when stored. -/
def memScaled (f : Nat) : Bool := f == 1 || f == 2 || f == 3 || f == 4 || f == 5

/-- Bits between packed elements. -/
def memBits (f : Nat) : Nat :=
  match f with
  | 0 => 16
  | 1 => 16
  | 4 => 4
  | 6 => 4
  | 7 => 24
  | 8 => 16
  | 9 => 32
  | 10 => 32
  | _ => 8

/-- R152: a store under a slot. -/
def storesUnder (w : Word) (inUse : Bool) : Bool :=
  opStores (wordOp w) && (memScaled (memFmt w) || (memFmt w == 0 && inUse))

/-- R151: a load that takes a slot's scale. -/
def loadScaled (w : Word) (inUse : Bool) : Bool :=
  inUse && opLoads (wordOp w) && (!memIsInt (memFmt w) || !isInt (wordEtype w))

/-- R149: a pairing of memory format and ETYPE that fails. -/
def badPairing (w : Word) (inUse : Bool) : Bool :=
  let op := wordOp w
  let f := memFmt w
  let ti := isInt (wordEtype w)
  (decide (0xA < f)) ||
  (op == 0x65 && !(List.contains [0, 1, 7, 8, 9, 10] f)) ||
  (opStores op && f == 6) ||
  (memIsInt f != ti &&
    !(inUse && !ti && ((opLoads op && (f == 5 || f == 6)) || (opStores op && f == 5))))

/-- R156: a word that draws random bits. -/
def drawsBits (w : Word) : Bool := wordRnd w == 1 || wordOp w == 0x80

/-! ### The checks of a program (R138, R139, R142) -/

/-- R142: fields a scalar word must leave 0. -/
def scalarBad (w : Word) : Bool :=
  let op := wordOp w
  let sd := wordSD w != 0
  let sa := wordSA w != 0
  let sb := wordSB w != 0
  let im := wordImm w != 0
  bit w.toNat 13 || bit w.toNat 19 || bits w.toNat 31 25 != 0 ||
  (match op with
   | 0x00 => sd || sa || sb || im
   | 0x01 => sd || sa || sb || im
   | 0x02 => sa || sb
   | 0x03 => sa || sb
   | 0x04 => sb || im
   | 0x06 => sb
   | 0x0E => sa || sb
   | 0x0F => decide (3 < wordSD w)
   | _ => im)

/-- Scalar words that write S[SD]. -/
def scalarWrites (op : Nat) : Bool := decide (2 ≤ op) && decide (op ≤ 0x0E)

/-- The loops of a program: target, index of the SLOOP, counter. -/
def loopsOf : Nat → List Word → List (Nat × Nat × Nat)
  | _, [] => []
  | i, w :: ws => if wordOp w = 0x0E then (wordImm w, i, wordSD w) :: loopsOf (i + 1) ws else loopsOf (i + 1) ws

/-- Two bodies that overlap without nesting. -/
def crossing (a b : Nat × Nat × Nat) : Bool :=
  decide (a.1 < b.2.1) && decide (b.1 < a.2.1) &&
    !((decide (a.1 ≤ b.1) && decide (b.2.1 ≤ a.2.1)) || (decide (b.1 ≤ a.1) && decide (a.2.1 ≤ b.2.1)))

/-- R139: a target out of place, a body that writes its counter, or two bodies that cross. -/
def flowBad (ws : List Word) : Bool :=
  let ls := loopsOf 0 ws
  let jump := fun (p : Nat × Word) =>
    wordOp p.2 == 0x0F && !(decide (p.1 < wordImm p.2) && decide (wordImm p.2 < ws.length))
  ((List.range ws.length).zip ws).any jump ||
  ls.any (fun l => decide (l.2.1 ≤ l.1) ||
    ((ws.drop l.1).take (l.2.1 - l.1)).any (fun x => scalarWrites (wordOp x) && wordSD x == l.2.2)) ||
  ls.any (fun a => ls.any (fun b => crossing a b))

/-- R138: what one V-format word breaks, given which slots are in use, their entries as read, and ENGINE = 3. The checks on where the
scale comes from are made of every store under a slot, not of its first alone (DESIGN CHOICE, log 79). -/
def vectorBad (w : Word) (valid : List Bool) (entries : List Entry) (both seedValid : Bool) : Bool :=
  let op := wordOp w
  let t := wordSlot w
  let used := valid.getD t false
  let e := entries.getD t Entry.free
  let f := memFmt w
  let under := storesUnder w used
  !etypeOk (wordEtype w) || wordBsrc w == 3 || wordRnd w == 3 || (opBlocked op && decide (1 < wordScale w)) ||
  !opTakes op (wordEtype w) || oddPair w || (op == 0x50 && !etypeOk (bits (wordVB w) 2 0)) ||
  (wordRnd w == 1 && !(op == 0x50 || op == 0x61 || op == 0x64)) ||
  (op == 0x48 && (wordPen w || wordPzero w)) ||
  (drawsBits w && (!used || !seedValid)) ||
  (opMemFmt op && badPairing w used) ||
  (loadScaled w used && (e.operandScale f).isNone) ||
  (under &&
    (!used ||
     (memScaled f &&
      (if wordScale w = 1 then both
       else if e.pinned then e.pinRefused f
       else e.histCount == 0))))

/-- R138: stores under one slot that name different formats. -/
def formatsDiffer (ws : List Word) (valid : List Bool) : Bool :=
  let st := (ws.filter (fun w => !isScalar (wordOp w) && storesUnder w (valid.getD (wordSlot w) false))).map
    (fun w => (wordSlot w, memFmt w))
  st.any (fun a => st.any (fun b => a.1 == b.1 && a.2 != b.2))

/-- R138: whether a program may not run. -/
def programBad (ws : List Word) (valid : List Bool) (entries : List Entry) (both seedValid : Bool) : Bool :=
  ws.any (fun w => !opListed (wordOp w) ||
    (if isScalar (wordOp w) then scalarBad w else vectorBad w valid entries both seedValid)) ||
  flowBad ws || formatsDiffer ws valid

end Sys2Proof.Machine
end

