-- ==== Sys2Proof/Machine/VecRun.lean ====
section
/-! DEFINITION. Running a VEC (R136, R137, R168 to R170, R297): its start, one word at a time with its checks and its
timing, and its completion. -/

namespace Sys2Proof.Machine

def dieIndex : Die → Nat
  | .c0 => 0
  | .c1 => 1

/-! ### The descriptor (R136) -/

def Op.tids (o : Op) : List (BitVec 32) :=
  [0x28, 0x2C, 0x30, 0x34].map (fun i => BitVec.ofNat 32 (field o.desc i 4))
def Op.useCtrs (o : Op) : List (BitVec 16) :=
  [0x38, 0x3A, 0x3C, 0x3E].map (fun i => BitVec.ofNat 16 (field o.desc i 2))
def Op.slotsUsed (o : Op) : List Bool := [13, 14, 15, 16].map (bit (o.w 0))
def Op.progAddr (o : Op) : Nat := bits (o.w 0x10) 47 0
/-- CHECK of a MATMUL or VEC. -/
def Op.checkField (o : Op) : Nat := bits (o.w 0) 10 9

/-- R5, R136: a descriptor field that breaks its table. -/
def vecDescBad (o : Op) : Bool :=
  bits (o.w 0) 31 17 != 0 || o.engine == 0 || bits (o.w 8) 63 48 != 0 || bits (o.w 8) 47 0 % 128 != 0 ||
  bits (o.w 0x10) 63 48 != 0 || o.progAddr % 64 != 0 || bits (o.w 0x18) 63 17 != 0 ||
  o.progLen == 0 || decide (65536 < o.progLen) || bits (o.w 0x20) 63 48 != 0 || o.resultAddr % 32 != 0 ||
  (o.slotsUsed.zip (o.tids.zip o.useCtrs)).any (fun p => !p.1 && (p.2.1 != 0 || p.2.2 != 0))

/-! ### When it starts (R137, R153) -/

/-- Earlier ops of any program that have not completed. -/
def State.before (s : State) (o : Op) : List Op := s.seq.window.filter (fun x => x.id < o.id)

/-- Entries an op updates (R110, R153, R274). -/
def Op.updates (o : Op) : List Nat :=
  if o.kind = opVec then o.entries
  else if o.kind = opMatmul then
    let d := matDesc o
    (if d.aLoadq then [entryIndex d.aTid] else []) ++ (if d.bLoadq then [entryIndex d.bTid] else []) ++
      (if d.drains then [entryIndex d.outTid] else [])
  else if o.kind = opColl then
    let d := collDesc o
    if d.outTidv then [entryIndex d.outTid] else []
  else []

/-- R110, R153, R274: no earlier op that names entries stands in the way of an op's entries. -/
def State.entriesFree (s : State) (o : Op) : Bool :=
  (s.before o).all (fun x => !x.updates.any o.entries.contains && !x.entries.any o.updates.contains)

/-- R137: no earlier VEC names an engine of this one. The manual orders the VECs of one program; those of different programs run on
an engine in the order taken (DESIGN CHOICE, log 79). -/
def State.enginesFree (s : State) (o : Op) : Bool :=
  (s.before o).all (fun x => x.kind != opVec || (!(x.onEngine 0 && o.onEngine 0) && !(x.onEngine 1 && o.onEngine 1)))

/-- R148: program fetch may reach HBM and local store. -/
def allowProgram : Allow
  | .hbm => true
  | .local_ _ => true
  | _ => false

/-- The words of a program's bytes. -/
def wordsOf : Nat → List Byte → List Word
  | 0, _ => []
  | n + 1, bs => BitVec.ofNat 64 (leNat (bs.take 8)) :: wordsOf n (bs.drop 8)

/-- R137 step 4: S0 to S31 at the start. -/
def startScalars (o : Op) (die : Nat) : SMap Word :=
  ((List.range 8).foldl (fun (m : SMap Word) i => m.set 0 i (BitVec.ofNat 64 (o.w (0x40 + 8 * i)))) []).set 0 31
    (BitVec.ofNat 64 die)

/-- The run of an engine at its start. -/
def startRun (o : Op) (p : Program) (ws : List Word) (entries : List Entry) (gs : SMap (BitVec 24 × Nat)) : VecRun :=
  { op := o.id, prog := ws, pc := 0, ended := false, check := effectiveCheck o.checkField p.check, root := p.root
    seed := p.seed, step := o.step.getD 0, tids := o.tids, useCtr := o.useCtrs, valid := o.slotsUsed
    entries := entries, uses := [], words := 0, failure := none, faultPc := none, masked := false, lastStart := 0
    lastOcc := 0, busyEnd := 0, pipes := [], gstat0 := gs, wrote := [] }

/-- Starts an engine on an issued VEC. -/
def State.startEngine (s : State) (o : Op) (p : Program) (ws : List Word) (entries : List Entry) (die : Nat) : State :=
  let e := s.engine die
  s.setEngine die { e with s := startScalars o die, run := some (startRun o p ws entries e.gstat) }

/-- Completes a VEC that does not start. -/
def State.endVecEarly (s : State) (o : Op) (status : Nat) (d : Option Word) : Option State :=
  let i := s.issue o
  i.1.finishTelling i.2 status d (i.1.recordOf i.2 s.clock.time) (fun x _ => x.countVecs o)

/-- R107: the entries of the slots, none where one is bound to another ID. -/
def State.slotEntries (s : State) (o : Op) (p : Program) : List (Option Entry) :=
  (o.slotsUsed.zip o.tids).map (fun x => if x.1 then s.entryFor x.2 p.histLen p.marginExp else some Entry.free)

/-- VEC. -/
def vec (op : Nat) (s : State) : Option State :=
  match s.op op with
  | none => none
  | some o =>
    match s.program o.ring with
    | none => none
    | some p =>
      if o.kind != opVec || !s.opFree o || !s.enginesFree o || !s.entriesFree o then none
      else if vecDescBad o then s.endVecEarly o 0x20 none
      else
        match s.readVirt p.root allowProgram o.progAddr (8 * o.progLen) with
        | (s1, .error e) => s1.endVecEarly o e.status e.word
        | (s1, .ok bs) =>
          let ws := wordsOf o.progLen bs
          let es := s1.slotEntries o p
          let entries := es.map (·.getD Entry.free)
          if es.any (·.isNone) || programBad ws o.slotsUsed entries (o.engine == 3) s1.numerics.seedValid then
            s1.endVecEarly o 0x20 none
          else
            let i := s1.issue o
            let s2 := i.1.onlyIf (o.onEngine 0) (fun x => x.startEngine i.2 p ws entries 0)
            some (s2.onlyIf (o.onEngine 1) (fun x => x.startEngine i.2 p ws entries 1))

/-! ### Registers -/

/-- S register n of an engine. -/
def Engine.sreg (e : Engine) (n : Nat) : Nat := (e.s.get 0 n).toNat
def Engine.setS (e : Engine) (n v : Nat) : Engine := { e with s := e.s.set 0 n (BitVec.ofNat 64 v) }
def State.setRun (s : State) (die : Nat) (r : VecRun) : State :=
  s.setEngine die { s.engine die with run := some r }

/-! ### Names of results (R168, log 53) -/

def nameV (n : Nat) : Nat × Nat := (n, n + 1)
def nameS (n : Nat) : Nat × Nat := (64 + n, 65 + n)
def nameP (n : Nat) : Nat × Nat := (96 + n, 97 + n)
def nameQ (n : Nat) : Nat × Nat := (104 + n, 105 + n)
def nameTable (t : Nat) : Nat × Nat := (120 + t, 121 + t)
def nameGstat : Nat × Nat := (136, 137)
/-- Memory at virtual addresses. -/
def nameMem (a n : Nat) : Nat × Nat := (65536 + a, 65536 + a + n)
/-- A register or pair of a type. -/
def nameReg (t n : Nat) : List (Nat × Nat) := if isWide t then [nameV n, nameV (n + 1)] else [nameV n]

/-- Occupancy, latency, results read and written by a word (R167). -/
abbrev WordTime := Nat × Nat × List (Nat × Nat) × List (Nat × Nat)

/-- Virtual ranges among names. -/
def memNames (ns : List (Nat × Nat)) : List (Nat × Nat) :=
  ns.filterMap (fun n => if 65536 ≤ n.1 then some (n.1 - 65536, n.2 - n.1) else none)

/-- R168: VCLK at which a word starts. -/
def wordStart (r : VecRun) (occ : Nat) (reads : List (Nat × Nat)) : Nat :=
  reads.foldl (fun m n => r.pipes.foldl (fun k p =>
    if n.1 < p.hi ∧ p.lo < n.2 then max k (p.start + p.lat + (p.occ - occ)) else k) m) (r.lastStart + r.lastOcc)

/-- R168: the run after a word of the given occupancy. -/
def VecRun.timed (r : VecRun) (occ : Nat) (t : WordTime) : VecRun :=
  let st := wordStart r occ t.2.2.1
  let ws := t.2.2.2
  let kept := r.pipes.filter (fun p => !ws.any (fun n => decide (n.1 ≤ p.lo) && decide (p.hi ≤ n.2)))
  { r with lastStart := st, lastOcc := occ, busyEnd := max r.busyEnd (st + occ + t.2.1)
           pipes := kept ++ ws.map (fun n => Pipe.mk n.1 n.2 st occ t.2.1) }

/-- Occupancy with the checks of R289 and R297: doubled when checked, once more for a vote. -/
def checkedOcc (checked voted : Bool) (occ : Nat) : Nat := occ * (1 + bitOf checked + bitOf voted)

/-! ### One word -/

/-- What a word does to registers and memory: a new state, and the status and detail of a failure. -/
abbrev VecEffect := Nat → VecRun → Word → State → State × Option (Nat × Nat)

/-- The word an engine is about to execute, if its opcode is `op` and its bits are `w`. -/
def State.atWord (s : State) (die : Nat) (w : Word) (op : Nat) : Option VecRun :=
  match (s.engine die).run with
  | none => none
  | some r => if wordOp w == op && !r.ended && r.prog[r.pc]? == some w then some r else none

/-- Whether the other engine's run of the same op has failed already. -/
def State.otherFailed (s : State) (die : Nat) (r : VecRun) : Bool :=
  ((s.engine (1 - die)).run).any (fun x => x.op == r.op && x.failure.isSome)

/-- R138, R148, R297: a word fails, and its program ends there. The first failure of the VEC is recorded. -/
def State.failWord (s : State) (die : Nat) (r : VecRun) (status detail : Nat) : State :=
  let first := !s.otherFailed die r
  s.setRun die { r with ended := true, words := r.words + 1
                        failure := if first then some (status, detail) else none
                        faultPc := if first then some r.pc else none }

/-- R213: a word that leaves results undefined fails. -/
def State.spoilWord (s : State) (die : Nat) (r : VecRun) (status : Nat) (t : WordTime) : State :=
  (s.undefRegs r.root die (memNames t.2.2.2)).failWord die r status 0

/-- Adds written ranges, joining one that goes on where the last ended. -/
def addRange (ws : List (Nat × Nat)) (x : Nat × Nat) : List (Nat × Nat) :=
  match ws with
  | [] => [x]
  | (a, n) :: t => if a + n = x.1 then (a, n + x.2) :: t else x :: (a, n) :: t

/-- The program goes on at word `next`. -/
def VecRun.advance (r : VecRun) (next occ : Nat) (t : WordTime) : VecRun :=
  { (r.timed occ t) with pc := next, words := r.words + 1, ended := decide (r.prog.length ≤ next)
                         wrote := (memNames t.2.2.2).foldl addRange r.wrote }

/-- R305: bytes of the vector registers and predicates that a name stands for, `n` elements of it. -/
def regBytes (die n : Nat) (x : Nat × Nat) : Option (Nat × Nat) :=
  if x.1 < 64 then some (hiddenAddr 4 die (x.1 * 131072), 2 * n)
  else if 96 ≤ x.1 ∧ x.1 < 104 then some (hiddenAddr 4 die (0x800000 + (x.1 - 96) * 8192), ceilDiv n 8)
  else none

/-- Reads protected memory outside the map: meets its errors, and tells whether a block is poisoned. -/
def State.meetAll (s : State) : List (Nat × Nat) → State × Bool
  | [] => (s, false)
  | x :: xs =>
    let s1 := s.meet (blocksOf x.1 x.2)
    if (s1.poisoned x.1 x.2).isSome then (s1, true) else s1.meetAll xs

/-- Whether a word runs on duplicated lanes (R297). -/
def wordChecked (r : VecRun) (w : Word) : Bool := r.check == 3 || (r.check == 2 && wordKeep w)

/-- R297, R313: a vote or mismatch of a word. -/
def State.vectorVote (s : State) (die : Nat) (r : VecRun) (lost : Bool) : State :=
  let tag := ((s.op r.op).map (·.tag)).getD 0
  s.fault 5 tag die (bitOf lost) (if lost then 0x30 else 0) (256 * die) r.pc 0 noColumns

/-- Runs a V-format word: its sources are read, its duplicates compared, its effect written. -/
def State.runWord (s : State) (die : Nat) (r : VecRun) (w : Word) (v : UnitVote) (t : WordTime) (f : VecEffect) : State :=
  let checked := wordChecked r w
  let m := s.meetAll (t.2.2.1.filterMap (regBytes die (wordCount w)))
  if m.2 then m.1.spoilWord die r 0x31 t
  else
    let voted := match v with
      | .masked _ _ => checked
      | _ => false
    if checked && v == .mismatch then (m.1.vectorVote die r true).spoilWord die r 0x30 t
    else
      let s1 := match v with
        | .masked _ lane => if checked then (m.1.vectorVote die r false).laneCulprit die lane else m.1
        | _ => m.1
      let r1 : VecRun := { r with masked := r.masked || voted }
      match f die r1 w (s1.setRun die r1) with
      | (s2, some e) => if e.1 = 0x31 then s2.spoilWord die r1 e.1 t else s2.failWord die r1 e.1 e.2
      | (s2, none) =>
        match (s2.engine die).run with
        | none => s2
        | some r2 => s2.setRun die (r2.advance (r2.pc + 1) (checkedOcc checked voted t.1) t)

/-- A V-format word of one opcode, if it is the one the engine is about to execute. -/
def vecWord (die : Die) (w : Word) (op : Nat) (v : UnitVote) (time : Nat → VecRun → Word → State → WordTime) (f : VecEffect)
    (s : State) : Option State :=
  let d := dieIndex die
  match s.atWord d w op with
  | none => none
  | some r => some ((s.acting r.op).runWord d r w v (time d r w s) f)

/-! ### Completion (R152, R153, R169, R170) -/

/-- Counters of one slot over both dies. -/
def SlotUse.join (a b : SlotUse) : SlotUse :=
  { a with elements := a.elements + b.elements, nonfinite := a.nonfinite + b.nonfinite, zeros := a.zeros + b.zeros
           flushes := a.flushes + b.flushes, subnormals := a.subnormals + b.subnormals
           saturations := a.saturations + b.saturations, amax := maxMag a.amax b.amax }

/-- The use of slot t by the runs of a VEC. -/
def slotUse (runs : List VecRun) (t : Nat) : Option SlotUse :=
  match runs.filterMap (fun r => r.uses.get none t) with
  | [] => none
  | [a] => some a
  | a :: b :: _ => some (a.join b)

/-- R116, R127, R128: the entry of a slot after its use, with the health codes it raises. -/
def useEntry (e : Entry) (u : SlotUse) (p : Program) : Entry × List Nat :=
  let x := (e.drained u.scale u.fmt u.amax).used u p.flushLog2 p.runLength
  (x.1, (if u.saturations = 0 then [] else [1]) ++ x.2 ++ (if u.nonfinite = 0 then [] else [4]))

/-- Updates the entries of the slots a VEC stored under, and collects the health events due. -/
def State.useSlots (s : State) (p : Program) (runs : List VecRun) (o : Op) : List Nat → State × List (Entry × List Nat)
  | [] => (s, [])
  | t :: ts =>
    match slotUse runs t with
    | none => s.useSlots p runs o ts
    | some u =>
      let tid := o.tids.getD t 0
      let e := (s.entryFor tid p.histLen p.marginExp).getD (Entry.fresh tid p.histLen p.marginExp)
      let x := useEntry e u p
      let y := (s.setEntry (entryIndex tid) x.1).useSlots p runs o ts
      (y.1, x :: y.2)

/-- R129: health events of an op; NONFINITE at most once. -/
def State.raiseHealth (s : State) (o : Op) (told : Bool) : List (Entry × List Nat) → State
  | [] => s
  | (e, cs) :: xs =>
    (s.healths o e (if told then cs.filter (· != 4) else cs)).raiseHealth o (told || cs.contains 4) xs

/-- R170. -/
def vecStatus (runs : List VecRun) : Nat :=
  match runs.findSome? (·.failure) with
  | some f => f.1
  | none => if runs.any VecRun.saturated then 0x10 else if runs.any (·.masked) then 3 else 0

/-- Detail of a VEC that ends in ADDRESS_FAULT. -/
def vecDetail (runs : List VecRun) : Option Word :=
  match runs.findSome? (·.failure) with
  | some f => if f.1 = 0x21 then some (BitVec.ofNat 64 f.2) else none
  | none => none

/-- The engine that ran an op is idle again. -/
def State.freeEngine (s : State) (op die : Nat) : State :=
  let e := s.engine die
  if e.run.any (fun r => r.op == op) then s.setEngine die { e with run := none } else s

/-- VEC_COMPLETE. -/
def vecComplete (op : Nat) (s : State) : Option State :=
  match s.op op with
  | none => none
  | some o =>
    match s.program o.ring with
    | none => none
    | some p =>
      let runs := s.vecRuns op
      if runs.isEmpty || runs.any (fun r => !r.ended) then none
      else
        let st := vecStatus runs
        let u := if 0x20 ≤ st then (s, []) else s.useSlots p runs o [0, 1, 2, 3]
        (u.1.finishTelling o st (vecDetail runs) (s.recordOf o s.clock.time)
          (fun x _ => (((x.freeEngine op 0).freeEngine op 1).countVecs o).raiseHealth o false u.2))

def execVec (op : Nat) (s : State) : Out := whenOp s op (vec op)
def execVecComplete (op : Nat) (s : State) : Out := whenOp s op (vecComplete op)

end Sys2Proof.Machine
end

