-- ==== Sys2Proof/Machine/Matmul.lean ====
section
/-! DEFINITION. Starting a MATMUL (R38, R49, R50, R54, R55, R84, R85, R98, R106 to R117, R349 to R353): its checks, its
operands' addresses, its scales, its form and its franks. -/

namespace Sys2Proof.Machine

/-! ### Ends before streaming -/

/-- Completes a MATMUL before any row streams. -/
def State.endMatEarly (s : State) (o : Op) (status : Nat) (d : Option Word) : Option State :=
  let i := s.issue o
  i.1.finishOp i.2 status d (i.1.recordOf i.2 s.clock.time)

/-- R55: no earlier MATMUL with an overlapping region is uncompleted. -/
def State.regionFree (s : State) (o : Op) : Bool :=
  (s.before o).all (fun x => x.kind != opMatmul || !(matDesc x).regionMeets (matDesc o))

/-! ### Steps 5 to 7 of R54 -/

/-- R108, R113: an operand's entry is refused. -/
def operandBad (e : Entry) (fmt : Nat) (loadq : Bool) : Bool :=
  if loadq then e.pinRefused fmt else (e.operandScale fmt).isNone

/-- Step 5, with the entries read (R107). -/
def MatDesc.entriesBad (d : MatDesc) (a b c : Entry) : Bool :=
  operandBad a d.aFmt d.aLoadq || operandBad b d.bFmt d.bLoadq || (d.stores && c.pinRefused d.outFmt)

/-- Overlap of a chain's region. -/
def Chain.meets (c : Chain) (d : MatDesc) : Bool :=
  decide (c.accBase < d.accBase + d.accSize) && decide (d.accBase < c.accBase + c.accSize)

/-- R84: what every member shares. -/
def Chain.fits (c : Chain) (d : MatDesc) : Bool :=
  c.accSize == d.accSize && c.spill == d.spillPage && c.outTid == d.outTid && c.m == d.m && c.n == d.n &&
    c.band == d.band && c.accAdd == d.accAdd && c.mode == d.mode.ktile && c.float == !d.isInt &&
    decide (c.nextPos ≤ d.kTileBase)

/-- The chain a descriptor continues: one whose beginner has completed. -/
def State.chainOf (s : State) (d : MatDesc) : Option Chain :=
  if d.foldCont then s.numerics.chains.find? (fun c => c.accBase == d.accBase && c.opening.isNone) else none

/-- The chain of a run: the one it continues, or the one it begins (R84, R85). -/
def State.chainFor (s : State) (op : Nat) (d : MatDesc) : Option Chain :=
  if d.foldCont then s.chainOf d else s.numerics.chains.find? (fun c => c.opening == some op)

/-- Step 6, but for the scale product of R106. Of the 16 open chains, one that is being begun counts as open (R85). -/
def State.chainBad (s : State) (d : MatDesc) : Bool :=
  if d.foldCont then !((s.chainOf d).any (fun c => c.fits d))
  else d.foldKeep && decide (16 ≤ (s.numerics.chains.filter (fun c => !c.meets d)).length)

/-- R98: whether random bits are needed: R81 gives the K-tiles of every MATMUL positions, an integer one's too. -/
def State.needsSeed (s : State) (d : MatDesc) : Bool :=
  d.sr || d.manyWindows ||
    (s.chainOf d).any (fun c => decide ((c.nextPos - 1) / 4096 < (d.kTileBase + d.kt - 1) / 4096))

/-- R85: a MATMUL that passed every check discards the chains its region overlaps, its own apart. -/
def State.discardChains (s : State) (d : MatDesc) : State :=
  if d.foldCont then s
  else { s with numerics := { s.numerics with chains := s.numerics.chains.filter (fun c => !c.meets d) } }

/-! ### Addresses (R38) -/

/-- One contiguous range, page by page. -/
def State.reach (s : State) (root : Word) (allow : Allow) (wr : Bool) : Nat → Nat → Nat → State × Option MemErr
  | 0, _, _ => (s, none)
  | fuel + 1, va, n =>
    if n = 0 then (s, none)
    else
      let k := inPage va n
      match s.resolve root allow va k wr with
      | (s1, .error e) => (s1, some e)
      | (s1, .ok _) => s1.reach root allow wr fuel (va + k) (n - k)

/-- Rows `r` on of an area. -/
def State.reachRows (s : State) (root : Word) (allow : Allow) (wr : Bool) (base stride len r : Nat) :
    Nat → State × Option MemErr
  | 0 => (s, none)
  | k + 1 =>
    match s.reach root allow wr (pageFuel len) (base + r * stride) len with
    | (s1, none) => s1.reachRows root allow wr base stride len (r + 1) k
    | z => z

/-- An area of rows that a MATMUL reads or writes. -/
structure MatArea where
  write : Bool
  base  : Nat
  stride : Nat
  len   : Nat
  rows  : Nat
  deriving DecidableEq, Repr

/-- Stored A and B. -/
def MatDesc.areaA (d : MatDesc) : MatArea :=
  ⟨false, d.aAddr, d.aStride, rowBytes (if d.transA then d.m else d.k) d.aBits, if d.transA then d.k else d.m⟩
def MatDesc.areaB (d : MatDesc) (addr cols : Nat) : MatArea :=
  ⟨false, addr, d.bStride, rowBytes (if d.transB then d.k else cols) d.bBits, if d.transB then cols else d.k⟩
def MatDesc.areasB (d : MatDesc) : List MatArea :=
  if d.split then [d.areaB d.b0Addr (d.halves 0), d.areaB d.b1Addr (d.halves 1)] else [d.areaB d.b0Addr d.n]

/-- The smoothing vector, and the spill area on each die (R79). -/
def MatDesc.areaSmooth (d : MatDesc) : List MatArea := if d.smooth then [⟨false, d.smoothPage * 65536, 0, d.k, 1⟩] else []
def MatDesc.areasSpill (d : MatDesc) (asWhole resident : Bool) : List MatArea :=
  (d.spillRanges asWhole resident).map (fun w => ⟨true, w.1, 0, w.2, 1⟩)

/-- Output and row statistics. -/
def MatDesc.areasOut (d : MatDesc) : List MatArea :=
  let out := fun addr cols => MatArea.mk true addr d.outStride (rowBytes cols (codeBits d.outFmt)) d.m
  (if !d.stores then [] else if d.split then [out d.out0Addr (d.halves 0), out d.out1Addr (d.halves 1)] else [out d.out0Addr d.n]) ++
    (if d.rowmax || d.rowsum then [⟨true, d.rowstatPage * 65536, 64, 64, d.m⟩] else [])

/-- Resolves areas in order. -/
def State.reachAreas (s : State) (root : Word) (allow : Allow) : List MatArea → State × Option MemErr
  | [] => (s, none)
  | a :: t =>
    match s.reachRows root allow a.write a.base a.stride (if a.rows = 0 then 0 else a.len) 0 a.rows with
    | (s1, none) => s1.reachAreas root allow t
    | z => z

/-- R38: local store for the operands, writable memory for the outputs. -/
def State.matReach (s : State) (root : Word) (d : MatDesc) (asWhole resident : Bool) : State × Option MemErr :=
  match s.reachAreas root allowLocal (d.areaA :: d.areasB ++ d.areaSmooth ++ d.areasSpill asWhole resident) with
  | (s1, none) => s1.reachAreas root allowOps d.areasOut
  | z => z

/-- The pieces of an area. -/
def State.areaLies (s : State) (root : Word) (a : MatArea) : List (Zone × Nat × Nat) :=
  (List.range a.rows).flatMap (fun r => s.lies root (pageFuel a.len) (a.base + r * a.stride) a.len)

/-- The part of one range that another covers. -/
def common (a n b m : Nat) : Option (Nat × Nat) :=
  let lo := max a b
  let hi := min (a + n) (b + m)
  if lo < hi then some (lo, hi - lo) else none

/-- R56: ranges of the outputs that overlap A, B or the smoothing vector. -/
def State.overlaps (s : State) (root : Word) (d : MatDesc) : List (Nat × Nat) :=
  let ins := (d.areaA :: d.areasB ++ d.areaSmooth).flatMap (s.areaLies root)
  (d.areasOut.flatMap (s.areaLies root)).flatMap (fun o =>
    ins.filterMap (fun i => if i.1 = o.1 then common o.2.1 o.2.2 i.2.1 i.2.2 else none))

/-! ### Scales and bounds (R112, R115, R117) -/

/-- Quantises a whole operand once, for its amax, its load scale and the counters of its use. -/
def loadScan (l : Loader) (e : Entry) (sm : List Int) (vecs : List (List Nat)) : Scale × SlotUse :=
  let vs := vecs.flatMap (l.exact sm)
  let sc := if e.pinned then readScale l.fmt e.pinScale
    else if e.histCount ≠ 0 then e.historyScale l.fmt
    else scaleFor l.fmt (amaxOf vs)
  let l1 : Loader := { l with scale := sc }
  (sc, vs.foldl l1.tally (SlotUse.start sc l.fmt))

/-- R106, R117: the operand scales, and the counters of the loads. -/
def State.matScales (s : State) (root : Word) (d : MatDesc) (a b : Entry) :
    State × Except MemErr ((Scale × Option SlotUse) × (Scale × Option SlotUse)) :=
  match s.readSmooth root d 0 d.k with
  | (s1, .error e) => (s1, .error e)
  | (s1, .ok sm) =>
    let ra := if d.aLoadq then s1.readA root d 0 d.m 0 d.k else (s1, .ok [])
    match ra with
    | (s2, .error e) => (s2, .error e)
    | (s2, .ok av) =>
      let rb := if d.bLoadq then s2.readB root d 0 d.n 0 d.k else (s2, .ok [])
      match rb with
      | (s3, .error e) => (s3, .error e)
      | (s3, .ok bv) =>
        let one := fun (loadq : Bool) (l : Loader) (e : Entry) (vecs : List (List Nat)) =>
          if loadq then let x := loadScan l e sm vecs; (x.1, some x.2)
          else ((e.operandScale l.fmt).getD (unitScale l.fmt), (none : Option SlotUse))
        (s3, .ok (one d.aLoadq (loaderA d a (unitScale d.aFmt)) a av, one d.bLoadq (loaderB d b (unitScale d.bFmt)) b bv))

/-- R115: the largest magnitude of aA × aB over the members so far. -/
def maxProduct (c : Option Chain) (x : Val) : Val :=
  match c with
  | some c => if c.bound.lt x then x else c.bound
  | none => x

/-- R115: the bound scale. -/
def MatDesc.boundOf (d : MatDesc) (c : Option Chain) (o : Entry) (product : Val) : Scale :=
  let keff := ((c.map (·.kTiles)).getD 0 + d.kt) * d.mode.ktile
  let old := if !d.accAdd then Val.zero
    else if o.amaxValid && o.curFmt == codeA24 then decodeFloat fmtBF16 o.amaxCur.toNat else fMax codeA24
  scaleFor d.outFmt ((((Val.ofInt keff).mul (maxProduct c product)).add old).scale 1)

/-- R112: the output scale before a drain, and whether it is the bound scale. -/
def MatDesc.scaleOut (d : MatDesc) (resident : Bool) (c : Option Chain) (o : Entry) (product : Val) : Scale × Bool :=
  if !d.stores then (.exp 0, false)
  else if o.pinned then (readScale d.outFmt o.pinScale, false)
  else if d.outFmt = codeBF16 then (.exp 0, false)
  else if o.histCount ≠ 0 then (o.historyScale d.outFmt, false)
  else if resident then (unitScale d.outFmt, false)
  else (d.boundOf c o product, true)

/-! ### Times and franks -/

/-- Bytes of areas in one die's local store. -/
def State.bytesOn (s : State) (root : Word) (die : Nat) (as : List MatArea) : Nat :=
  ((as.flatMap (s.areaLies root)).map (fun p => if p.1 = .local_ die then p.2.2 else 0)).sum

/-- R117: ACLK of one operand's amax pass. -/
def State.amaxPass (s : State) (root : Word) (as : List MatArea) : Nat :=
  ceilDiv (max (s.bytesOn root 0 as) (s.bytesOn root 1 as)) 1536

/-- R63: L_B: that of the mode, or longer where a die's columns of B lie in the other die's local store. -/
def State.sliceLoad (s : State) (root : Word) (d : MatDesc) (asWhole : Bool) : Nat :=
  let x := d.mode.ws (if asWhole then 0 else d.band)
  [0, 1].foldl (fun m die =>
    let src := if d.split && die == 1 then d.b1Addr else d.b0Addr
    if halfCols x.1 x.2 d.n die = 0 then m
    else match s.lieOf root src with
      | some (.local_ k, _) => if k = die then m else max m (d.crossLoad asWhole die)
      | _ => m) d.loadTime

/-- R350. -/
def MatDesc.frankClass (d : MatDesc) : Nat :=
  match d.mode with
  | .bit4 => 0
  | .bit8 => if d.isInt then 2 else 1
  | .bit16 => 3

/-- The band a run's power falls on. -/
def MatRun.bandNow (r : MatRun) : Nat := if r.asWhole then 0 else r.d.band

/-- R351: share of a run, as numerator and denominator; FULL's two franks halve it. -/
def MatRun.share (r : MatRun) (halved : Bool) : Nat × Nat :=
  let x := match r.bandNow with
    | 1 => (1, 3)
    | 2 => (2, 3)
    | _ => (1, 1)
  (x.1, if halved then 2 * x.2 else x.2)

/-- R351: duty. -/
def MatRun.duty (r : MatRun) (lb : Nat) : Nat × Nat := if lb ≤ r.mb then (1, 1) else (r.mb + lb, 2 * lb)

/-- ACLK of one run from its start term, without an amax pass (R64, R303). -/
def MatRun.runAclk (r : MatRun) (start : Nat) : Nat := if r.check = 3 then r.fullTime start else r.runTime start r.lb

/-- A request of a MATMUL. -/
def State.matFrank (s : State) (r : MatRun) (u : FrankUse) (halved : Bool) (aclk : Nat) : Frank :=
  let c := r.d.frankClass
  let sh := r.share halved
  let du := r.duty r.lb
  { plainFrank r.op c (frankWatts (s.baseMw c) sh.1 sh.2 du.1 du.2) (min 65535 (ceilDiv aclk 4000)) with
    use_ := u, band := r.bandNow, shareNum := sh.1, shareDen := sh.2, dutyNum := du.1, dutyDen := du.2 }

/-- R302, R349, R351: asks for the frank of a run, or for those of runs D and P together, each of W watts. -/
def State.askRun (s : State) (r : MatRun) (u : FrankUse) (aclk : Nat) : State :=
  let f : Frank := { s.matFrank r u (r.check == 3) aclk with watts := r.watts }
  if r.check = 3 then (s.ask f).ask f else s.ask f

/-! ### MATMUL -/

/-- The run of a MATMUL before its first pass. -/
def startMat (o : Op) (p : Program) (d : MatDesc) (a b c : Entry) (ch : Option Chain)
    (x : (Scale × Option SlotUse) × (Scale × Option SlotUse)) : MatRun :=
  let check := effectiveCheck d.check p.check
  let resident := d.resident c.histCount c.pinned
  let product := (a.operandBound d.aFmt x.1.1 d.aLoadq).mul (b.operandBound d.bFmt x.2.1 d.bLoadq)
  let out := d.scaleOut resident ch c product
  { op := o.id, d := d, check := check, asWhole := check == 3 || resident || d.band == 0
    aEntry := a, bEntry := b, oEntry := c, aScale := x.1.1, bScale := x.2.1, outScale := out.1
    resident := resident, boundScaled := out.2, pass := 0, owed := [], first := [], dup := [], residues := [], drained := 0
    elems := (ch.map (·.elems)).getD [], ints := (ch.map (·.ints)).getD [], results := []
    cnt := SlotUse.start out.1 d.outFmt, intSat := 0, aSat := .zero, aUse := x.1.2, bUse := x.2.2, brackets := 0
    decided := 0, ladder := false, masked := false, ramped := false, partner := false, voted := false
    culprit := 0xFFFF, lb := 0, start := 0, extra := 0, watts := 0, plateAclk := 0
    slowA := false, rowsFrom := 0, ramping := false, duet := p.duet, overlap := []
    failure := none, drainVotes0 := 0, drainVotes1 := 0, foldVotes0 := 0, foldVotes1 := 0
    lostVote := none }

/-- R106: an integer member whose product of scales differs from the chain's. -/
def scalesDiffer (d : MatDesc) (ch : Option Chain) (a b : Scale) : Bool :=
  d.isInt && ch.any (fun c => !c.product.any (fun q => q.eqv (a.value.mul b.value)))

def productBad (d : MatDesc) (ch : Option Chain) (r : MatRun) : Bool := scalesDiffer d ch r.aScale r.bScale

/-- R106, R117: an operand's scale, where its entry gives it without a look at the operand. -/
def Entry.knownScale (e : Entry) (fmt : Nat) (loadq : Bool) : Option Scale :=
  if !loadq then some ((e.operandScale fmt).getD (unitScale fmt))
  else if e.pinned then some (readScale fmt e.pinScale)
  else if e.histCount ≠ 0 then some (e.historyScale fmt)
  else none

/-- R54 step 6, R106: the product differs by what the entries say. Where a scale comes from an amax pass (R117), the check is made
once that pass has found it, before the frank (DEDUCED, log 74). -/
def productKnownBad (d : MatDesc) (ch : Option Chain) (a b : Entry) : Bool :=
  match a.knownScale d.aFmt d.aLoadq, b.knownScale d.bFmt d.bLoadq with
  | some x, some y => scalesDiffer d ch x y
  | _, _ => false

/-- R117: an operand that needs an amax pass. -/
def Entry.scans (e : Entry) (loadq : Bool) : Bool := loadq && !e.pinned && e.histCount == 0

/-- R51: in duet mode a forward band's A rows cross the link when A lies in C1's local store, judged by its first byte (DESIGN
CHOICE, log 72). -/
def State.slowRows (s : State) (root : Word) (r : MatRun) : Bool :=
  r.duet && r.bandNow == 1 && (match s.lieOf root r.d.aAddr with
    | some (.local_ 1, _) => true
    | _ => false)

/-- R85: lists the chain that a MATMUL begins. -/
def State.openChain (s : State) (op : Nat) (r : MatRun) : State :=
  let d := r.d
  if !d.foldKeep || d.foldCont then s
  else
    let c : Chain :=
      { accBase := d.accBase, accSize := d.accSize, spill := d.spillPage, outTid := d.outTid, m := d.m, n := d.n
        band := d.band, accAdd := d.accAdd, mode := d.mode.ktile, float := !d.isInt, product := none
        nextPos := d.kTileBase, kTiles := 0, bound := .zero, elems := [], ints := [], spoiled := false
        opening := some op }
    { s with numerics := { s.numerics with chains := s.numerics.chains ++ [c] } }

/-- R77, R80: the slots of an open chain on a die, result and fold slots. -/
def MatDesc.chainSlots (d : MatDesc) (die : Nat) : Nat × Nat :=
  (0x20100000000 + die * 0x2000000 + 3 * d.firstSlot, 3 * d.e * d.m * d.halves die * (1 + d.regionSlots))

/-- R307: a member reads the slots of the chain it continues. -/
def State.chainRead (s : State) (d : MatDesc) : State × Option MemErr :=
  if !d.foldCont then (s, none)
  else
    let one := fun (x : State) (die : Nat) =>
      match x.readAt (.acc die) (d.chainSlots die).1 (d.chainSlots die).2 with
      | (y, .ok _) => (y, none)
      | (y, .error e) => (y, some e)
    match one s 0 with
    | (s1, none) => one s1 1
    | z => z

/-- The checks have passed: addresses, scales, and the franks once the plate columns are free (R353). -/
def State.matAsk (s : State) (o : Op) (p : Program) (d : MatDesc) (a b c : Entry) : Option State :=
  let ch := s.chainOf d
  let s1 := s.discardChains d
  let resident := d.resident c.histCount c.pinned
  match s1.matReach p.root d (effectiveCheck d.check p.check == 3 || resident || d.band == 0) resident with
  | (s2, some e) => s2.endMatEarly o e.status e.word
  | (s2, none) =>
    match s2.chainRead d with
    | (s2a, some e) => s2a.endMatEarly o e.status e.word
    | (s2b, none) =>
    match s2b.meetHidden 5 o.id with
    | (s2a, true) => s2a.endMatEarly o 0x31 none
    | (s2a, false) =>
    match s2a.matScales p.root d a b with
    | (s3, .error e) => s3.endMatEarly o e.status e.word
    | (s3, .ok x) =>
      let r := startMat o p d a b c ch x
      if productBad d ch r then s3.endMatEarly o 0x20 none
      else
        let lb := s3.sliceLoad p.root d r.asWhole
        let extra := (if a.scans d.aLoadq then s3.amaxPass p.root [d.areaA] else 0) +
          (if b.scans d.bLoadq then s3.amaxPass p.root d.areasB else 0)
        let r0 : MatRun := { r with lb := lb, extra := extra, overlap := s3.overlaps p.root d
                                    slowA := s3.slowRows p.root r }
        let r1 : MatRun := { r0 with watts := (s3.matFrank r0 .run (r0.check == 3) 0).watts }
        if !s3.plateFree r1 then none
        else
          let aclk := r1.runAclk (startTime s3.plate.warm none r1.startLoad) + extra
          let s4 := s3.setOp { o with phase := OpPhase.asking }
          let s5 : State := { s4 with plate := { s4.plate with running := s4.plate.running ++ [r1] } }
          some ((s5.openChain o.id r1).askRun r1 .run aclk)

/-- MATMUL. -/
def matmul (op : Nat) (s : State) : Option State :=
  match s.op op with
  | none => none
  | some o =>
    match s.program o.ring with
    | none => none
    | some p =>
      let d := matDesc o
      if o.kind != opMatmul || !s.opFree o || !s.regionFree o || !s.entriesFree o then none
      else
        match s.entryFor d.aTid p.histLen p.marginExp, s.entryFor d.bTid p.histLen p.marginExp,
            s.entryFor d.outTid p.histLen p.marginExp with
        | some a, some b, some c =>
          if d.entriesBad a b c || s.chainBad d || productKnownBad d (s.chainOf d) a b || (s.needsSeed d && !s.numerics.seedValid) then s.endMatEarly o 0x20 none
          else s.matAsk o p d a b c
        | _, _, _ => s.endMatEarly o 0x20 none

def execMatmul (op : Nat) (s : State) : Out := whenOp s op (matmul op)

end Sys2Proof.Machine
end

