-- ==== Sys2Proof/Machine/MatDrain.lean ====
section
/-! DEFINITION. A MATMUL's passes, drains, brackets and completion (R42, R43, R57 to R60, R86, R116 to R129, R289 to
R304): plate passes with their checks, vote passes, blocks drained, the bracket decision, and the completion. -/

namespace Sys2Proof.Machine

/-! ### Passes (R42) -/

/-- The pass that streams now: first row and rows, first column and columns, first element of K and elements. -/
structure PassArea where
  (m0 h n0 w k0 kk : Nat)
  deriving DecidableEq, Repr

def MatRun.area (r : MatRun) (i : Nat) : PassArea :=
  let x := r.passAt i
  let n0 := x.1 * r.ws.1
  let k0 := x.2.2 * r.d.mode.ktile
  ⟨x.2.1 * r.mb, r.height x.2.1, n0, min r.ws.1 (r.d.n - n0), k0, min r.d.mode.ktile (r.d.k - k0)⟩

/-- The slice of B and the rows of A of a pass, as they reach the plate. -/
def State.passOperands (s : State) (root : Word) (r : MatRun) :
    State × Except MemErr (List (List Val) × List (List Val)) :=
  let a := r.area r.pass
  match s.readSmooth root r.d a.k0 a.kk with
  | (s1, .error e) => (s1, .error e)
  | (s1, .ok sm) =>
    match s1.readA root r.d a.m0 a.h a.k0 a.kk with
    | (s2, .error e) => (s2, .error e)
    | (s2, .ok av) =>
      match s2.readB root r.d a.n0 a.w a.k0 a.kk with
      | (s3, .error e) => (s3, .error e)
      | (s3, .ok bv) =>
        (s3, .ok (av.map ((loaderA r.d r.aEntry r.aScale).load sm), bv.map ((loaderB r.d r.bEntry r.bScale).load sm)))

/-- R293, R213: the run has failed; its completion is due. -/
def MatRun.fail (r : MatRun) (e : MemErr) : MatRun := { r with failure := some (e.status, e.word) }

/-- A check of a drain found no two values that agree (R295). -/
def MatRun.mismatch (r : MatRun) : MatRun := { r with failure := some (0x30, none) }

/-- A check of the pass that has just streamed ended the run (R293, R296, R300): the pass counts in PLATE_ACLK. -/
def MatRun.passMismatch (r : MatRun) : MatRun := { r.mismatch with pass := r.pass + 1 }

/-- Module-local range of the accumulator region on a die. -/
def MatDesc.regionOn (d : MatDesc) (die : Nat) : Nat × Nat :=
  (0x20100000000 + die * 0x2000000 + d.accBase * 65536, d.accSize * 65536)

/-- R77: what a MATMUL leaves in its region beside result slots is internal to the module. -/
def State.undefRegion (s : State) (d : MatDesc) : State :=
  (s.undefAt (d.regionOn 0).1 (d.regionOn 0).2).undefAt (d.regionOn 1).1 (d.regionOn 1).2

/-- After the last K-tile of a block: its results. -/
def State.finishBlock (s : State) (seed : Word) (step : Nat) (r : MatRun) : State × MatRun :=
  let a := r.area r.pass
  let g := s.draw
  let hurt := (s.chainOf r.d).any (·.spoiled)
  let s1 := if hurt then g.2 else s
  match s1.finishRows seed step a.m0 a.n0 a.w (if hurt then some g.1 else none) r a.h with
  | (s2, .ok r1) => (s2, r1)
  | (s2, .error e) => (s2, r.fail e)

/-- R64, R303: when the first row of the next pass streams. -/
def MatRun.nextRows (r : MatRun) (now : Nat) : Nat := max now (r.rowsFrom + r.passAclk r.pass)

/-- Streams the pass: its tile sums enter the tree, each with what a fault that no check caught changed in it, and a block's last
pass leaves its results. -/
def State.streamPass (s : State) (o : Op) (p : Program) (r : MatRun) (x : List (List Val) × List (List Val))
    (err : Nat → Nat → Int) : State :=
  let step := o.step.getD 0
  let s1 := if r.pass = 0 then (if !r.d.whole then s.undefRegion r.d else s).undefSpill p.root r else s
  let a := r.area r.pass
  let k := (r.passAt r.pass).2.2
  let r1 := r.enterRows p.seed step (r.d.kTileBase + k) a.m0 a.n0 err 0 x.2 x.1
  let y := if k + 1 = r.d.kt ∧ r.d.drains then s1.finishBlock p.seed step r1 else (s1, r1)
  let r2 : MatRun := { y.2 with pass := r.pass + 1, owed := [], first := [], dup := [], residues := []
                                rowsFrom := r.nextRows s1.clock.aclk, ramping := false }
  let s2 := y.1.setMat r2
  { s2 with plate := { s2.plate with lastPass := some (a.h, s2.clock.time) } }

/-! ### Checks of a pass (R291 to R304) -/

/-- Logical position of the whole plate that computes result column `c` of a slice (R31, R33, R40); in 16-bit mode the first of
its two. -/
def MatRun.positionOf (r : MatRun) (c : Nat) : Nat :=
  let base := if !r.asWhole && r.d.band == 2 then 1024 else 0
  match r.d.mode with
  | .bit16 => base + 2 * c
  | _ => base + c

/-- Puts a tile (row, column) in streaming order among others: by row, then by column. -/
def insertTile (k : Nat × Nat) : List (Nat × Nat) → List (Nat × Nat)
  | [] => [k]
  | t :: ts =>
    if k = t then t :: ts
    else if k.1 < t.1 ∨ (k.1 = t.1 ∧ k.2 < t.2) then k :: t :: ts
    else t :: insertTile k ts

/-- The tiles of the pass that faults name, in streaming order. -/
def MatRun.tilesOf (r : MatRun) (fs : List TileFault) : List (Nat × Nat) :=
  let a := r.area r.pass
  fs.foldl (fun ks f => if f.row < a.h ∧ f.col < a.w then insertTile (f.row, f.col) ks else ks) []

/-- The columns of tiles, each once. -/
def columnsOf (ts : List (Nat × Nat)) : List Nat :=
  ts.foldl (fun cs t => if cs.contains t.2 then cs else cs ++ [t.2]) []

/-- R291, R292: a tile of a run whose faults are `fs` has a residue failure. `x`: rows of A and columns of B. -/
def MatRun.tileFails (r : MatRun) (x : List (List Val) × List (List Val)) (fs : List TileFault) (t : Nat × Nat) : Bool :=
  r.residueFails (x.1.getD t.1 []) (x.2.getD t.2 []) (faultOf fs t.1 t.2)

/-- A tile sum of a run whose faults are `fs`. -/
def MatRun.tileIn (r : MatRun) (x : List (List Val) × List (List Val)) (fs : List TileFault) (t : Nat × Nat) : BitVec 48 :=
  r.tileBits (x.1.getD t.1 []) (x.2.getD t.2 []) (faultOf fs t.1 t.2)

/-- R318: counts residue failures on the dies of the failing cell columns. -/
def State.countResidues (s : State) : List Nat → State
  | [] => s
  | cell :: cs => (s.count (0x400 + 8 * (cell / 200)) 1).countResidues cs

/-- Residue failures in result columns of a run that is placed `shift` positions on: failing cell, and COLUMNS of its event. -/
def State.residuesOf (s : State) (r : MatRun) (shift : Nat) (cs : List Nat) : List (Nat × List Nat) :=
  cs.map (fun c =>
    let q := r.positionOf c
    (s.cellOf (q + shift), if r.check = 3 then s.placements q else [s.cellOf q, 0xFFFF, s.cellOf (q + 768)]))

/-- R295, R296: units outvoted on each die, each vote at 1 ACLK; where no two agree, the op fails. `code`: that of the event. -/
def MatRun.votes (r : MatRun) (code : Nat) (v : DieVotes) : MatRun :=
  let lost := fun (d : Nat) => bitOf (v.lost.any (fun x => dieIndex x == d))
  let n0 := v.c0 + lost 0
  let n1 := v.c1 + lost 1
  let r1 : MatRun := { r with masked := r.masked || v.c0 + v.c1 != 0, plateAclk := r.plateAclk + n0 + n1
                              lostVote := v.lost.map (fun x => (code, dieIndex x)) }
  if code = 3 then { r1 with drainVotes0 := r.drainVotes0 + n0, drainVotes1 := r.drainVotes1 + n1 }
  else { r1 with foldVotes0 := r.foldVotes0 + n0, foldVotes1 := r.foldVotes1 + n1 }

/-- R73, R82: the run makes folds at all. -/
def MatRun.makesFolds (r : MatRun) : Bool := !r.d.isInt && decide (0 < r.d.kt - 1 + bitOf r.d.accAdd + bitOf r.d.foldCont)

/-- Streams a pass whose tile sums stand, and applies the votes of the fold units. -/
def State.passed (s : State) (o : Op) (p : Program) (r : MatRun) (x : List (List Val) × List (List Val)) (f : DieVotes)
    (err : Nat → Nat → Int) : State :=
  if !r.makesFolds then s.streamPass o p r x err
  else
    let r1 := r.votes 4 f
    if f.lost.isSome then s.setMat r1.passMismatch else s.streamPass o p r1 x err

/-- R293, R304: the columns whose faults a re-run masked are culprits. -/
def State.culprits (s : State) : List Nat → State
  | [] => s
  | cell :: cs => (s.columnCulprit cell).culprits cs

/-- R293: the first run of a pass under LIGHT, with faults `fs`: tiles that fail their residue are withheld. -/
def State.lightPass (s : State) (o : Op) (p : Program) (r : MatRun) (x : List (List Val) × List (List Val))
    (fs : List TileFault) (f : DieVotes) : State :=
  let bad := (r.tilesOf fs).filter (r.tileFails x fs)
  if bad.isEmpty then s.passed o p r x f (faultOf fs)
  else
    let rs := s.residuesOf r 0 (columnsOf bad)
    (s.countResidues (rs.map (·.1))).setMat { r with owed := bad, first := fs, residues := rs, rowsFrom := s.clock.aclk }

/-- R293: the re-run of a pass, placed 768 positions on, with faults `fs`: it masks the first run's, or the op fails. -/
def State.lightAgain (s : State) (o : Op) (p : Program) (r : MatRun) (x : List (List Val) × List (List Val))
    (fs : List TileFault) (f : DieVotes) : State :=
  let rs := s.residuesOf r 768 (columnsOf ((r.tilesOf fs).filter (r.tileFails x fs)))
  let lost := r.owed.any (r.tileFails x fs)
  let told := (s.countResidues (rs.map (·.1))).residueEvents o r.pass (if lost then 0x30 else 0) (r.residues ++ rs)
  let r1 : MatRun := { r with residues := [], plateAclk := r.plateAclk + shiftTime r.d.mode (r.area r.pass).h }
  if lost then told.setMat r1.passMismatch
  else
    (told.culprits (r.residues.map (·.1))).passed o p { r1 with masked := true } x f
      (fun row col => faultOf (if r.owed.contains (row, col) then fs else r.first) row col)

/-- R300 steps 1 to 4: runs P and D of a pass under FULL, with faults `ps` and `ds`: tiles that differ, or fail a residue in
either run, wait for run V. -/
def State.fullPass (s : State) (o : Op) (p : Program) (r : MatRun) (x : List (List Val) × List (List Val))
    (ps ds : List TileFault) (f : DieVotes) : State :=
  let all := r.tilesOf (ps ++ ds)
  let badP := all.filter (r.tileFails x ps)
  let badD := all.filter (r.tileFails x ds)
  let odd := all.filter (fun t => r.tileIn x ps t != r.tileIn x ds t || badP.contains t || badD.contains t)
  if odd.isEmpty then s.passed o p r x f (faultOf ps)
  else
    let rs := s.residuesOf r 0 (columnsOf badP) ++ s.residuesOf r 1536 (columnsOf badD)
    let s1 := (s.countResidues (rs.map (·.1))).setMat { r with owed := odd, first := ps, dup := ds, residues := rs }
    s1.ask (s1.matFrank r .vote false (shiftTime r.d.mode (r.area r.pass).h))

/-- PLATE_PASS_END: `ps`: faults of run P, or of the re-run of R293; `ds`: of run D under FULL; `f`: votes of the fold units. -/
def platePassEnd (op : Nat) (ps ds : List TileFault) (f : DieVotes) (s : State) : Option State :=
  match s.op op, s.matRun op with
  | some o, some r =>
    match s.program o.ring with
    | none => none
    | some p =>
      if !s.streams r || !r.blockRoom || (r.check == 3 && !r.owed.isEmpty) then none
      else
        match s.passOperands p.root r with
        | (s1, .error e) => some (s1.setMat (r.fail e))
        | (s1, .ok x) =>
          some (if r.check = 1 then s1.passed o p r x f (faultOf ps)
            else if r.check = 3 then s1.fullPass o p r x ps ds f
            else if r.owed.isEmpty then s1.lightPass o p r x ps f else s1.lightAgain o p r x ps f)
  | _, _ => none

/-! ### Vote passes (R299, R300, R302, R304) -/

/-- Releases the franks an op holds for one use. -/
def State.releaseUse (s : State) (op : Nat) (u : FrankUse) : State :=
  let mine := s.power.held.filter (fun f => f.op == op && f.use_ == u)
  let s1 : State := { s with power := { s.power with held := s.power.held.filter (fun f => !(f.op == op && f.use_ == u)) } }
  s1.attributeAll mine

/-- R300: the signature of a result column of a run over the rows of the pass. -/
def MatRun.signature (r : MatRun) (x : List (List Val) × List (List Val)) (fs : List TileFault) (col : Nat) : BitVec 64 :=
  Config.columnSignature ((List.range (r.area r.pass).h).map (fun row => r.tileIn x fs (row, col)))

/-- R300 steps 4 to 6, for one tile: the positions its culprit lies on from its own, or none where no two runs agree. -/
def MatRun.verdict (r : MatRun) (x : List (List Val) × List (List Val)) (vs : List TileFault) (t : Nat × Nat) : Option Nat :=
  if r.tileIn x vs t = r.tileIn x r.dup t then some 0
  else if r.signature x vs t.2 = r.signature x r.first t.2 then some 1536
  else none

/-- The culprits of a vote pass, in streaming order: each voted tile's column with where its culprit lies, each pair once. -/
def MatRun.verdicts (r : MatRun) (x : List (List Val) × List (List Val)) (vs : List TileFault) : List (Nat × Option Nat) :=
  r.owed.foldl (fun (cs : List (Nat × Option Nat)) t =>
    let c := (t.2, r.verdict x vs t)
    if cs.contains c then cs else cs ++ [c]) []

/-- R304, R313: the vote on a column; without a majority it names the column of run P, with OUTCOME 1 (log 59). -/
structure PlateVote where
  cell    : Nat
  lost    : Bool
  columns : List Nat
  deriving DecidableEq, Repr

def State.plateVote (s : State) (r : MatRun) (v : Nat × Option Nat) : PlateVote :=
  let q := r.positionOf v.1
  ⟨s.cellOf (q + v.2.getD 0), v.2.isNone, s.placements q⟩

/-- The events of a pass's votes; each column outvoted is a culprit. -/
def State.plateVotes (s : State) (o : Op) (pass : Nat) : List PlateVote → State
  | [] => s
  | v :: vs =>
    let s1 := s.fault 2 o.tag v.cell (bitOf v.lost) (if v.lost then 0x30 else 0) (256 * (v.cell / 200)) pass 0 v.columns
    (if v.lost then s1 else s1.columnCulprit v.cell).plateVotes o pass vs

/-- R318: a vote pass whose culprit lay on a die. -/
def State.countVote (s : State) (cells : List Nat) (die : Nat) : State :=
  if cells.any (fun c => c / 200 == die) then s.count (0x410 + 8 * die) 1 else s

/-- Run V has streamed, with faults `vs`: every voted tile is decided. -/
def State.voted (s : State) (o : Op) (p : Program) (r : MatRun) (x : List (List Val) × List (List Val))
    (vs : List TileFault) (f : DieVotes) : State :=
  let ds := r.verdicts x vs
  let lost := ds.any (fun v => v.2.isNone)
  let cells := ds.filterMap (fun v => v.2.map (fun k => s.cellOf (r.positionOf v.1 + k)))
  let rs := s.residuesOf r 768 (columnsOf ((r.tilesOf vs).filter (r.tileFails x vs)))
  let s1 := (s.countResidues (rs.map (·.1))).residueEvents o r.pass (if lost then 0x30 else 0) (r.residues ++ rs)
  let s2 := ((s1.plateVotes o r.pass (ds.map (s.plateVote r))).countVote cells 0).countVote cells 1
  let r1 : MatRun := { r with residues := [], voted := true
                              culprit := if r.culprit = 0xFFFF then cells.headD 0xFFFF else r.culprit
                              plateAclk := r.plateAclk + shiftTime r.d.mode (r.area r.pass).h }
  if lost then s2.setMat r1.passMismatch
  else s2.passed o p { r1 with masked := true } x f
    (fun row col => faultOf (if r.owed.contains (row, col) then vs else r.first) row col)

/-- FULL_VOTE_PASS: `vs`: faults of run V; `f`: votes of the fold units as the pass's tile sums enter. -/
def fullVotePass (op : Nat) (vs : List TileFault) (f : DieVotes) (s : State) : Option State :=
  match s.op op, s.matRun op with
  | some o, some r =>
    match s.program o.ring with
    | none => none
    | some p =>
      if r.check ≠ 3 ∨ r.owed.isEmpty ∨ !s.streams r then none
      else
        match (s.releaseUse op .vote).passOperands p.root r with
        | (s1, .error e) => some (s1.setMat (r.fail e))
        | (s1, .ok x) => some (s1.voted o p r x vs f)
  | _, _ => none

/-! ### Drains (R43, R114, R118, R121 to R124) -/

/-- One converted element: its code, its class, and C / s_out or v / s_out. -/
def MatRun.convert (r : MatRun) (seed : Word) (step i : Nat) : Nat × Conv × Val :=
  let q := (r.realOf (r.results.get 0 i)).div r.outScale.value
  let c := storedCode r.d.outFmt (if r.d.sr then .stoch (r.rand seed step 0 0 i) else .nearest) q
  (c.1, c.2, q)

/-- R118, R127: counts one converted element. -/
def MatRun.countElem (seed : Word) (step : Nat) (r : MatRun) (i : Nat) : MatRun :=
  let x := r.convert seed step i
  let s := r.cnt.add (a24Value (r.statOf (r.results.get 0 i))) x.2.1
  { r with cnt := s, aSat := if x.2.1 = .saturated then maxMag r.aSat x.2.2 else r.aSat }

/-- Element indexes of rows m0 on, columns n0 on. -/
def MatRun.indexes (r : MatRun) (m0 h n0 w : Nat) : List Nat :=
  (List.range h).flatMap (fun m => (List.range w).map (fun n => (m0 + m) * r.d.n + n0 + n))

/-- Codes of the columns of one half among columns n0 on. -/
def halfCodes (d : MatDesc) (n0 h : Nat) (codes : List Nat) : List Nat :=
  let x := d.mode.ws d.band
  ((codes.zip (List.range codes.length)).filter (fun p => (halfOf x.1 x.2 (n0 + p.2)).1 == h)).map (·.1)

/-- R39 to R41: the stored pieces of one output row. -/
def MatDesc.rowPieces (d : MatDesc) (m n0 : Nat) (codes : List Nat) : List (Nat × List Byte) :=
  let b := codeBits d.outFmt
  let at_ := fun base j cs => (base + m * d.outStride + j * b / 8, packCodes b cs)
  if !d.split then [at_ d.out0Addr n0 codes]
  else [at_ d.out0Addr (d.halfAt n0 0) (halfCodes d n0 0 codes), at_ d.out1Addr (d.halfAt n0 1) (halfCodes d n0 1 codes)]

/-- Writes pieces in order. -/
def State.writeAll (s : State) (root : Word) : List (Nat × List Byte) → State × Option MemErr
  | [] => (s, none)
  | x :: xs =>
    match s.writeVirt root allowOps x.1 x.2 with
    | (s1, .ok _) => s1.writeAll root xs
    | (s1, .error e) => (s1, some e)

/-- The pieces of a block. -/
def MatRun.blockPieces (r : MatRun) (seed : Word) (step : Nat) (a : PassArea) : List (Nat × List Byte) :=
  (List.range a.h).flatMap (fun m =>
    r.d.rowPieces (a.m0 + m) a.n0 ((r.indexes (a.m0 + m) 1 a.n0 a.w).map (fun i => (r.convert seed step i).1)))

/-- R114: the scale of a resident drain, from the amax of the output. -/
def MatRun.withScale (r : MatRun) : MatRun :=
  if r.resident then
    let sc := scaleFor r.d.outFmt (amaxOf (r.results.map (fun p => a24Value (r.statOf p.2))))
    { r with outScale := sc, cnt := { r.cnt with scale := sc } }
  else r

/-- A result of the writes of an event that may have to wait (R327). -/
def State.settleWrites (x : State × Option MemErr) (r : MatRun) : Option State :=
  match x.2 with
  | none => some (x.1.setMat r)
  | some .wait => none
  | some e => some (x.1.setMat (r.fail e))

/-- A block whose passes are done and that is not drained. -/
def MatRun.drainDue (r : MatRun) : Bool :=
  r.d.drains && r.decided == 0 && r.failure.isNone && decide (r.drained < r.blocks) && decide ((r.drained + 1) * r.d.kt ≤ r.pass)

/-- BLOCK_DRAIN. -/
def blockDrain (op : Nat) (v : DieVotes) (s : State) : Option State :=
  match s.op op, s.matRun op with
  | some o, some r =>
    match s.program o.ring with
    | none => none
    | some p =>
      if !r.drainDue || !s.holdsFrank op || s.asksFrank op then none
      else
        let step := o.step.getD 0
        let r0 := r.withScale.votes 3 v
        if v.lost.isSome then some (s.setMat r0.mismatch)
        else
          let a := r.area (r.drained * r.d.kt)
          let r1 := (r.indexes a.m0 a.h a.n0 a.w).foldl (MatRun.countElem p.seed step) r0
          let r2 : MatRun := { r1 with drained := r.drained + 1
                                       rowsFrom := if r.blockRoom then r1.rowsFrom else max r1.rowsFrom s.clock.aclk }
          if !r.d.stores || !r.overlap.isEmpty then some (s.setMat r2)
          else State.settleWrites (s.writeAll p.root (r2.blockPieces p.seed step a)) r2
  | _, _ => none

/-! ### Row statistics (R125, R126) -/

/-- R126: the larger of two values that are not NaN. -/
def statMax (a b : BitVec 24) : BitVec 24 := if (a24Value a).ordLt (a24Value b) then b else a

def rowMaxOf (xs : List (BitVec 24)) : BitVec 24 :=
  if xs.any (fun x => (a24Value x).isNan) then a24NaN
  else match xs with
    | [] => a24Zero
    | x :: t => t.foldl statMax x

/-- Sums of groups of 256 columns, as leaves. -/
def rowGroups : Nat → Nat → List (BitVec 24) → List (Nat × BitVec 24)
  | 0, _, _ => []
  | k + 1, i, xs => (i, tileSum ((xs.take 256).map a24Value)) :: rowGroups k (i + 1) (xs.drop 256)

def rowSumOf (xs : List (BitVec 24)) : BitVec 24 := (openTree (rowGroups (ceilDiv xs.length 256) 0 xs)).getD a24Zero

/-- The pieces of one row's record: a field without its flag is not written. -/
def MatRun.statPieces (r : MatRun) (m : Nat) : List (Nat × List Byte) :=
  let a := r.d.rowstatPage * 65536 + 64 * m
  let xs := (r.indexes m 1 0 r.d.n).map (fun i => r.statOf (r.results.get 0 i))
  (if r.d.rowmax then [(a, leBytes 4 (rowMaxOf xs).toNat)] else []) ++
    (if r.d.rowsum then [(a + 4, leBytes 4 (rowSumOf xs).toNat)] else []) ++ [(a + 8, zeros 56)]

def MatRun.allStats (r : MatRun) : List (Nat × List Byte) :=
  if r.d.rowmax || r.d.rowsum then (List.range r.d.m).flatMap r.statPieces else []

/-- R56: an output that overlaps operands is written once the operands are no longer read. -/
def MatRun.lateRows (r : MatRun) (seed : Word) (step : Nat) : List (Nat × List Byte) :=
  if r.overlap.isEmpty ∨ !r.d.stores then []
  else (List.range r.blocks).flatMap (fun b => r.blockPieces seed step (r.area (b * r.d.kt)))

/-! ### The end of a run and brackets (R118 to R120) -/

/-- R118: a streaming drain. -/
def MatRun.streamingDrain (r : MatRun) : Bool := r.d.stores && !r.resident && !r.boundScaled

/-- R118: a finite element saturated in a streaming drain. -/
def MatRun.overflowed (r : MatRun) : Bool := r.streamingDrain && !r.aSat.isZero

/-- R118: m. -/
def MatRun.margin (r : MatRun) : Nat := min 15 (max 1 (valCeilLog2 (r.aSat.div (fMax r.d.outFmt)))).toNat

/-- ACLK of the run that ends: of its passes, or of a drain alone. -/
def MatRun.endAclk (r : MatRun) : Nat :=
  if r.brackets = 0 then r.runAclk r.start + r.extra
  else if r.d.whole then r.drainAclk
  else r.runAclk r.start

/-- Passes and drains of the run are over. -/
def MatRun.runDone (r : MatRun) : Bool :=
  r.decided == 0 && r.failure.isNone && decide (r.passes ≤ r.pass) && (!r.d.drains || decide (r.blocks ≤ r.drained))

/-- R118, R120: the scale grows, the franks of the run end, and the bracket asks for its own. -/
def State.bracketDue (s : State) (r : MatRun) : State :=
  let sc := r.outScale.times ((r.margin : Int) + 1)
  let r1 : MatRun := { r with decided := 1, outScale := sc }
  let s1 := (s.releaseFranks r.op).setMat r1
  let aclk := if r.d.whole then r.drainAclk else r1.runAclk (startTime s1.plate.warm none r1.startLoad)
  s1.askRun r1 .bracket aclk

/-- MATMUL_RUN_END. -/
def matmulRunEnd (op : Nat) (s : State) : Option State :=
  match s.op op, s.matRun op with
  | some o, some r =>
    match s.program o.ring with
    | none => none
    | some p =>
      if !r.runDone then none
      else
        let r1 : MatRun := { r with plateAclk := r.plateAclk + r.endAclk }
        let last := s.plate.lastPass.map (fun x => (x.1, s.clock.time))
        let s1 : State := { s with plate := { s.plate with lastPass := last } }
        if r.overflowed && decide (r.brackets < 2) then some (s1.bracketDue r1)
        else
          match s1.writeAll p.root (r1.lateRows p.seed (o.step.getD 0) ++ r1.allStats) with
          | (_, some .wait) => none
          | (s2, some e) => some (s2.setMat (r1.fail e))
          | (s2, none) =>
            let s3 := r.overlap.foldl (fun (x : State) (w : Nat × Nat) => x.undefAt w.1 w.2) s2
            some ((if r.check = 3 ∨ r.brackets ≠ 0 then s3.releaseFranks op else s3).setMat { r1 with decided := 2 })
  | _, _ => none

/-- A run started again: the whole operation in block form, the drain alone in whole form (R118). -/
def MatRun.again (r : MatRun) : MatRun :=
  let r1 : MatRun := { r with decided := 0, brackets := r.brackets + 1, drained := 0, aSat := .zero
                              cnt := SlotUse.start r.outScale r.d.outFmt }
  if r.d.whole then r1 else { r1 with pass := 0, results := [], elems := [], ints := [], intSat := 0, voted := false }

/-- MATMUL_BRACKET. -/
def matmulBracket (op : Nat) (s : State) : Option State :=
  match s.matRun op with
  | some r =>
    if r.decided ≠ 1 ∨ r.failure.isSome ∨ !s.holdsFrank op ∨ s.asksFrank op then none else some (s.setMat r.again)
  | none => none

/-! ### Completion (R57 to R60, R86, R116, R117, R127 to R129) -/

/-- R58. -/
def MatRun.status (r : MatRun) : Nat :=
  match r.failure with
  | some f => f.1
  | none =>
    if r.overflowed then 0x10 else if r.masked then 3 else if r.brackets ≠ 0 then 2 else if r.ladder then 1 else 0

/-- R117: an entry after a load. -/
def Entry.loaded (e : Entry) (u : SlotUse) (p : Program) : Entry × List Nat :=
  let x := (e.push (amaxField u.amax)).used u p.flushLog2 p.runLength
  (x.1, x.2 ++ (if u.nonfinite = 0 then [] else [4]))

/-- R116, R127: the output's entry after the final drain. R127 writes 0 to the counters of an A24 output's conversions, of which it
has none; the I48 saturations of an integer one are counted, as R74 has it (DESIGN CHOICE, log 71). -/
def MatRun.outEntry (r : MatRun) (e : Entry) (p : Program) : Entry × List Nat :=
  let u : SlotUse := { r.cnt with saturations := r.cnt.saturations + r.intSat }
  let d := e.drained r.outScale r.d.outFmt u.amax
  let nan : List Nat := if u.nonfinite = 0 then [] else [4]
  if r.d.outFmt = codeA24 then ({ d.notUsed u with saturations := r.intSat }, nan)
  else
    let x := d.used u p.flushLog2 p.runLength
    (x.1, (if r.overflowed then [1] else []) ++ x.2 ++ nan)

/-- Updates one entry. -/
def State.updateEntry (s : State) (p : Program) (tid : BitVec 32) (f : Entry → Entry × List Nat) :
    State × List (Entry × List Nat) :=
  let e := (s.entryFor tid p.histLen p.marginExp).getD (Entry.fresh tid p.histLen p.marginExp)
  let x := f e
  (s.setEntry (entryIndex tid) x.1, [x])

/-- R110: the updates of a MATMUL that succeeded, with the health codes due. -/
def State.matEntries (s : State) (p : Program) (r : MatRun) : State × List (Entry × List Nat) :=
  let load := fun (x : State) (u : Option SlotUse) (tid : BitVec 32) =>
    match u with
    | some u => x.updateEntry p tid (fun e => e.loaded u p)
    | none => (x, [])
  let a := load s r.aUse r.d.aTid
  let b := load a.1 r.bUse r.d.bTid
  let c := if r.d.drains then b.1.updateEntry p r.d.outTid (fun e => r.outEntry e p) else (b.1, [])
  (c.1, a.2 ++ b.2 ++ c.2)

/-- R75, R77: the result slots of a die, in order. -/
def MatRun.slotBytes (r : MatRun) (die : Nat) : List Byte :=
  let x := r.d.mode.ws r.d.band
  let cols := (List.range r.d.n).filter (fun n => (halfOf x.1 x.2 n).1 == die)
  (List.range r.d.m).flatMap (fun m => cols.flatMap (fun n => leBytes (3 * r.d.e) (r.results.get 0 (m * r.d.n + n)).toNat))

/-- R77: address and bytes of the result slots of a die in whole form. -/
def MatDesc.slotRange (d : MatDesc) (die : Nat) : Nat × Nat :=
  (0x20100000000 + die * 0x2000000 + 3 * d.firstSlot, 3 * d.e * d.m * d.halves die)

/-- R77: what whole form leaves in its region on a die beside its result slots is internal to the module. -/
def State.undefAround (s : State) (d : MatDesc) (die : Nat) : State :=
  let g := d.regionOn die
  let w := d.slotRange die
  (s.undefAt g.1 (w.1 - g.1)).undefAt (w.1 + w.2) (g.1 + g.2 - (w.1 + w.2))

/-- The chain as a member that kept its fold slots leaves it (R84). -/
def MatRun.chain (r : MatRun) (c : Option Chain) : Chain :=
  let d := r.d
  let x := (r.aEntry.operandBound d.aFmt r.aScale d.aLoadq).mul (r.bEntry.operandBound d.bFmt r.bScale d.bLoadq)
  { accBase := d.accBase, accSize := d.accSize, spill := d.spillPage, outTid := d.outTid, m := d.m, n := d.n
    band := d.band, accAdd := d.accAdd, mode := d.mode.ktile, float := !d.isInt
    product := if d.isInt then some (r.aScale.value.mul r.bScale.value) else none
    nextPos := d.kTileBase + d.kt, kTiles := (c.map (·.kTiles)).getD 0 + d.kt, bound := maxProduct c x
    elems := r.elems, ints := r.ints, spoiled := c.any (·.spoiled), opening := none }

/-- R77, R84, R85: chain and region of a MATMUL that succeeded. -/
def State.matKeeps (s : State) (root : Word) (r : MatRun) : State :=
  let c := s.chainFor r.op r.d
  let others := s.numerics.chains.filter (fun x => x.accBase != r.d.accBase)
  let s1 : State := if r.d.chainMember then { s with numerics := { s.numerics with chains := others } } else s
  if !r.d.whole then (s1.undefRegion r.d).undefSpill root r
  else
    let s2 := ((s1.undefAround r.d 0).undefAround r.d 1).undefSpill root r
    if r.d.foldKeep then { s2 with numerics := { s2.numerics with chains := others ++ [r.chain c] } }
    else (s2.store (r.d.slotRange 0).1 (r.slotBytes 0)).store (r.d.slotRange 1).1 (r.slotBytes 1)

/-- R86, R293, R213: what a MATMUL that failed leaves. A member leaves its chain as it was, with the region and the spill area that
hold it (log 58). A write fault leaves rows written before it as they are. -/
def State.matFails (s : State) (root : Word) (r : MatRun) (status : Nat) : State :=
  if r.d.chainMember then (if status = 0x21 then s else s.undefOutput root r.d).dropOpening r.op
  else if status = 0x21 then s.undefRegion r.d
  else s.undefMat root r

/-- MATMUL_COMPLETE. -/
def matmulComplete (op : Nat) (s : State) : Option State :=
  match s.op op, s.matRun op with
  | some o, some r0 =>
    match s.program o.ring with
    | none => none
    | some p =>
      if r0.failure.isNone && r0.decided != 2 then none
      else
        let r := r0.cutShort
        let st := r.status
        let good := decide (st < 0x20)
        let s1 := if good then s.matKeeps p.root r else s.matFails p.root r st
        let u := if good then s1.matEntries p r else (s1, [])
        let tell := fun (x : State) (final : Nat) => (x.matTells o r final).raiseHealth o false u.2
        match u.1.finishTelling o st (r.failure.bind (·.2)) (matRecord o r s.clock.time) tell with
        | none => none
        | some s2 =>
          let s3 := s2.clearOp op
          some { s3 with plate := { s3.plate with lastPass := s3.plate.lastPass.map (fun x => (x.1, s3.clock.time)) } }
  | _, _ => none

def execPlatePassEnd (op : Nat) (c : PassFaults) (f : DieVotes) (s : State) : Out := whenOp s op (platePassEnd op c.p c.d f)
def execFullVotePass (op : Nat) (v : VotePass) (s : State) : Out := whenOp s op (fullVotePass op v.tiles v.folds)
def execBlockDrain (op : Nat) (v : DieVotes) (s : State) : Out := whenOp s op (blockDrain op v)
def execMatmulRunEnd (op : Nat) (s : State) : Out := whenOp s op (matmulRunEnd op)
def execMatmulBracket (op : Nat) (s : State) : Out := whenOp s op (matmulBracket op)
def execMatmulComplete (op : Nat) (s : State) : Out := whenOp s op (matmulComplete op)

end Sys2Proof.Machine
end

