-- ==== Sys2Proof/Machine/Coll.lean ====
section
/-! DEFINITION. The collectives engine (R265 to R287): starting a COLL, merging its chunks, reducing and draining its own
shard, completing it, and its silence rules. -/

namespace Sys2Proof.Machine

/-! ### Events (R286, R298) -/

/-- COLLECTIVE events about a COLL's group. -/
def State.collEvent (s : State) (o : Op) (r : CollRun) (code : Nat) (detail : List Byte) : State :=
  s.raise 7 code (o.step.getD 0) o.tag r.d.group (leBytes 4 r.d.collId.toNat ++ detail)

/-- R298, R314: two of three adders agreed, or none. -/
def State.adderVote (s : State) (o : Op) (r : CollRun) (lost : Bool) : State :=
  s.fault 6 o.tag r.d.group (bitOf lost) (if lost then 0x30 else 0) 0x200 r.d.collId.toNat 0 noColumns

/-! ### Own input (R269, R273) -/

/-- Reads `k` tensors of `len` bytes. -/
def State.readTensors (s : State) (root : Word) (base stride len : Nat) : Nat → State × Except MemErr (List (List Byte))
  | 0 => (s, .ok [])
  | k + 1 =>
    match s.readTensors root base stride len k with
    | (s1, .error e) => (s1, .error e)
    | (s1, .ok bs) =>
      match s1.readVirt root allowOwn (base + k * stride) len with
      | (s2, .error e) => (s2, .error e)
      | (s2, .ok b) => (s2, .ok (bs ++ [b]))

/-- R273: stored codes widened to A24 under a scale exponent. -/
def widenA24 (fmt : Nat) (e : Int) (bs : List Byte) : List (BitVec 24) :=
  (unpackFrom (codeBits fmt) 0 (8 * bs.length / codeBits fmt) bs).map (fun x => a24Round ((codeVal fmt x).scale e))

/-- Lists of the leaves of each element, one more leaf added to each. -/
def addLeaf (p : Nat) (ls : List (List (Nat × BitVec 24))) (vs : List (BitVec 24)) : List (List (Nat × BitVec 24)) :=
  List.zipWith (fun l v => l ++ [(p, v)]) ls vs

/-- The leaves of each of `n` elements, from the values of each leaf position. -/
def gatherLeaves (n : Nat) (xs : List (Nat × List (BitVec 24))) : List (List (Nat × BitVec 24)) :=
  xs.foldl (fun ls x => addLeaf x.1 ls x.2) (List.replicate n [])

/-- R273: the level-a node of each element over a member's own leaves, as A24 in 4 bytes. -/
def foldLeaves (fmt a n : Nat) (e : Int) (tensors : List (List Byte)) : List Byte :=
  let xs := (List.range tensors.length).zip (tensors.map (widenA24 fmt e))
  (gatherLeaves n xs).flatMap (fun l => leBytes 4 ((nodeValue l a 0).getD a24Zero).toNat)

/-- A member's own data in wire form: the tensor, or the blocks side by side. -/
def CollRun.inputs (r : CollRun) : Nat :=
  match r.d.kind with
  | 3 => if r.rank = r.d.peer then 1 else 0
  | 4 => r.g.members.length
  | 6 => 0
  | 0 => 2 ^ r.d.leafLog2
  | 1 => 2 ^ r.d.leafLog2
  | _ => 1

def CollRun.wired (r : CollRun) (tensors : List (List Byte)) : List Byte :=
  if r.d.reduces && r.d.leafLog2 != 0 then foldLeaves r.d.inFmt r.d.leafLog2 r.d.count r.inExp tensors
  else tensors.flatten

/-- Bytes of the block for rank q in phase 0 (R277). -/
def CollRun.block (r : CollRun) (q : Nat) : List Byte :=
  let off := if r.d.reduces then q * r.shard * r.d.wireBits 0 / 8
    else if r.d.kind = 4 then q * packedBytes r.d.count r.d.inFmt else 0
  (r.own.drop off).take (r.blockLen 0 r.rank q)

/-! ### Addresses (R269, R270) -/

/-- What the COLL reads and writes. -/
def CollRun.areas (r : CollRun) : List MatArea :=
  let len := packedBytes r.d.count r.d.inFmt
  (if r.inputs = 0 then [] else [⟨false, r.d.inAddr, r.d.inStride, len, r.inputs⟩]) ++
    r.ranges.map (fun w => ⟨true, w.1, 0, w.2, 1⟩)

/-! ### Sending (R277) -/

/-- Header of chunk k of a block of this member. -/
def State.chunkHeader (s : State) (r : CollRun) (node phase k : Nat) (e : Int) (len : Nat) : NptHeader :=
  s.nptHeader node r.d.collId.toNat r.g.epoch (k + at_ phase 31)
    (r.rank + at_ r.d.leafLog2 17 + at_ (natOfInt 10 e) 22) len

/-- Queues the chunks of one block, `k` the first of them. -/
def State.queueBlock (s : State) (r : CollRun) (q phase : Nat) (e : Int) (bs : List Byte) (k : Nat) : Nat → State
  | 0 => s
  | n + 1 =>
    let c := (bs.drop (k * r.chunk)).take r.chunk
    let node := r.g.node q
    (s.nptQueue node 1 (s.chunkHeader r node phase k e c.length) c (some r.op)).queueBlock r q phase e bs (k + 1) n

/-- Queues a block for every rank of a list. -/
def State.queueBlocks (s : State) (r : CollRun) (phase : Nat) (e : Int) (f : Nat → List Byte) : List Nat → State
  | [] => s
  | q :: qs => (s.queueBlock r q phase e (f q) 0 (r.chunks (f q).length)).queueBlocks r phase e f qs

/-! ### The reduction (R272 to R274) -/

/-- Merged chunks of a rank in a phase, in order. -/
def CollRun.merged (r : CollRun) (phase p : Nat) : List RxChunk :=
  let cs := r.rx.filter (fun c => c.phase == phase && c.rank == p)
  (List.range cs.length).filterMap (fun k => cs.find? (fun c => c.index == k))

/-- Every chunk of a phase from every other rank has been merged. -/
def CollRun.have_ (r : CollRun) (phase : Nat) : Bool :=
  r.others.all (fun p => (r.merged phase p).length == r.chunks (r.blockLen phase p r.rank))

/-- Values a contribution holds. -/
def CollRun.leafValues (r : CollRun) (e : Int) (bs : List Byte) : List (BitVec 24) :=
  if r.d.leafLog2 = 0 then widenA24 r.d.inFmt e bs
  else (unpackFrom 32 0 (bs.length / 4) bs).map (BitVec.ofNat 24)

/-- R272: V(e) for every element of the own shard. -/
def CollRun.reduced (r : CollRun) : List (BitVec 24) :=
  let xs := (List.range r.g.members.length).map (fun p =>
    (p, if p = r.rank then r.leafValues r.inExp (r.block r.rank)
        else (r.merged 0 p).flatMap (fun c => r.leafValues c.scale c.bytes)))
  (gatherLeaves (r.shardLen r.rank) xs).map (fun l => (openTree l).getD a24Zero)

/-- R274: rounding of element e. -/
def CollRun.rounding (r : CollRun) (seed : Word) (step e : Nat) : Rnd :=
  if r.d.sr then .stoch (randWord seed r.d.outTid r.d.srUse step 5 0 e) else .nearest

/-- R274: drains values from element e on: their codes, and the counters. -/
def CollRun.drain (r : CollRun) (seed : Word) (step : Nat) : Nat → SlotUse → List (BitVec 24) → List Nat × SlotUse
  | _, u, [] => ([], u)
  | e, u, v :: vs =>
    let c := storedCode r.d.outFmt (r.rounding seed step e) ((a24Value v).scale (-r.outExp))
    let t := r.drain seed step (e + 1) (u.add (a24Value v) c.2) vs
    (c.1 :: t.1, t.2)

/-- Forms and drains the own shard once every contribution is in; an ALL_REDUCE then sends it (R274). -/
def State.collAdvance (s : State) (o : Op) (p : Program) (r : CollRun) : State :=
  if r.d.reduces && r.drained.isNone && r.have_ 0 then
    let x := r.drain p.seed (o.step.getD 0) (r.rank * r.shard) (SlotUse.start (.exp r.outExp) r.d.outFmt) r.reduced
    let bs := packCodes (codeBits r.d.outFmt) x.1
    let r1 : CollRun := { r with drained := some bs, counters := some x.2 }
    let s1 := s.setColl r1
    if r.d.kind = 0 then s1.queueBlocks r1 1 r.outExp (fun _ => bs) r.others else s1
  else s

/-! ### Merging (R276, R278, R279, R298) -/

/-- R277: fields of a chunk's header. -/
def chunkPhase (h : NptHeader) : Nat := h.chunkIndex.toNat / 2 ^ 31
def chunkPlace (h : NptHeader) : Nat := h.chunkIndex.toNat % 2 ^ 24
def chunkRank (h : NptHeader) : Nat := h.contributor.toNat % 2 ^ 17
def chunkLeaf (h : NptHeader) : Nat := bits h.contributor.toNat 21 17
def chunkScale (h : NptHeader) : Int := sintOf 10 (h.contributor.toNat / 2 ^ 22)

/-- R279: the chunk is as the descriptor expects. -/
def CollRun.expects (r : CollRun) (h : NptHeader) (bs : List Byte) : Bool :=
  r.others.contains (chunkRank h) && chunkLeaf h == r.d.leafLog2 &&
    decide (chunkPlace h < r.chunks (r.blockLen (chunkPhase h) (chunkRank h) r.rank)) &&
    bs.length == r.chunkLen (r.blockLen (chunkPhase h) (chunkRank h) r.rank) (chunkPlace h)

/-- R278: the contributor's bit for the chunk. -/
def CollRun.holds (r : CollRun) (h : NptHeader) : Bool :=
  r.rx.any (fun c => c.phase == chunkPhase h && c.rank == chunkRank h && c.index == chunkPlace h)

/-- R276: whether data of a phase is folded or widened (R273). -/
def CollRun.adds (r : CollRun) (phase : Nat) : Bool := r.d.widen || (r.d.reduces && phase == 0)

/-- R298: what the adders found in data of a phase; with `n` votes, 0 of them is agreement. -/
def CollRun.vote (r : CollRun) (phase : Nat) (v : UnitVote) : UnitVote :=
  match v with
  | .masked _ 0 => .agree
  | v => if r.adds phase then v else .agree

/-- Merges an expected chunk whose bit was clear, with the vote of its adders. -/
def State.mergeChunk (s : State) (o : Op) (p : Program) (r : CollRun) (h : NptHeader) (bs : List Byte) (v : UnitVote)
    (early : Bool) : State :=
  let c : RxChunk := { phase := chunkPhase h, rank := chunkRank h, index := chunkPlace h, scale := chunkScale h, bytes := bs }
  let r1 : CollRun := { r with rx := r.rx ++ [c], early := r.early || early }
  match r.vote (chunkPhase h) v with
  | .agree => (s.setColl r1).collAdvance o p r1
  | .masked _ _ =>
    let r2 : CollRun := { r1 with masked := true }
    ((s.adderVote o r false).setColl r2).collAdvance o p r2
  | .mismatch => ((s.setColl r1).adderVote o r true).failColl o r1 0x30 none true

/-- Merges the chunks held for a COLL that starts; one that its descriptor does not expect ends it (R279). -/
def State.mergeEarly (s : State) (o : Op) (p : Program) : List UnitVote → List EarlyChunk → State
  | _, [] => s
  | vs, c :: cs =>
    match s.collRun o.id with
    | none => s
    | some r =>
      if !r.expects c.h c.bytes then s.failColl o r 0x20 none true
      else if r.holds c.h then s.mergeEarly o p vs.tail cs
      else (s.mergeChunk o p r c.h c.bytes (vs.headD .agree) true).mergeEarly o p vs.tail cs

/-! ### Starting (R268 to R270, R279, R282, R283) -/

/-- R282: a partner in dead-letter, or one whose session reports another NUMERICS_LEVEL: rank and status. -/
def State.badPartner (s : State) (r : CollRun) : Option (Nat × Nat) :=
  match r.partners.find? (fun q => (s.session (r.g.node q)).dead) with
  | some q => some (q, 0x42)
  | none =>
    if !r.d.reduces then none
    else
      (r.partners.find? (fun q =>
        let x := s.session (r.g.node q)
        x.isOpen && x.numerics != 1)).map (fun q => (q, 0x43))

/-- Ends a COLL because of a partner. -/
def State.failPartner (s : State) (o : Op) (r : CollRun) (q status : Nat) : State :=
  let node := r.g.node q
  let s1 := if status = 0x43 then
      s.collEvent o r 3 (leBytes 4 q ++ leBytes 1 (s.session node).numerics)
    else s
  s1.failColl o { r with culpritRank := some q } status none true

/-- Asks partners for a session. -/
def State.helloPartners (s : State) (r : CollRun) : List Nat → State
  | [] => s
  | q :: qs =>
    let node := r.g.node q
    (if s.sessionOpen node || s.net.out.any (fun c => c.node == node) then s else s.sendHello node 4).helloPartners r qs

/-- R107, R108, R113, R98, R270: the entries of the COLL and what it takes from them; none: BAD_DESCRIPTOR. An integer
scale is no exponent: what SCALE carries is then free (log 64). -/
def State.collScales (s : State) (p : Program) (r : CollRun) : Option (State × CollRun) :=
  let d := r.d
  let i := if d.inTidv then s.entryFor d.inTid p.histLen p.marginExp else some Entry.free
  let u := if d.outTidv then s.entryFor d.outTid p.histLen p.marginExp else some Entry.free
  match i, u with
  | some ei, some eo =>
    match ei.operandScale d.inFmt with
    | none => none
    | some sc =>
      if (d.needsPin && !eo.pinned) || (d.reduces && d.outTidv && eo.pinRefused d.outFmt) ||
          (d.sr && !s.numerics.seedValid) then none
      else
        let out : Int := if d.reduces && d.outTidv && eo.pinned then expField eo.pinScale else 0
        match sc with
        | .exp e => some (s, { r with inExp := e, inScale := sc, outExp := out })
        | .bf _ =>
          if !(d.inTidv && ei.curValid) then some (s, { r with inScale := sc, outExp := out })
          else
            let g := s.draw
            some (g.2, { r with inExp := sintOf 10 (Config.freeBits 10 g.1 0).toNat, inScale := sc, outExp := out })
  | _, _ => none

/-- R277: SCALE of a block of phase 0: 0 for A24 contributions. -/
def CollRun.sentExp (r : CollRun) : Int := if r.d.reduces && r.d.leafLog2 != 0 then 0 else r.inExp

/-- A COLL whose own input has been read enters the engine: its blocks are sent, and the chunks held for it merged. -/
def State.collEnter (s : State) (o : Op) (p : Program) (r : CollRun) (vs : List UnitVote) : State :=
  let s1 := if r.d.stageBytes = 0 then s else s.undefVirt p.root r.d.stageAddr r.d.stageBytes
  let s2 : State := { s1 with net := { s1.net with colls := s1.net.colls ++ [r] } }
  let s3 := (s2.queueBlocks r 0 r.sentExp r.block r.others).helloPartners r r.partners
  let mine := fun (c : EarlyChunk) => c.h.collId == r.d.collId && c.h.epoch.toNat == r.g.epoch
  let held := s3.net.early.filter mine
  let s4 : State := { s3 with net := { s3.net with early := s3.net.early.filter (fun c => !mine c) } }
  let s5 := match s4.collRun o.id with
    | some r1 => s4.collAdvance o p r1
    | none => s4
  s5.mergeEarly o p vs held

/-- Starts a COLL whose checks have passed and whose op is issued: its input is read and folded, with the vote of the adders
(R276, R298). -/
def State.collGo (s : State) (o : Op) (p : Program) (r : CollRun) (vs : List UnitVote) : State :=
  match s.net.closed.find? (fun x => x.1 == r.d.collId && x.2.1 == r.g.epoch && decide (0x20 ≤ x.2.2.1)) with
  | some x => s.failColl o { r with culpritRank := x.2.2.2 } x.2.2.1 none false
  | none =>
    match s.badPartner r with
    | some x => s.failPartner o r x.1 x.2
    | none =>
      match s.readTensors p.root r.d.inAddr r.d.inStride (packedBytes r.d.count r.d.inFmt) r.inputs with
      | (s1, .error e) => s1.failColl o r e.status e.word true
      | (s1, .ok ts) =>
        let r1 : CollRun := { r with own := r.wired ts }
        match if r.inputs = 0 then .agree else r.vote 0 (vs.headD .agree) with
        | .agree => s1.collEnter o p r1 vs.tail
        | .masked _ _ => (s1.adderVote o r1 false).collEnter o p { r1 with masked := true } vs.tail
        | .mismatch => (s1.adderVote o r1 true).failColl o r1 0x30 none true

/-- Ends a COLL with BAD_DESCRIPTOR and no other effect. -/
def State.collRefused (s : State) (o : Op) : Option State :=
  let i := s.issue o
  i.1.finishTelling i.2 0x20 none (collEarlyRecord i.2 0xFFFFFFFF s.clock.time) (fun x _ => x.countColl)

/-- R349, R351: W and duration of a burst. -/
def State.collFrank (s : State) (o : Op) (r : CollRun) : Frank :=
  let rate := (allPorts.map (fun n =>
    let x := s.port n
    if x.role = 0 ∧ x.state = portUp then (match x.gen with
      | 1 => 25000
      | 2 => 50000
      | _ => 100000) else 0)).sum
  let dur := if rate = 0 then 65535 else min 65535 (ceilDiv (max r.bytesOut r.bytesIn) rate)
  plainFrank o.id 5 (frankWatts (s.baseMw 5) 1 1 1 1) dur

/-- COLL: checked, its frank asked for if its blocks are a burst, and started. -/
def coll (op : Nat) (vs : List UnitVote) (s : State) : Option State :=
  match s.op op with
  | none => none
  | some o =>
    match s.program o.ring with
    | none => none
    | some p =>
      if o.kind != opColl || o.phase == .asking then none
      else if o.phase == .taken && (!s.opFree o || !s.entriesFree o) then none
      else if o.phase == .issued && (s.collRun op).isSome then none
      else
        match (s.collPlan o).bind (s.collScales p) with
        | none => s.collRefused o
        | some (s0, r) =>
          match s0.reachAreas p.root allowOwn r.areas with
          | (s1, some e) =>
            let i := if o.phase = .issued then (s1, o) else s1.issue o
            some (i.1.failColl i.2 r e.status e.word true)
          | (s1, none) =>
            if o.phase = .taken ∧ 2 ^ 20 ≤ r.bytesOut then
              some ((s1.setOp { o with phase := OpPhase.asking }).ask (s1.collFrank o r))
            else
              let i := if o.phase = .issued then (s1, o) else s1.issue o
              some (i.1.collGo i.2 p r vs)

/-! ### Completing (R274, R275, R280, R285) -/

/-- R151, R273: received or drained codes as they are stored: widened to BF16 under a scale, or as they are. -/
def CollRun.stored (r : CollRun) (e : Int) (bs : List Byte) : List Byte :=
  if r.d.widen then
    let b := codeBits r.d.outFmt
    packCodes 16 ((unpackFrom b 0 (8 * bs.length / b) bs).map (fun x =>
      roundFloat fmtBF16 .nearest ((codeVal r.d.outFmt x).scale e)))
  else bs

/-- What rank p's block of a phase stores here. -/
def CollRun.part (r : CollRun) (phase p : Nat) : List Byte := (r.merged phase p).flatMap (fun c => r.stored c.scale c.bytes)

/-- The outputs, as addresses and bytes (R269). -/
def CollRun.outputs (r : CollRun) : List (Nat × List Byte) :=
  let d := r.d
  let own := r.stored r.inExp (r.block r.rank)
  let mine := r.stored r.outExp (r.drained.getD [])
  let ranks := List.range r.g.members.length
  match d.kind with
  | 0 => ranks.map (fun q =>
      (d.outAddr + q * r.shard * codeBits d.memFmt / 8, if q = r.rank then mine else r.part 1 q))
  | 1 => [(d.outAddr, mine)]
  | 2 => ranks.map (fun q => (d.outAddr + q * packedBytes d.count d.memFmt, if q = r.rank then own else r.part 0 q))
  | 3 => [(d.outAddr, if r.rank = d.peer then own else r.part 0 d.peer)]
  | 4 => ranks.map (fun q => (d.outAddr + q * d.outStride, if q = r.rank then own else r.part 0 q))
  | 6 => [(d.outAddr, r.part 0 d.peer)]
  | _ => []

/-- Writes pieces in order. -/
def State.collWrite (s : State) (root : Word) : List (Nat × List Byte) → State × Option MemErr
  | [] => (s, none)
  | x :: xs =>
    match s.writeVirt root allowOwn x.1 x.2 with
    | (s1, .ok _) => s1.collWrite root xs
    | (s1, .error e) => (s1, some e)

/-- Every block acknowledged and every chunk merged (R280). -/
def State.collDone (s : State) (r : CollRun) : Bool :=
  !s.net.out.any (fun c => c.op == some r.op) && r.have_ 0 && r.have_ 1 && (!r.d.reduces || r.drained.isSome)

/-- Scales carried by the members whose data the output holds, lowest rank first (R274). -/
def CollRun.carried (r : CollRun) : List (Nat × Int) :=
  let ranks := match r.d.kind with
    | 2 => List.range r.g.members.length
    | 4 => List.range r.g.members.length
    | 3 => [r.d.peer]
    | 6 => [r.d.peer]
    | _ => []
  ranks.flatMap (fun q => if q = r.rank then [(q, r.inExp)] else (r.merged 0 q).map (fun c => (q, c.scale)))

/-- R274: SCALE_CUR of a moved tensor. A scale that no exponent can carry, or no data carries, is free (log 64). -/
def State.movedScale (s : State) (r : CollRun) : State × BitVec 16 :=
  if r.d.widen then (s, 0)
  else
    match r.carried with
    | x :: _ =>
      if !isIntCode r.d.inFmt then (s, BitVec.ofInt 16 x.2)
      else if x.1 = r.rank then (s, r.inScale.field)
      else let g := s.draw; (g.2, Config.freeBits 16 g.1 0)
    | [] => let g := s.draw; (g.2, Config.freeBits 16 g.1 0)

/-- R116, R127, R128, R274: the OUT_TID entry after a reduction, and the health codes due. -/
def CollRun.outEntry (r : CollRun) (u : SlotUse) (e : Entry) (p : Program) : Entry × List Nat :=
  let x := (e.drained (.exp r.outExp) r.d.outFmt u.amax).used u p.flushLog2 p.runLength
  (x.1, (if u.saturations = 0 then [] else [1]) ++ x.2 ++ (if u.nonfinite = 0 then [] else [4]))

/-- R274: entry updates at the end. -/
def State.collEntries (s : State) (p : Program) (r : CollRun) : State × List (Entry × List Nat) :=
  if r.d.reduces then
    match r.counters with
    | none => (s, [])
    | some u =>
      if r.d.outTidv then s.updateEntry p r.d.outTid (fun e => r.outEntry u e p)
      else (s, if u.saturations = 0 then [] else [(Entry.free.counted u, [1])])
  else if r.d.outTidv then
    let m := s.movedScale r
    m.1.updateEntry p r.d.outTid (fun e =>
      ({ e with curValid := true, amaxValid := false, scaleCur := m.2, curFmt := r.d.memFmt }, []))
  else (s, [])

/-- Real values of stored codes. -/
def realValues (fmt : Nat) (e : Int) (bs : List Byte) : List Val :=
  (unpackFrom (codeBits fmt) 0 (8 * bs.length / codeBits fmt) bs).map (fun x => (codeVal fmt x).scale e)

/-- R275: real values of the elements this member wrote, and the number of the first. -/
def CollRun.written (r : CollRun) : Nat × List Val :=
  let mine := realValues r.d.outFmt r.outExp (r.drained.getD [])
  if r.d.kind = 0 then
    (0, (List.range r.g.members.length).flatMap (fun q =>
      if q = r.rank then mine else (r.merged 1 q).flatMap (fun c => realValues r.d.outFmt c.scale c.bytes)))
  else (r.rank * r.shard, mine)

/-- R159: sums of squares of groups of 2,048, as leaves from group g on. -/
def squareGroups : Nat → Nat → List Val → List (Nat × BitVec 24)
  | 0, _, _ => []
  | k + 1, g, vs =>
    (g, tileSum ((vs.take 2048).map (fun v => v.mul v))) :: squareGroups k (g + 1) (vs.drop 2048)

/-- R275: the statistics group of a reduction. -/
def State.collStats (s : State) (r : CollRun) : State :=
  if !r.d.gstatEn then s
  else
    let w := r.written
    let sq := (openTree (squareGroups (ceilDiv w.2.length 2048) (w.1 / 2048) w.2)).getD a24Zero
    let old := s.vec.reduced.get (0, 0) r.d.gstatGroup
    { s with vec := { s.vec with
        reduced := s.vec.reduced.set (0, 0) r.d.gstatGroup (fold old.1 sq, (old.2 + r.d.gstatUnits) % 2 ^ 64) } }

/-- R285. -/
def CollRun.status (r : CollRun) : Nat :=
  if r.counters.any (fun u => u.saturations != 0) then 0x10 else if r.masked then 3 else 0

/-- A COLL that completed leaves the engine and enters the closed list; then its events (R285, R286, R129). -/
def State.closeDone (s : State) (o : Op) (r : CollRun) (hs : List (Entry × List Nat)) : State :=
  let s1 := ((s.clearOp o.id).closeColl r.d.collId r.g.epoch r.status none).countColl
  let s2 := if r.resent = 0 then s1 else s1.collEvent o r 5 (leBytes 4 r.resent)
  s2.raiseHealth o false hs

/-- COLL_COMPLETE. -/
def collComplete (op : Nat) (s : State) : Option State :=
  match s.op op, s.collRun op with
  | some o, some r =>
    match s.program o.ring with
    | none => none
    | some p =>
      if !s.collDone r then none
      else
        match s.collWrite p.root r.outputs with
        | (_, some .wait) => none
        | (s1, some e) => some (s1.failColl o r e.status e.word true)
        | (s1, none) =>
          let s2 := if r.d.stageBytes = 0 then s1 else s1.undefVirt p.root r.d.stageAddr r.d.stageBytes
          let u := (s2.collStats r).collEntries p r
          let differ := !r.d.reduces && r.d.outTidv && !r.d.widen &&
            (match r.carried with
             | x :: xs => xs.any (fun y => y.2 != x.2)
             | [] => false)
          let r1 : CollRun := { r with scalesDiffer := differ }
          u.1.finishTelling o r.status none (collRecord o r1 s.clock.time) (fun x _ => x.closeDone o r1 u.2)
  | _, _ => none

/-! ### Silence (R281) -/

/-- The COLL holds an unacknowledged chunk for a rank, or lacks a chunk from it. -/
def State.collWaits (s : State) (r : CollRun) (q : Nat) : Bool :=
  r.others.contains q &&
    (s.net.out.any (fun c => c.op == some r.op && c.node == r.g.node q) ||
     [0, 1].any (fun ph => (r.merged ph q).length != r.chunks (r.blockLen ph q r.rank)))

/-- COLL_SILENCE_HELLO: a HELLO to a member waited for, by a COLL (R281) or for a verdict (R324). -/
def collSilenceHello (who : Waiter) (rank : Nat) (s : State) : State :=
  match who with
  | .coll op =>
    match s.collRun op with
    | some r => if s.collWaits r rank then s.sendHello (r.g.node rank) 4 else s
    | none => s
  | .verdict step =>
    match s.step_ step with
    | some r =>
      match r.group with
      | some g => if s.verdictWaits r rank then s.sendHello (g.node rank) 4 else s
      | none => s
    | none => s

/-- COLL_PEER_TIMEOUT. -/
def collPeerTimeout (op rank : Nat) (s : State) : State :=
  match s.op op, s.collRun op with
  | some o, some r =>
    if s.collWaits r rank then
      (s.collEvent o r 1 (leBytes 4 rank ++ leBytes 4 (r.g.node rank))).failColl o { r with culpritRank := some rank } 0x40 none true
    else s
  | _, _ => s

def execColl (c : CollStart) (s : State) : Out := whenOp s c.op (coll c.op c.votes)
def execCollComplete (op : Nat) (s : State) : Out := whenOp s op (collComplete op)
def execCollSilenceHello (who : Waiter) (rank : Nat) (s : State) : Out := whenReady s (collSilenceHello who rank)
def execCollPeerTimeout (op rank : Nat) (s : State) : Out := whenReady s (collPeerTimeout op rank)

end Sys2Proof.Machine
end

