-- ==== Sys2Proof/Machine/Commands.lean ====
section
/-! DEFINITION. The CONTROL, DMA and FENCE commands of the rings: SCALE_SET, COUNTER_READ (R199), GROUP_SETUP (R266,
R267), FIELD_TEST (R311), FENCE (R201), DMA_COPY (R223 to R228) and HANDOVER (R391 to R395). -/

namespace Sys2Proof.Machine

/-! ### FENCE -/

/-- FENCE: it starts once the commands it waits for have completed (R201), and then completes. -/
def fence (ring : Fin 64) (s : State) : Option State :=
  match s.startCmd ring.val cmdFence with
  | none => none
  | some (c, s1) =>
    if c.headerBad || c.restBad 0x18 then some (s1.badCmd ring.val c) else some (s1.complete ring.val c.id 0 false 0)

def execFence (ring : Fin 64) (s : State) : Out := whenReadyOr s (fence ring)

/-! ### SCALE_SET (R109, R199) -/

/-- Whether image j goes to an entry that accepts it, for each of a list. -/
def imagesValid (first : Nat) : List (List Byte) → Bool
  | [] => true
  | b :: bs => imageValid first b && imagesValid (first + 1) bs

/-- Writes images into consecutive entries. -/
def setImages (book : SMap Entry) (first : Nat) : List (List Byte) → SMap Entry
  | [] => book
  | b :: bs => setImages (book.set Entry.free first (parseEntry b)) (first + 1) bs

/-- SCALE_SET. Images wait for ops that name their entries. -/
def scaleSet (ring : Fin 64) (s : State) : Option State :=
  match s.startCmd ring.val cmdScaleSet with
  | none => none
  | some (c, s1) =>
    let w := c.w 0x18
    let first := bits w 13 0
    let n := bits w 30 16
    if c.headerBad || devBad (c.w 0x10) || c.w 0x10 % 64 != 0 || bits w 15 14 != 0 || bits w 63 31 != 0 || c.restBad 0x20 ||
        n == 0 || decide (16384 < first + n) then some (s1.badCmd ring.val c)
    else
      match s1.readDev s1.mem.ptRoot allowOps (c.w 0x10) (192 * n) with
      | (s2, .error e) => some (s2.failCmd ring.val c e)
      | (s2, .ok bs) =>
        let images := records 192 n bs
        if !imagesValid first images then some (s2.badCmd ring.val c)
        else if s1.namesEntry first n then none
        else
          let s3 : State := { s2 with numerics := { s2.numerics with book := setImages s2.numerics.book first images } }
          some (s3.complete ring.val c.id 0 false 0)

def execScaleSet (ring : Fin 64) (s : State) : Out := whenPeersAnswer s (scaleSet ring)

/-! ### COUNTER_READ (R199) -/

/-- What COUNTER_READ writes for SELECT. -/
def State.counterImage (s : State) (sel first n : Nat) : List Byte :=
  match sel with
  | 0 => (List.range n).flatMap (fun i => (s.entry (first + i)).image)
  | 1 => (List.range 256).flatMap (fun g => gstatBytes (s.gstatOf g))
  | _ => (List.range 8192).flatMap (fun i => leBytes 8 (s.telemetryReg (8 * i)))

/-- COUNTER_READ. -/
def counterRead (ring : Fin 64) (s : State) : Option State :=
  match s.startCmd ring.val cmdCounterRead with
  | none => none
  | some (c, s1) =>
    let w := c.w 0x18
    let sel := bits w 3 0
    let first := bits w 29 16
    let n := bits w 46 32
    let range := if sel = 0 then n == 0 || decide (16384 < first + n) else first != 0 || n != 0
    if c.headerBad || devBad (c.w 0x10) || c.w 0x10 % 64 != 0 || bits w 15 4 != 0 || bits w 31 30 != 0 || bits w 63 47 != 0 ||
        c.restBad 0x20 || decide (2 < sel) || range then some (s1.badCmd ring.val c)
    else
      match s1.writeDev s1.mem.ptRoot allowOps (c.w 0x10) (s1.counterImage sel first n) with
      | (_, .error .wait) => none
      | (s2, .error e) => some (s2.failCmd ring.val c e)
      | (s2, .ok _) => some (s2.completeWritten ring.val c.id 0 0)

def execCounterRead (ring : Fin 64) (s : State) : Out := whenReadyOr s (counterRead ring)

/-! ### GROUP_SETUP (R266, R267) -/

/-- Whether some value occurs twice. -/
def repeats : List Nat → Bool
  | [] => false
  | x :: xs => xs.contains x || repeats xs

/-- Member entries of every definition but those of group `g` that a new one replaces. -/
def State.directorySize (s : State) (g : Nat) (replaceActive : Bool) : Nat :=
  let size := fun (m : SMap (Option GroupDef)) (skip : Bool) =>
    (m.map (fun p => match p.2 with
      | some d => if skip && p.1 == g then 0 else d.members.length
      | none => 0)).sum
  size s.net.active replaceActive + size s.net.pendingGroups (!replaceActive)

/-- GROUP_SETUP. -/
def groupSetup (ring : Fin 64) (s : State) : Option State :=
  match s.startCmd ring.val cmdGroupSetup with
  | none => none
  | some (c, s1) =>
    let g := bits (c.w 0x18) 31 0
    let epoch := bits (c.w 0x18) 63 32
    let n := bits (c.w 0x20) 17 0
    if c.headerBad || devBad (c.w 0x10) || bits (c.w 0x20) 63 18 != 0 || c.restBad 0x28 || n == 0 || decide (131072 < n) ||
        decide (31 < g) || !s1.net.nodeValid then some (s1.badCmd ring.val c)
    else
      match s1.readDev s1.mem.ptRoot allowOps (c.w 0x10) (4 * n) with
      | (s2, .error e) => some (s2.failCmd ring.val c e)
      | (s2, .ok bs) =>
        let es := (records 4 n bs).map leNat
        let now := epoch == s2.net.epoch
        let busy := s2.net.colls.any (fun r => r.d.group == g)
        if es.any (fun e => decide (2 ^ 17 ≤ e)) || repeats es || !es.contains s2.net.nodeId.toNat || decide (epoch < s2.net.epoch) ||
            (now && busy) || decide (1048576 < s2.directorySize g now + n) then some (s2.badCmd ring.val c)
        else
          let d : Option GroupDef := some { epoch := epoch, members := es }
          let s3 : State := if now then { s2 with net := { s2.net with active := s2.net.active.set none g d } }
            else { s2 with net := { s2.net with pendingGroups := s2.net.pendingGroups.set none g d } }
          some (s3.complete ring.val c.id 0 false 0)

def execGroupSetup (ring : Fin 64) (s : State) : Out := whenPeersAnswer s (groupSetup ring)

/-! ### FIELD_TEST (R311) -/

/-- R314: UNIT of a FIELD_TEST_FAIL event: the memory ID for the memory tests, and the die or stack; a cell column names its die
itself. -/
def testUnit (f : TestFail) : Nat :=
  (if f.test = 4 then f.unit.toNat % 256 else if f.test = 5 then 1 else 0) +
    256 * (if f.test.val ≤ 1 then f.unit.toNat / 200 % 2 else f.place.toNat)

/-- R311, R304: events of the failures found, and the columns they schedule for a spare. -/
def State.testEvents (s : State) : List TestFail → State
  | [] => s
  | f :: fs =>
    let s1 := s.fault 0x11 0 f.test.val 2 0 (testUnit f) 0 0 noColumns
    (if f.test.val ≤ 1 ∧ f.unit.toNat < 400 then s1.scheduleColumn f.unit.toNat else s1).testEvents fs

/-- The 64-byte record at RESULT. -/
def testRecord (set : Nat) (fails : List TestFail) (ns : Nat) : List Byte :=
  let failed := ((List.range 8).map (fun b => at_ (bitOf (fails.any (fun f => f.test.val == b))) b)).sum
  padTo 64 (leBytes 2 set ++ leBytes 2 failed ++ zeros 4 ++ leBytes 8 ns ++
    (List.range 8).flatMap (fun b => leBytes 4 (((fails.find? (fun f => f.test.val == b)).map (·.unit.toNat)).getD 0)))

/-- Tests that reach a compute die, so need the in-package links (R11): all but the collectives'. -/
def testReaches (set : Nat) : Bool := set != 0x40

/-- FIELD_TEST. -/
def fieldTest (ring : Fin 64) (run : FieldTestRun) (s : State) : Option State :=
  match s.startCmd ring.val cmdFieldTest with
  | none => none
  | some (c, s1) =>
    let set := bits (c.w 0x10) 15 0
    if c.headerBad || bits (c.w 0x10) 63 16 != 0 || set == 0 || bits set 15 8 != 0 || devBad (c.w 0x18) || c.restBad 0x20 then
      some (s1.badCmd ring.val c)
    else
      match s1.life.failedLinks, testReaches set with
      | l :: _, true => some (s1.complete ring.val c.id 0x60 false l)
      | _, _ =>
        let fails := run.failed.filter (fun f => bit set f.test.val)
        let s2 := s1.testEvents fails
        if !run.inTime then some (s2.complete ring.val c.id 0x70 false 0)
        else
          match s2.writeDev s2.mem.ptRoot allowOps (c.w 0x18) (testRecord set fails run.ns.toNat) with
          | (_, .error .wait) => none
          | (s3, .error e) => some (s3.failCmd ring.val c e)
          | (s3, .ok _) => some (s3.complete ring.val c.id 0 false 0)

def execFieldTest (ring : Fin 64) (run : FieldTestRun) (s : State) : Out := whenReadyOr s (fieldTest ring run)

/-! ### DMA_COPY (R223 to R228) -/

/-- R227: the parameters. -/
structure DmaDesc where
  host    : Nat
  dev     : Nat
  len     : Nat
  toHost  : Bool
  shuffle : Nat
  planes  : Nat
  elem    : Nat
  deriving DecidableEq, Repr

def dmaDesc (c : FetchedCmd) : DmaDesc :=
  let m := c.w 0x28
  { host := c.w 0x10, dev := c.w 0x18, len := bits (c.w 0x20) 39 0, toHost := bit m 0, shuffle := bits m 7 4
    planes := bits m 12 8, elem := bits m 14 13 }

/-- Element size in bytes. -/
def DmaDesc.e (d : DmaDesc) : Nat := 2 ^ d.elem
/-- Elements per plane. -/
def DmaDesc.n (d : DmaDesc) : Nat := d.len / (d.planes * d.e)

/-- Bytes written to the destination. -/
def DmaDesc.outLen (d : DmaDesc) : Nat :=
  match d.shuffle with
  | 3 => d.len / 2
  | 4 => 2 * d.len
  | 5 => d.len / 8
  | 6 => 8 * d.len
  | _ => d.len

/-- R227, R228: a descriptor outside its fields' encodings or its mode's condition. -/
def dmaBad (c : FetchedCmd) : Bool :=
  let d := dmaDesc c
  let m := c.w 0x28
  let planar := d.shuffle == 1 || d.shuffle == 2
  c.headerBad || devBad d.dev || bits (c.w 0x20) 63 40 != 0 || d.len == 0 || bits m 3 1 != 0 || bits m 63 15 != 0 ||
    c.restBad 0x30 || decide (6 < d.shuffle) ||
    (if planar then decide (d.planes < 2) || decide (16 < d.planes) || d.elem == 3 || d.len % (d.planes * d.e) != 0
     else d.planes != 0 || d.elem != 0) ||
    (d.shuffle == 3 && d.len % 2 != 0) || (d.shuffle == 5 && d.len % 8 != 0)

/-- Nibbles of two bytes in one, bits of eight bytes in one, and their inverses. -/
def packNibbles : List Byte → List Byte
  | a :: b :: t => BitVec.ofNat 8 (a.toNat % 16 + 16 * (b.toNat % 16)) :: packNibbles t
  | _ => []

def packPlane : Nat → List Byte → List Byte
  | 0, _ => []
  | k + 1, bs =>
    if bs.length < 8 then []
    else BitVec.ofNat 8 (((List.range 8).map (fun i => at_ (bitOf (((bs[i]?).getD 0).getLsbD 0)) i)).sum) ::
      packPlane k (bs.drop 8)

def spreadBits (bs : List Byte) : List Byte :=
  bs.flatMap (fun b => (List.range 8).map (fun i => BitVec.ofNat 8 (bitOf (b.getLsbD i))))

/-- R228: where source element q of a planar mode goes. -/
def DmaDesc.elemTarget (d : DmaDesc) (q : Nat) : Nat :=
  if d.shuffle = 1 then q % d.n * d.planes + q / d.n else q % d.planes * d.n + q / d.planes

/-- R228: which source element lands at element q of a planar destination. -/
def DmaDesc.elemSource (d : DmaDesc) (q : Nat) : Nat :=
  if d.shuffle = 1 then q % d.planes * d.n + q / d.planes else q % d.n * d.planes + q / d.n

/-- R228: the destination bytes of the whole source. -/
def DmaDesc.shuffled (d : DmaDesc) (src : List Byte) : List Byte :=
  match d.shuffle with
  | 1 => (List.range (d.len / d.e)).flatMap (fun q => (src.drop (d.elemSource q * d.e)).take d.e)
  | 2 => (List.range (d.len / d.e)).flatMap (fun q => (src.drop (d.elemSource q * d.e)).take d.e)
  | 3 => packNibbles src
  | 4 => src.flatMap (fun b => [BitVec.ofNat 8 (b.toNat % 16), BitVec.ofNat 8 (b.toNat / 16)])
  | 5 => packPlane src.length src
  | 6 => spreadBits src
  | _ => src

/-- R225, R228: the destination pieces, (offset, bytes), of a source of which only a prefix arrived. -/
def DmaDesc.partial_ (d : DmaDesc) (got : List Byte) : List (Nat × List Byte) :=
  if d.shuffle = 1 ∨ d.shuffle = 2 then
    (List.range (got.length / d.e)).map (fun q => (d.elemTarget q * d.e, (got.drop (q * d.e)).take d.e))
  else [(0, d.shuffled got)]

/-- R224: a physical device range is checked whole before any byte moves. -/
def State.dmaRange (s : State) (d : DmaDesc) : Except MemErr Unit :=
  let n := if d.toHost then d.len else d.outLen
  if bit d.dev 63 then .ok ()
  else
    match s.check allowOwn (d.dev % 2 ^ 48) n with
    | .error e => .error e
    | .ok (_, l) => if !d.toHost && s.refusesWrite l n then .error (.addr (d.dev % 2 ^ 48)) else .ok ()

/-- Ends a copy: its step's verdict (R322) and its record. -/
def State.endDma (s : State) (r : DmaRun) (status : Nat) (hostDetail : Bool) (detail : Nat) : State :=
  let s1 : State := { s with host := { s.host with dma := s.host.dma.filter (fun x => x.cmd != r.cmd) } }
  (s1.stepStatus r.step status).complete r.ring r.cmd status hostDetail detail

/-- Ends a copy whose device access failed once `written` bytes of the destination were written: DETAIL is the address of an
ADDRESS_FAULT (R19), and the count otherwise (R227). -/
def State.failDma (s : State) (r : DmaRun) (e : MemErr) (written : Nat) : State :=
  s.endDma r e.status false (match e with | .addr a => a | _ => written)

/-- DMA_COPY: checked, then a device-to-host copy is made, or the source is asked of the host. -/
def dmaCopy (ring : Fin 64) (s : State) : Option State :=
  if s.proof.boundary.isSome then none
  else
    match s.startCmd ring.val cmdDmaCopy with
    | none => none
    | some (c, s1) =>
      let d := dmaDesc c
      let r : DmaRun := { ring := ring.val, cmd := c.id, root := s1.mem.ptRoot, got := [], step := s1.openNum }
      if dmaBad c then some (s1.endDma r 0x20 false 0)
      else
        match s1.dmaRange d with
        | .error e => some (s1.failDma r e 0)
        | .ok _ =>
          if d.toHost then
            match s1.readDev r.root allowOwn d.dev d.len with
            | (s2, .error e) => some (s2.failDma r e 0)
            | (s2, .ok bs) =>
              some ((s2.sendHost (.hostWrite d.host (d.shuffled bs) true)).endDma r 0 false d.outLen)
          else
            some ({ s1 with host := { s1.host with dma := s1.host.dma ++ [r] } }.sendHost (.hostRead d.host d.len))

/-- The parts of `bs` at offset `o` of a destination that lie in one page each (R224). -/
def pageParts (dev : Nat) : Nat → Nat → List Byte → List (Nat × List Byte)
  | 0, _, _ => []
  | fuel + 1, o, bs =>
    if bs.isEmpty then []
    else
      let k := inPage (dev + o) bs.length
      (o, bs.take k) :: pageParts dev fuel (o + k) (bs.drop k)

/-- Writes parts of a destination in order; with a failure, the bytes written before it. -/
def State.writeSpans (s : State) (root : Word) (dev : Nat) : Nat → List (Nat × List Byte) → State × Except (MemErr × Nat) Unit
  | _, [] => (s, .ok ())
  | n, p :: ps =>
    match s.writeDev root allowOwn (dev + p.1) p.2 with
    | (s1, .ok _) => s1.writeSpans root dev (n + p.2.length) ps
    | (s1, .error e) => (s1, .error (e, n))

/-- Writes the pieces of a destination, page by page. -/
def State.writePieces (s : State) (root : Word) (dev : Nat) (ps : List (Nat × List Byte)) : State × Except (MemErr × Nat) Unit :=
  s.writeSpans root dev 0 (ps.flatMap (fun p => pageParts dev (pageFuel p.2.length) p.1 p.2))

/-- HOST_READ_COMPLETION: the next source bytes arrive, or the read failed. The destination is written once the source
is complete (log 20); a failed read leaves what the bytes before it make (R225). -/
def hostReadCompletion (ring : Fin 64) (h : HostRead) (s : State) : Option State :=
  match s.host.dma.find? (fun r => r.ring == ring.val) with
  | none => none
  | some r =>
    match (s.ring r.ring).cmd r.cmd with
    | none => none
    | some c =>
      let d := dmaDesc c
      match h with
      | .failed how =>
        match (s.noteFail how).writePieces r.root d.dev (d.partial_ r.got) with
        | (_, .error (.wait, _)) => none
        | (s1, .error e) => some (s1.failDma r e.1 e.2)
        | (s1, .ok _) => some (s1.endDma r 0x21 true ((d.host + r.got.length) % 2 ^ 64))
      | .data bs =>
        let got := r.got ++ bs.take (d.len - r.got.length)
        if got.length < d.len then
          let more : DmaRun := { r with got := got }
          some { s with host := { s.host with dma := s.host.dma.map (fun x => if x.cmd = r.cmd then more else x) } }
        else
          match s.writePieces r.root d.dev [(0, d.shuffled got)] with
          | (_, .error (.wait, _)) => none
          | (s1, .error e) => some (s1.failDma r e.1 e.2)
          | (s1, .ok _) => some (s1.endDma r 0 false d.outLen)

def execDmaCopy (ring : Fin 64) (s : State) : Out := whenReadyOr s (dmaCopy ring)
def execHostReadCompletion (ring : Fin 64) (r : HostRead) (s : State) : Out := whenReadyOr s (hostReadCompletion ring r)

/-! ### HANDOVER (R391 to R395) -/

/-- Dies whose memories lie beyond a failed in-package link as seen from X, where Gyton stands (R11). -/
def State.beyond (s : State) : List Nat := s.life.failedLinks.filterMap (fun l => if l = 0 then none else some (l - 1))

/-- The die of a 2 MiB unit of memory: HBM alternates between the dies by such units (R23). -/
def unitDie (u : Nat) : Nat :=
  let a := u * 0x200000
  if memoryId a = 1 then u % 2 else memoryUnit a / 256

/-- Parts of a hole that lie in the units of a size that a choice keeps. -/
def Hole.keep (size : Nat) (p : Nat → Bool) (h : Hole) : List Hole :=
  ((List.range (ceilDiv h.hi size - h.lo / size)).map (· + h.lo / size)).filterMap (fun u =>
    if p u then some { h with lo := max h.lo (u * size), hi := min h.hi ((u + 1) * size) } else none)

/-- Memory whose units of a size hold zeros with valid check bits, except those that a choice keeps. -/
def Memory.zeroed (m : Memory) (size : Nat) (p : Nat → Bool) : Memory :=
  { m with ram := ⟨m.ram.cells.filter (fun c => p (c.1 / size)), m.ram.holes.flatMap (Hole.keep size p)⟩
           poison := m.poison.filter (fun c => p (c.1 * 64 / size))
           latent := m.latent.filter (fun c => p (c.1 * 64 / size)) }

/-- R392 step 2: memory scrubbed with zeros, except what lies beyond a failed link. -/
def Memory.scrubbed (m : Memory) (ds : List Nat) : Memory :=
  let m1 := if ds.isEmpty then { m with ram := Store.empty 8, poison := [], latent := [] }
    else m.zeroed 0x200000 (fun u => ds.contains (unitDie u))
  { m1 with ptRoot := 0, tlb := [] }

/-- R391: ends every SPDM session. -/
def State.closeSessions (s : State) : State :=
  let end_ := fun (x : State) (open_ : Bool) (t : Nat) => if open_ then x.raise 9 9 x.currentStep 0 t (leBytes 1 0) else x
  let shut : Spdm → Spdm := fun p => { p with session := none, established := false }
  let s1 := end_ (end_ s s.fw.spdmDoe.established 0) s.fw.spdmMctp.established 1
  { s1 with fw := { s1.fw with spdmDoe := shut s1.fw.spdmDoe, spdmMctp := shut s1.fw.spdmMctp, secrets := [] } }

/-- Control cores in service (R310, R338): CC0 to CC6, with CC7 in place of a retired one. -/
def State.coresInService (s : State) : List Nat :=
  let run := (List.range 7).filter (fun c => !s.plate.coresScheduled.contains c)
  match s.plate.coreRetired with
  | some c => run.filter (· != c) ++ [7]
  | none => run

def State.restartCores (s : State) : List Nat → State
  | [] => s
  | c :: cs => (s.raise 9 5 s.currentStep 0 c (leBytes 1 2)).restartCores cs

/-- R393: the TEST block, each loop ended as a write of 0 ends it. -/
def State.resetTests (s : State) : State :=
  let s1 := allPorts.foldl (fun (x : State) p => if h : p < 24 then ethLoopWrite ⟨p, h⟩ (.wide 0) x else x) s
  { s1 with
    hbmTest := HbmTest.reset
    pcie := { s1.pcie with loopMode := 0, loopMs := 0, loopActive := false, loopErrors := 0, loopLanes := 0 }
    life := { s1.life with extended := false, lanesRepaired := 0, rowsRepaired := 0, sramRemaps := 0, extendedRan := false } }

/-- R392 steps 2 and 3: memories, key set, scale book, registers and tables. A key register that did not read back as
zero keeps what the manual does not state (log 10). -/
def State.scrubAll (s : State) (keysZero : Bool) : State :=
  let ds := s.beyond
  let g := s.resetQps.draw
  let s1 := g.2
  let s2 : State := { s1 with
    mem := s1.mem.scrubbed ds
    numerics := { Numerics.reset with seed := if keysZero then 0 else Config.freeBits 64 g.1 0 }
    vec := { s1.vec with e0 := if ds.contains 0 then s1.vec.e0 else Engine.reset
                         e1 := if ds.contains 1 then s1.vec.e1 else Engine.reset, reduced := [] }
    seq := Seq.reset }
  if keysZero then s2.closeSessions
  else s2.closeSessions.raise 9 7 s2.currentStep 0 (Config.freeBits 32 g.1 1).toNat (leBytes 8 0 ++ leBytes 2 1)

/-- R392 step 4, R393. -/
def State.resetBlocks (s : State) : State :=
  let s1 : State := { s with
    plate := { s.plate with checkDefault := 2, duet := false, running := [] }
    net := { s.net with nodeId := 0, nodeValid := false, rdmaTargets := 0, active := [], pendingGroups := [], epoch := 0
                        colls := [], closed := [], early := [], out := [] }
    proof := { Proof.reset with idle0 := s.proof.idle0, idle1 := s.proof.idle1 } }
  let s2 := (s1.sendLldps allPorts).reopenAll
  ((s2.applyTopos allPorts).resetTests).switchIfIdle

/-- HANDOVER. -/
def handover (ring : Fin 64) (run : HandoverRun) (s : State) : Option State :=
  match s.startCmd ring.val cmdHandover with
  | none => none
  | some (c, s1) =>
    if c.headerBad || c.restBad 0x10 then some (s1.badCmd ring.val c)
    else
      let cut := !s1.beyond.isEmpty
      let s2 := (s1.scrubAll run.keysZero).resetBlocks
      let s3 := s2.restartCores s2.coresInService
      let s4 : State := if cut then s3
        else { s3 with fw := { s3.fw with handovers := s3.fw.handovers + 1 } }.raise 9 6 s3.currentStep 0 0
          (leBytes 8 run.ns.toNat ++ leBytes 1 (bitOf run.keysZero))
      let s5 : State := { s4 with life := { s4.life with safelight := s4.life.safelight || !run.serverTripped } }
      some (s5.complete ring.val c.id (if cut then 0x60 else if run.serverTripped then 0x70 else 0) false 0)

def execHandover (ring : Fin 64) (run : HandoverRun) (s : State) : Out := whenReadyOr s (handover ring run)

end Sys2Proof.Machine
end

