-- ==== Sys2Proof/Machine/Yehosen.lean ====
section
/-! DEFINITION. The receiving side of the Yehosen channels (R245 to R248): frames checked, put in order, applied and
acknowledged. -/

namespace Sys2Proof.Machine

/-! ### Headers (R245) -/

def hdrType (h : List Byte) : Nat := bits (field h 0 1) 3 0
def hdrSeq (h : List Byte) : Nat := field h 2 3
def hdrAck (h : List Byte) : Nat := field h 5 3
def hdrAddr (h : List Byte) : Nat := field h 8 6
def hdrLen (h : List Byte) : Nat := 64 * (bits (field h 14 2) 5 0 + 1)
def hdrTag (h : List Byte) : Nat := bits (field h 14 2) 15 6

/-- A well-formed frame of a type from member `m` to this module. -/
def State.frameOk (s : State) (m typ : Nat) (h payload : List Byte) : Bool :=
  field h 0 1 == typ && field h 1 1 == m + 4 * s.member &&
    (match typ with
     | 1 => payload.length == hdrLen h && hdrAddr h % 64 == 0
     | 2 => payload.isEmpty && hdrAddr h % 64 == 0
     | 3 => payload.length == hdrLen h && hdrAddr h == 0
     | 4 => hdrSeq h == 0
     | 5 => hdrSeq h == 0
     | _ => payload.length == 4 && decide (hdrAddr h < 2 ^ 16))

/-! ### Acknowledgements (R246) -/

/-- Whether a sequence number is at or before an acknowledged one. -/
def acked (ack seq : Nat) : Bool := decide ((ack + 2 ^ 24 - seq) % 2 ^ 24 < 2 ^ 23)

/-- Ends a MOVE or SIGNAL whose last frame was acknowledged. A record that must wait is tried at the next frame. -/
def State.settleOp (s : State) (id : Nat) : State :=
  match s.op id with
  | none => s
  | some o =>
    if !s.quiet id || o.phase != .issued || !o.begun then s
    else if o.kind = opMove then (s.endMove o ((o.ending.map (·.1)).getD 0) (o.ending.bind (·.2))).getD s
    else if o.kind = opSignal then (s.finishOp o 0 none (s.recordOf o s.clock.time)).getD s
    else s

def State.settleOps (s : State) : List Nat → State
  | [] => s
  | i :: is => (s.settleOp i).settleOps is

/-- Completes the commands whose output no frame carries any more (R214). -/
def State.settleCmds (s : State) : List FetchedCmd → State
  | [] => s
  | c :: cs =>
    (match c.due with
      | some (st, d) => if s.quiet c.id then s.endCmdWith c.id st d else s
      | none => s).settleCmds cs

/-- Counts the bytes an acknowledged WRITE has written for its MOVE to a tray member. -/
def State.creditFrame (s : State) (f : YeFrame) : State :=
  match f.op with
  | some id =>
    match s.op id with
    | some o => if f.typ = 1 ∧ o.kind = opMove ∧ o.moveDstMember ≠ 7 then s.setOp { o with sum := o.sum + f.len } else s
    | none => s
  | none => s

/-- Releases the frames an ACK_SEQ covers, sends those that were waiting for the window, and ends ops. -/
def State.takeAck (s : State) (m ack : Nat) : State :=
  let c := s.channel m
  let sent := c.unacked.take 512
  let gone := sent.filter (fun f => acked ack f.seq)
  let left := c.unacked.filter (fun f => !gone.contains f)
  let s1 := s.setChannel m { c with unacked := left }
  let s2 := gone.foldl State.creditFrame s1
  let s3 := s2.yeReplay m ((left.take 512).drop (sent.length - gone.length))
  let s4 := s3.settleOps ((gone.filterMap (·.op)).eraseDups ++
    (s3.seq.window.filter (fun o => (o.kind == opMove || o.kind == opSignal) && o.begun)).map (·.id))
  s4.settleCmds s4.commands

/-! ### Applying frames (R247, R248) -/

/-- R248: a range of the module's own map that a peer may name. -/
def State.peerRange (s : State) (a n : Nat) : Except Nat Nat :=
  if (s.ownWindow a).isSome then .error a
  else
    match s.check allowOwn a n with
    | .error (.addr f) => .error f
    | .error _ => .error a
    | .ok (_, l) => .ok l

/-- A NAK that carries a fault: status, the refused SEQ, and the address (log 33). -/
def State.refuseFrame (s : State) (m status seq addr : Nat) : State :=
  s.yeControl m 5 addr (leBytes 1 status ++ leBytes 3 seq)

/-- A READ_RESP for a read of the peer's window: kept until the op or command that needs it runs. -/
def State.landWindow (s : State) (m tag : Nat) (bs : List Byte) : State :=
  let c := s.channel m
  let lives := fun (id : Nat) => (s.op id).isSome || s.commands.any (fun x => x.id == id)
  s.setChannel m { c with windows := (c.windows.filter (fun w => w.tag != tag || w.data.isSome || lives w.actor)).map (fun w =>
    if w.tag = tag ∧ w.data = none then { w with data := some bs } else w) }

/-- R247: a READ_RESP lands in the destination of its request, and frees its tag. `none`: its write waits (R327). -/
def State.landRead (s : State) (m tag : Nat) (bs : List Byte) : Option State :=
  match s.net.reads.find? (fun r => r.member == m && r.tag == tag) with
  | none => some (State.sendPulls 1 (s.landWindow m tag bs) m)
  | some r =>
    let s1 : State := State.sendPulls 1 { s with net := { s.net with reads := s.net.reads.erase r } } m
    match s1.op r.op with
    | none => some s1
    | some o =>
      match (s1.acting o.id).writeSide (s1.rootOf o.ring) r.virt r.dst (bs.take r.len) with
      | (s2, .ok _) => some ((s2.setOp { o with sum := o.sum + r.len }).settleOp o.id)
      | (_, .error .wait) => none
      | (s2, .error e) => some (s2.failOp o.id e.status e.word)

/-- Applies one frame in its turn: the peer's access is refused if it meets poison in the packet buffers (R307). -/
def State.applyFrame (s0 : State) (m : Nat) (f : YeFrame) : Option State :=
  let b := s0.meetHidden 9 f.seq
  let s := b.1
  if b.2 && (f.typ == 1 || f.typ == 2) then some (s.refuseFrame m 0x31 f.seq f.addr)
  else
  match f.typ with
  | 1 =>
    match s.peerRange f.addr f.len with
    | .error a => some (s.refuseFrame m 0x21 f.seq a)
    | .ok l =>
      if s.refusesWrite l f.len then some (s.refuseFrame m 0x21 f.seq f.addr)
      else some (s.store l f.payload)
  | 2 =>
    match s.peerRange f.addr f.len with
    | .error a => some (s.refuseFrame m 0x21 f.seq a)
    | .ok l =>
      match s.readAt .hbm l f.len with
      | (s1, .ok bs) => some (s1.yeSend m 3 0 f.len f.tag bs none)
      | (s1, .error _) => some (s1.refuseFrame m 0x31 f.seq f.addr)
  | 3 => s.landRead m f.tag f.payload
  | 6 => some (s.addSem (f.addr % 65536) (BitVec.ofNat 32 (leNat f.payload)))
  | _ => some s

/-- Applies a frame that is next in order, and those held behind it; one whose write waits stays held. -/
def State.applyRun (m : Nat) : Nat → State → State
  | 0, s => s
  | fuel + 1, s =>
    let c := s.channel m
    let want := (c.applied + 1) % 2 ^ 24
    match c.early.find? (fun f => f.seq == want) with
    | none => s
    | some f =>
      let s1 := s.setChannel m { c with applied := want, early := c.early.filter (fun g => g.seq != want) }
      match s1.applyFrame m f with
      | none => s
      | some t => State.applyRun m fuel t

/-- R246: a numbered frame. One already applied is acknowledged again; one out of order within the window of 512 is
held, and a NAK asks for those before it. -/
def State.takeFrame (s : State) (m : Nat) (f : YeFrame) : State :=
  let c := s.channel m
  let ahead := (f.seq + 2 ^ 24 - (c.applied + 1) % 2 ^ 24) % 2 ^ 24
  if ahead = 0 then
    let s1 := s.setChannel m { c with early := f :: c.early.filter (fun g => g.seq != f.seq) }
    (State.applyRun m 513 s1).yeControl m 4 0 []
  else if ahead < 512 then
    let held := if c.early.any (fun g => g.seq == f.seq) then c.early else f :: c.early
    (s.setChannel m { c with early := held }).yeControl m 5 0 []
  else if 2 ^ 24 - ahead ≤ 2 ^ 23 then s.yeControl m 4 0 []
  else s

/-- The frame a header and its payload spell. -/
def yeFrame (h payload : List Byte) : YeFrame :=
  { seq := hdrSeq h, typ := hdrType h, addr := hdrAddr h, len := hdrLen h, tag := hdrTag h, payload := payload, op := none }

/-- A frame arrives on a port: dropped and counted unless the port carries tray traffic and the frame is well
formed; else its ACK_SEQ and then itself take effect. -/
def State.receive (s : State) (p typ : Nat) (h payload : List Byte) (act : Nat → State → State) : State :=
  let x := s.port p
  let m := s.facedMember p
  if decide (6 ≤ p) || x.role != 1 || x.state != portUp || !s.frameOk m typ h payload then s.dropFrame p
  else act m (s.takeAck m (hdrAck h))

def State.receiveNumbered (s : State) (p typ : Nat) (h payload : List Byte) : State :=
  s.receive p typ h payload (fun m x => x.takeFrame m (yeFrame h payload))

/-- YEHOSEN_WRITE. -/
def yehosenWrite (p : Fin 24) (h payload : List Byte) (s : State) : State := s.receiveNumbered p.val 1 h payload
/-- YEHOSEN_READ_REQ. -/
def yehosenReadReq (p : Fin 24) (h payload : List Byte) (s : State) : State := s.receiveNumbered p.val 2 h payload
/-- YEHOSEN_READ_RESP. -/
def yehosenReadResp (p : Fin 24) (h payload : List Byte) (s : State) : State := s.receiveNumbered p.val 3 h payload
/-- YEHOSEN_SEM_ADD. -/
def yehosenSemAdd (p : Fin 24) (h payload : List Byte) (s : State) : State := s.receiveNumbered p.val 6 h payload
/-- YEHOSEN_ACK. -/
def yehosenAck (p : Fin 24) (h payload : List Byte) (s : State) : State := s.receive p.val 4 h payload (fun _ x => x)

/-- A refused READ_REQ has no READ_RESP: its tag is free again. -/
def State.dropRead (s : State) (m tag : Nat) : State :=
  let c := s.channel m
  let s1 := s.setChannel m { c with windows := c.windows.filter (fun w => w.tag != tag || w.data.isSome) }
  { s1 with net := { s1.net with reads := s1.net.reads.filter (fun r => r.member != m || r.tag != tag) } }

/-- R213, R248: the fault a NAK carries. A status that no refusal of R248 has is not taken: the channel is replayed (log 70). -/
def nakStatus (st : Nat) : Bool := st == 0x21 || st == 0x31

/-- YEHOSEN_NAK: without a fault, the channel is replayed; with one, the op of the refused frame ends, once those
before it are counted. -/
def State.takeNak (s : State) (m : Nat) (h payload : List Byte) : State :=
  if payload.isEmpty || !nakStatus (field payload 0 1) then
    let s1 := s.takeAck m (hdrAck h)
    s1.yeReplay m ((s1.channel m).unacked.take 512)
  else
    let seq := field payload 1 3
    let status := field payload 0 1
    let s1 := s.takeAck m ((seq + 2 ^ 24 - 1) % 2 ^ 24)
    let refused := (s1.channel m).unacked.find? (fun f => f.seq == seq)
    let s2 := match refused with
      | none => s1
      | some f =>
        let s2 := if f.typ = 2 then s1.dropRead m f.tag else s1
        match f.op with
        | none => s2
        | some id => s2.failActor id status (if status = 0x21 then some (BitVec.ofNat 64 (hdrAddr h)) else none)
    s2.takeAck m (hdrAck h)

def yehosenNak (p : Fin 24) (h payload : List Byte) (s : State) : State :=
  let x := s.port p.val
  let m := s.facedMember p.val
  if decide (6 ≤ p.val) || x.role != 1 || x.state != portUp || !s.frameOk m 5 h payload then s.dropFrame p.val
  else s.takeNak m h payload

/-- YEHOSEN_REPLAY_TIMEOUT. -/
def yehosenReplayTimeout (m : Fin 4) (s : State) : State := s.yeReplay m.val ((s.channel m.val).unacked.take 512)

def execYehosenWrite (port : Fin 24) (hdr payload : List Byte) (s : State) : Out := whenReady s (yehosenWrite port hdr payload)
def execYehosenReadReq (port : Fin 24) (hdr payload : List Byte) (s : State) : Out :=
  whenReady s (yehosenReadReq port hdr payload)
def execYehosenReadResp (port : Fin 24) (hdr payload : List Byte) (s : State) : Out :=
  whenReady s (yehosenReadResp port hdr payload)
def execYehosenAck (port : Fin 24) (hdr payload : List Byte) (s : State) : Out := whenReady s (yehosenAck port hdr payload)
def execYehosenNak (port : Fin 24) (hdr payload : List Byte) (s : State) : Out := whenReady s (yehosenNak port hdr payload)
def execYehosenSemAdd (port : Fin 24) (hdr payload : List Byte) (s : State) : Out :=
  whenReady s (yehosenSemAdd port hdr payload)
def execYehosenReplayTimeout (m : Fin 4) (s : State) : Out := whenReady s (yehosenReplayTimeout m)

end Sys2Proof.Machine
end

