-- ==== Sys2Proof/Machine/NptRecv.lean ====
section
/-! DEFINITION. The receiving side of NPT (R254 to R257, R278, R279, R281 to R283): chunks, acknowledgements, refusals and
notices, sessions, and its timers. -/

namespace Sys2Proof.Machine

/-! ### Chunks (R279) -/

/-- The COLL in flight with a COLL_ID. -/
def State.collWith (s : State) (id : BitVec 32) : Option CollRun := s.net.colls.find? (fun r => r.d.collId == id)

/-- The status a collective ended with, from the closed list. -/
def State.closedStatus (s : State) (h : NptHeader) : Option Nat :=
  (s.net.closed.find? (fun x => x.1 == h.collId && x.2.1 == h.epoch.toNat)).map (fun x => x.2.2.1)

/-- R286: CHUNK_REFUSED, and the refusal. -/
def State.refuseChunk (s : State) (h : NptHeader) (group code : Nat) : State :=
  (s.nptRefuse h code).raise 7 2 s.currentStep 0 group
    (leBytes 4 h.collId.toNat ++ leBytes 4 h.epoch.toNat ++ leBytes 4 (chunkSender h) ++ leBytes 2 code)

/-- A refusal where no COLL of this module names the group: SUBJECT is free (log 65). -/
def State.refuseUnknown (s : State) (h : NptHeader) (code : Nat) : State :=
  let g := s.draw
  g.2.refuseChunk h (Config.freeBits 5 g.1 0).toNat code

/-- R278: two chunks of one identity from one node. -/
def sameChunk (a b : NptHeader) : Bool :=
  a.collId == b.collId && a.epoch == b.epoch && a.chunkIndex == b.chunkIndex && chunkRank a == chunkRank b

/-- Room for a chunk in the early buffer of 32 MiB. -/
def State.earlyRoom (s : State) (n : Nat) : Bool :=
  decide ((s.net.early.map (fun c => c.bytes.length)).sum + n ≤ 2 ^ 25)

/-- A chunk for a COLL that is not running. -/
def State.chunkEarly (s : State) (h : NptHeader) (bs : List Byte) (ce : Nat) : State :=
  match s.closedStatus h with
  | some st => if st < 0x20 then s.nptAnswer 2 h ce [] else s.refuseUnknown h st
  | none =>
    if h.epoch.toNat < s.net.epoch then s.refuseUnknown h 0x60
    else if s.net.early.any (fun c => c.node == chunkSender h && sameChunk c.h h) then s.nptAnswer 2 h ce []
    else if s.earlyRoom bs.length then
      let c : EarlyChunk := { node := chunkSender h, h := h, bytes := bs }
      ({ s with net := { s.net with early := s.net.early ++ [c] } }).nptAnswer 2 h ce []
    else s.nptRefuse h 0

/-- A chunk for a running COLL; poison met in the packet buffers ends it (R307). -/
def State.chunkRunning (s : State) (o : Op) (p : Program) (r : CollRun) (h : NptHeader) (bs : List Byte) (ce : Nat)
    (v : UnitVote) : State :=
  if h.epoch.toNat ≠ r.g.epoch then
    (s.refuseChunk h r.d.group 0x41).failColl o { r with culpritRank := r.g.rankOf (chunkSender h) } 0x41 none true
  else if !r.expects h bs then (s.refuseChunk h r.d.group 0x20).failColl o r 0x20 none true
  else
    let s1 := s.nptAnswer 2 h ce []
    if r.holds h then s1
    else
      let m := s1.meetHidden 9 h.chunkIndex.toNat
      if m.2 then m.1.failColl o r 0x31 none true else m.1.mergeChunk o p r h bs v false

/-- R277: reserved bits in the header of a packet about a collective. -/
def collReservedBits (h : NptHeader) : Bool := bits h.chunkIndex.toNat 30 24 != 0

/-- What a complete chunk does (R279). -/
def State.takeChunk (s : State) (h : NptHeader) (chunk : List Byte) (ce : Nat) (v : UnitVote) : State :=
  match s.collWith h.collId with
  | none => s.chunkEarly h chunk ce
  | some r =>
    match s.op r.op with
    | none => s
    | some o =>
      match s.program o.ring with
      | none => s
      | some p => (s.acting r.op).chunkRunning o p r h chunk ce v

/-- NPT_DATA: a complete chunk received. -/
def nptData (a : Arrival) (h : NptHeader) (chunk : List Byte) (ce : Nat) (v : UnitVote) (s : State) : State :=
  s.receives a h (fun x => if collReservedBits h then x.dropFrame a.port.val else x.takeChunk h chunk ce v)

/-! ### Acknowledgements (R256, R257) -/

/-- The kept chunk that an ACK or NACK names. -/
def State.named (s : State) (h : NptHeader) : Option OutChunk :=
  s.net.out.find? (fun c => c.node == chunkSender h && sameChunk c.h h)

/-- R257: the rate after an ACK with `ce` marks on a chunk of n packets, at most once per 20 µs. -/
def Session.cut (x : Session) (ce n time : Nat) : Session :=
  if ce = 0 ∨ x.lastCut.any (fun t => decide (time < t + 20000)) then x
  else { x with rate := x.rate * (2 * n - ce) / (2 * n), lastCut := some time }

/-- R277: an answer about a collective with a reserved bit. One about a message is told by the message it names. -/
def State.answerReserved (s : State) (h : NptHeader) : Bool := collReservedBits h && !(s.named h).any (fun c => c.kind == 6)

/-- What an ACK does. -/
def State.takeChunkAck (s : State) (h : NptHeader) : State :=
  match s.named h with
  | none => s
  | some c =>
    let s1 : State := { s with net := { s.net with out := s.net.out.filter (fun y => y.id != c.id) } }
    s1.setSession c.node ((s1.session c.node).cut h.ceCount.toNat (packetCount c.bytes.length) s1.clock.time)

/-- NPT_ACK. -/
def nptAck (a : Arrival) (h : NptHeader) (s : State) : State :=
  s.receives a h (fun x => if x.answerReserved h then x.dropFrame a.port.val else x.takeChunkAck h)

/-- NPT_RATE_INCREASE: no marks for 50 µs. -/
def nptRateIncrease (node : BitVec 17) (s : State) : State :=
  let x := s.session node.toNat
  if x.isOpen then s.setSession node.toNat { x with rate := min (2 ^ 32) (x.rate + 2 ^ 27) } else s

/-! ### Refusals and notices (R278, R279, R283) -/

/-- BUSY: the chunk waits for its time to be sent again. -/
def State.markBusy (s : State) (c : OutChunk) : State :=
  { s with net := { s.net with out := s.net.out.map (fun x => if x.id = c.id then { x with busy := true } else x) } }

/-- R6, R213: the statuses a COLL may end with because of another member. A refusal or notice with a code that is none of them is
discarded (log 70). -/
def endingStatus (code : Nat) : Bool :=
  [0x20, 0x21, 0x22, 0x30, 0x31, 0x40, 0x41, 0x42, 0x43, 0x50, 0x60, 0x61, 0x70].contains code

/-- Statuses that concern a member (R285). -/
def blamesMember (code : Nat) : Bool := [0x40, 0x41, 0x42, 0x43].contains code

/-- A refusal of a chunk of a running COLL, or a notice from a member. -/
def State.hearEnd (s : State) (o : Op) (r : CollRun) (h : NptHeader) (code : Nat) : State :=
  if chunkRank h = r.rank then
    let who := if blamesMember code then r.g.rankOf (chunkSender h) else none
    s.failColl o { r with culpritRank := who } code none true
  else s.failColl o { r with culpritRank := some (chunkRank h) } code none false

/-- R283: a notice for a COLL that has not started. -/
def State.hearNotice (s : State) (h : NptHeader) (code : Nat) : State :=
  if (s.closedStatus h).isSome then s
  else s.closeColl h.collId h.epoch.toNat code (some (chunkRank h))

/-- A refusal with a status, or an abandon notice. -/
def State.hearStatus (s : State) (h : NptHeader) (code : Nat) : State :=
  if !endingStatus code then s
  else
    match s.net.colls.find? (fun r => r.d.collId == h.collId && r.g.epoch == h.epoch.toNat) with
    | some r =>
      match s.op r.op with
      | some o => (s.acting r.op).hearEnd o r h code
      | none => s
    | none => s.hearNotice h code

/-- R256: sends again the packets of a kept chunk that a NACK names. -/
def State.resendPackets (s : State) (c : OutChunk) (words : List (BitVec 16)) : State :=
  if (s.usable c.node).isEmpty then s
  else s.sendPackets c.node c.kind c.start c.h c.bytes ((words.map (·.toNat)).filter (fun i => i < packetCount c.bytes.length))

/-- What a NACK does: missing packets, BUSY, a refusal or an abandon notice (R278). -/
def State.takeNack (s : State) (h : NptHeader) (words : List (BitVec 16)) : State :=
  match words with
  | [0xFFFF, code] =>
    if code = 0 then
      match s.named h with
      | some c => s.markBusy c
      | none => s
    else s.hearStatus h code.toNat
  | _ =>
    match s.named h with
    | some c => s.resendPackets c words
    | none => s

/-- NPT_NACK. -/
def nptNack (a : Arrival) (h : NptHeader) (words : List (BitVec 16)) (s : State) : State :=
  s.receives a h (fun x => if x.answerReserved h then x.dropFrame a.port.val else x.takeNack h words)

/-! ### Timers (R256) -/

/-- NPT_NACK_TIMER: a chunk has waited 50 µs for packets. -/
def nptNackTimer (h : NptHeader) (missing : List (BitVec 16)) (s : State) : State :=
  if s.forUs h then s.nptAnswer 3 h 0 (missing.map BitVec.toNat) else s

/-- NPT_RESEND_TIMEOUT: no ACK for 200 µs, or 200 µs after BUSY. -/
def nptResendTimeout (chunk : Nat) (s : State) : State :=
  match s.net.out.find? (fun c => c.id == chunk) with
  | some c => if c.gone then s.putChunk c else s
  | none => s

/-! ### Sessions (R255, R282) -/

/-- Running COLLs that exchange data with a node, with their ops and the node's rank. -/
def State.collsWith (s : State) (node : Nat) (which : CollRun → Bool) : List (Op × CollRun × Nat) :=
  s.net.colls.filterMap (fun r =>
    match s.op r.op, r.g.rankOf node with
    | some o, some q => if which r && r.partners.contains q then some (o, r, q) else none
    | _, _ => none)

/-- Ends COLLs because of a node. -/
def State.failPartners (s : State) (status : Nat) : List (Op × CollRun × Nat) → State
  | [] => s
  | x :: xs => (s.failPartner x.1 x.2.1 x.2.2 status).failPartners status xs

/-- R255: a label that opens a session with a node: it names the node as valid, under this protocol. -/
def opensSession (node : Nat) (label : List Byte) : Bool :=
  match validLabel (some label) with
  | some l => bit (labelNode l) 31 && labelNode l % 2 ^ 31 == node && labelMajor l == 1
  | none => false

/-- R255: a restore from a node in dead-letter ends with LINK_IDENTITY. -/
def State.failRestore (s : State) (node : Nat) : State :=
  match s.proof.restore with
  | some x =>
    if x.1 = node then ({ s with proof := { s.proof with restore := none } }).complete x.2.1 x.2.2 0x42 false 0 else s
  | none => s

/-- The outcome of R255 for a node whose label has arrived. -/
def State.meetPeer (s : State) (node : Nat) (label : List Byte) : State :=
  if opensSession node label then
    let x : Session :=
      { isOpen := true, dead := false, numerics := labelNumerics label, label := label, rate := 2 ^ 32, lastCut := none }
    let s1 := s.setSession node x
    let s2 := if x.numerics = 1 then s1 else s1.failPartners 0x43 (s1.collsWith node (fun r => r.d.reduces))
    s2.putChunks (s2.waitingChunks (some node))
  else
    let old := s.session node
    let s1 := s.setSession node { Session.none with dead := true, label := label }
    let s2 := if old.dead then s1 else s1.linkEvent 6 node (padTo 20 label)
    (s2.failPartners 0x42 (s2.collsWith node (fun _ => true))).failRestore node

/-- HELLO. -/
def hello (a : Arrival) (h : NptHeader) (label : List Byte) (s : State) : State :=
  s.receives a h (fun x => (x.sendHello (chunkSender h) 5).meetPeer (chunkSender h) label)

/-- HELLO_ACK. -/
def helloAck (a : Arrival) (h : NptHeader) (label : List Byte) (s : State) : State :=
  s.receives a h (fun x => x.meetPeer (chunkSender h) label)

def execNptData (a : Arrival) (h : NptHeader) (chunk : List Byte) (ce : Nat) (v : UnitVote) (s : State) : Out :=
  whenReady s (nptData a h chunk ce v)
def execNptAck (k : Packet) (s : State) : Out := whenReady s (nptAck k.arrival k.header)
def execNptNack (k : Packet) (words : List (BitVec 16)) (s : State) : Out := whenReady s (nptNack k.arrival k.header words)
def execHello (k : Packet) (label : List Byte) (s : State) : Out := whenReady s (hello k.arrival k.header label)
def execHelloAck (k : Packet) (label : List Byte) (s : State) : Out := whenReady s (helloAck k.arrival k.header label)
def execNptNackTimer (h : NptHeader) (missing : List (BitVec 16)) (s : State) : Out := whenReady s (nptNackTimer h missing)
def execNptResendTimeout (chunk : Nat) (s : State) : Out := whenReady s (nptResendTimeout chunk)
def execNptRateIncrease (node : BitVec 17) (s : State) : Out := whenReady s (nptRateIncrease node)

end Sys2Proof.Machine
end

