-- ==== Sys2Proof/Machine/Program.lean ====
section
/-! DEFINITION. OP_PROGRAM, taking op descriptors into the ready window (R52, R55, R198, R436), and BRANCH (R162 to
R164). -/

namespace Sys2Proof.Machine

/-! ### OP_PROGRAM (R29, R62, R97, R131, R198) -/

/-- The program a command starts, with what it latches. -/
def State.newProgram (s : State) (ring cmd first : Nat) : Program :=
  { ring := ring, cmd := cmd, root := s.mem.ptRoot, check := s.plate.checkDefault, duet := s.plate.duet
    seed := s.numerics.seed, histLen := s.numerics.histLen, marginExp := s.numerics.marginExp
    flushLog2 := s.numerics.flushLog2, runLength := s.numerics.runLength, next := some first, stopped := false
    completed := 0, failure := none, saturated := none, best := 0, bestTag := 0, proofFailed := false }

/-- OP_PROGRAM. -/
def opProgram (ring : Fin 64) (s : State) : Option State :=
  match s.startCmd ring.val cmdOpProgram with
  | none => none
  | some (c, s1) =>
    let w := c.w 0x10
    if c.headerBad || devBad w || !bit w 63 || w % 128 != 0 || c.restBad 0x18 then some (s1.badCmd ring.val c)
    else if s1.stepFailed then some (s1.complete ring.val c.id 0x61 false 0)
    else
      some { s1 with seq := { s1.seq with
        programs := s1.seq.programs ++ [s1.newProgram ring.val c.id (w % 2 ^ 48)]
        branches := s1.seq.branches.set none ring.val none } }

def execOpProgram (ring : Fin 64) (s : State) : Out := whenReadyOr s (opProgram ring)

/-! ### OP_TAKE (R436) -/

/-- NEXT of an op. -/
def Op.next (o : Op) : Nat := bits (o.w 8) 47 0

/-- Where the list goes on after an op is taken: a BRANCH decides later, and an op whose NEXT is misaligned fails. -/
def Op.follow (o : Op) : Option Nat :=
  if o.kind = opBranch ∨ o.next % 128 ≠ 0 ∨ o.next = 0 then none else some o.next

/-- R54: a MATMUL's own checks, made as it is taken. -/
def takeChecks (p : Program) (o : Op) : Nat := if o.kind = opMatmul then matTakeCheck o p.check else 0

/-- Programs are drawn from oldest first (R200). -/
def State.drawsFrom (s : State) (ring : Nat) : Bool :=
  ((s.seq.programs.find? (fun p => p.next.isSome && !p.stopped)).map (·.ring)) == some ring

/-- OP_TAKE: the next descriptor of the oldest program that has one enters the ready window of 16. -/
def opTake (ring : Fin 64) (s : State) : Option State :=
  match s.program ring.val with
  | none => none
  | some p =>
    match p.next with
    | none => none
    | some a =>
      if p.stopped || decide (16 ≤ s.seq.window.length) || !s.drawsFrom ring.val then none
      else
        match ({ s with actor := some (p.cmd, 0) } : State).readVirt p.root allowOps a 128 with
        | (s1, .error e) =>
          some (s1.stopList p e.status 0 (match e with | .addr _ => some (BitVec.ofNat 64 (virtDetail a)) | _ => none))
        | (s0, .ok bs) =>
          let m := s0.meetHidden 7 a
          let s1 := m.1
          if m.2 then some (s1.stopList p 0x31 0 none)
          else
          let kind := field bs 0 1
          let f := s1.fresh
          let o : Op := { id := f.1, ring := ring.val, kind := kind, addr := a, desc := bs, phase := .taken, step := none
                          issueTime := 0, sum := 0, begun := false, ending := none }
          if kind = 0 ∨ 8 < kind then some (s1.stopList p 0x20 (BitVec.ofNat 32 o.tag) none)
          else
            let s2 : State := { f.2 with seq := { f.2.seq with window := f.2.seq.window ++ [o] } }
            let s3 := s2.setProgram { p with next := o.follow }
            let st := takeChecks p o
            if st = 0 then some s3
            else
              let i := s3.issue o
              i.1.finishOp i.2 st none (i.1.recordOf i.2 s3.clock.time)

def execOpTake (ring : Fin 64) (s : State) : Out := whenPeersAnswer s (opTake ring)

/-! ### BRANCH (R162 to R164) -/

def Op.branchDie (o : Op) : Nat := bits (o.w 0) 12 11
def Op.branchReg (o : Op) : Nat := bits (o.w 0) 16 13
def Op.branchCond (o : Op) : Nat := bits (o.w 0) 20 17
def Op.branchView (o : Op) : Nat := bits (o.w 0) 22 21
def Op.branchTaken (o : Op) : Nat := bits (o.w 0x10) 47 0
def Op.branchThreshold (o : Op) : Nat := bits (o.w 0x18) 31 0

/-- R5, R162, R436. -/
def branchBad (o : Op) : Bool :=
  o.shortBad || o.branchDie == 0 || o.branchDie == 3 || decide (7 < o.branchCond) || o.branchView == 3 ||
    bits (o.w 0) 31 23 != 0 || bits (o.w 0x10) 63 48 != 0 || o.branchTaken % 128 != 0 || bits (o.w 0x18) 63 32 != 0

/-- R163: a comparison of values in the order of the COND codes; with a NaN only NE is true. -/
def condOf (cond : Nat) (a b : Val) : Bool :=
  match cond with
  | 0 => a.lt b
  | 1 => a.le b
  | 2 => b.lt a
  | 3 => b.le a
  | 4 => a.eqv b
  | 5 => !a.eqv b
  | 6 => !a.isFinite
  | _ => true

/-- R135, R163: a summary register, or the threshold, as a view reads it. -/
def viewOf (view : Nat) (q : Nat) : Val :=
  match view with
  | 0 => decodeFloat fmtA24 (q % 2 ^ 24)
  | 1 => Val.ofInt (sintOf 32 q)
  | _ => Val.ofInt (q / 2 ^ 32 : Nat)

/-- Whether a BRANCH that read `q` is taken. -/
def Op.taken (o : Op) (q : Nat) : Bool :=
  let t := if o.branchView = 2 then Val.ofInt (o.branchThreshold : Nat) else viewOf o.branchView o.branchThreshold
  condOf o.branchCond (viewOf o.branchView q) t

/-- BRANCH: issues and reads its summary register. -/
def branch (op : Nat) (s : State) : Option State :=
  match s.op op with
  | none => none
  | some o =>
    if o.kind != opBranch || !s.opFree o then none
    else if branchBad o then s.badOp o
    else
      let q := (s.engine (o.branchDie - 1)).q.get o.branchReg
      some (s.issue { o with sum := q.toNat }).1

/-- BRANCH_DECISION: the program resumes at TAKEN or NEXT. -/
def branchDecision (op : Nat) (s : State) : Option State :=
  match s.op op with
  | none => none
  | some o =>
    if o.kind != opBranch || o.phase != .issued then none
    else
      let yes := o.taken o.sum
      let a := if yes then o.branchTaken else o.next
      let s1 : State := match s.program o.ring with
        | some p => if p.stopped then s else s.setProgram { p with next := if a = 0 then none else some a }
        | none => s
      let s2 : State := { s1 with seq := { s1.seq with branches := s1.seq.branches.set none o.ring (some o.issueTime) } }
      s2.finishOp o 0 none (fun st => shortRecord st (bitOf yes) o.tag o.sum s.clock.time)

/-- BRANCH_TIMEOUT: no decision within 10 ms. -/
def branchTimeout (op : Nat) (s : State) : Option State :=
  match s.op op with
  | none => none
  | some o =>
    if o.kind != opBranch || o.phase != .issued then none
    else s.finishOp o 0x70 none (s.recordOf o s.clock.time)

def execBranch (op : Nat) (s : State) : Out := whenOp s op (branch op)
def execBranchDecision (op : Nat) (s : State) : Out := whenOp s op (branchDecision op)
def execBranchTimeout (op : Nat) (s : State) : Out := whenOp s op (branchTimeout op)

end Sys2Proof.Machine
end

