-- ==== Sys2Proof/Machine/Rings.lean ====
section
/-! DEFINITION. The host side (R186 to R195, R206 to R212, R218): the doorbell page, fetching, rings, completion and
event queues, MSI-X, and the BAR2 window. -/

namespace Sys2Proof.Machine

/-! ### The doorbell page (R189 to R192) -/

/-- Starts a poll, unless one is in progress or the function may not issue requests. -/
def State.startPoll (s : State) : State :=
  if s.host.pageEnable && s.mayRequest && !s.host.polling then
    ({ s with host := { s.host with polling := true } }).send (.hostRead s.host.pageAddr.toNat 1024)
  else s

/-- R189: the low half of a doorbell word whose high half is its complement. -/
def doorbellWord (w : Nat) : Option Nat :=
  if w / 2 ^ 32 = 2 ^ 32 - 1 - w % 2 ^ 32 then some (w % 2 ^ 32) else none

/-- R222: RING_STOPPED. -/
def State.stopRing (s : State) (n cause producer : Nat) : State :=
  (s.setRing n { s.ring n with stopped := true, cause := cause }).raise 10 2 s.currentStep 0 n
    (leBytes 4 cause ++ leBytes 4 producer)

/-- R192: what one ring's doorbell word does. -/
def State.ringBell (s : State) (page : List Byte) (n : Nat) : State :=
  let r := s.ring n
  match doorbellWord (word64 page (8 * n)) with
  | none => s
  | some p =>
    if !r.enable || r.stopped then s
    else if (p + 2 ^ 32 - r.fetched) % 2 ^ 32 ≤ 2 ^ r.log2 then s.setRing n { r with producer := p }
    else s.stopRing n 1 p

def State.ringBells (s : State) (page : List Byte) : List Nat → State
  | [] => s
  | n :: ns => (s.ringBell page n).ringBells page ns

/-- R222: the code of a failed host read. -/
def hostFailCode : HostFail → Nat
  | .unsupportedRequest => 1
  | .completerAbort => 2
  | .poisoned => 3
  | .timeout => 4

/-- R190: a failed poll; DOORBELL_FAULT from the sixteenth on, at most one per second. -/
def State.pollFailed (s : State) (how : HostFail) : State :=
  let n := satCount 32 (s.host.failedPolls + 1)
  let s1 : State := { s with host := { s.host with failedPolls := n } }
  let due := decide (16 ≤ n) && !(s.host.faultTime.any (fun t => decide (s.clock.time < t + 1000000000)))
  if due then
    ({ s1 with host := { s1.host with faultTime := some s.clock.time } }).raise 10 5 s.currentStep 0 0
      (leBytes 4 n ++ leBytes 1 (hostFailCode how))
  else s1

/-- DOORBELL_POLL_DONE. -/
def doorbellPollDone (r : HostRead) (s : State) : State :=
  if !s.host.polling then s
  else
    let s1 : State := { s with host := { s.host with polling := false } }
    match r with
    | .failed how => (s1.noteFail how).pollFailed how
    | .data page =>
      let s2 : State := { s1 with host := { s1.host with failedPolls := 0, faultTime := none } }
      let s3 := (s2.ringBells page (List.range 64)).settleAllReserved
      match doorbellWord (word64 page 0x200) with
      | none => s3
      | some c => State.drainEvents drainFuel { s3 with host := { s3.host with eqConsumed := c } }

def execDoorbellPoll (s : State) : Out := whenReady s State.startPoll

/-- NUDGE (R191): the value written is ignored. -/
def nudge (_v : BitVec 32) (s : State) : State := s.startPoll

def execDoorbellPollDone (r : HostRead) (s : State) : Out := whenReady s (doorbellPollDone r)
def execNudge (v : BitVec 32) (s : State) : Out := whenReady s (nudge v)

/-! ### Fetching (R192 to R194, R11, R197) -/

/-- R11: types refused once an in-package link has failed. -/
def heavyType (t : Nat) : Bool := [cmdOpProgram, cmdDmaCopy, cmdCheckpoint].contains t

/-- COMMAND_FETCH: the next descriptor of a ring with room. A reserved CMD_TYPE completes when its turn comes (log 20), the types
that a failed link refuses as soon as they are fetched; so does one whose descriptor meets poison in the control cores' memory
(R307). -/
def commandFetch (n : Fin 64) (r : HostRead) (s : State) : State :=
  let q := s.ring n.val
  if !s.mayFetch q then s
  else
    let s1 := s.send (.hostRead (q.base.toNat + 64 * (q.fetched % 2 ^ q.log2)) 64)
    match r with
    | .failed how => (s1.noteFail how).stopRing n.val 2 q.producer
    | .data bs =>
      let f := s1.fresh
      let c : FetchedCmd := { id := f.1, bytes := padTo 64 bs, seq := q.fetched, fetched := s.clock.aclk, started := false, due := none }
      let s2 := f.2.setRing n.val { q with fetched := (q.fetched + 1) % 2 ^ 32, cmds := q.cmds ++ [c] }
      let m := s2.meetHidden 0x0A c.id
      let s3 := if m.2 then m.1.complete n.val c.id 0x31 false 0
        else match m.1.life.failedLinks with
          | l :: _ => if heavyType c.typ then m.1.complete n.val c.id 0x60 false l else m.1
          | [] => m.1
      s3.settleAllReserved

def execCommandFetch (ring : Fin 64) (r : HostRead) (s : State) : Out := whenReady s (commandFetch ring r)

/-! ### Rings and queues (R195, R211, R212, R218) -/

/-- Whether an enabled ring sends to queue `q`, or a command of such a ring is in flight. -/
def State.queueUsed (s : State) (q : Nat) : Bool :=
  s.host.rings.any (fun p => p.2.cq == q && (p.2.enable || !p.2.cmds.isEmpty))

/-- RING_ENABLE: a write to SQ_SIZE. -/
def ringEnable (n : Fin 64) (a : RegAccess) (s : State) : State :=
  let r := s.ring n.val
  let v := accessValue a (sqSizeReg r)
  let on := bit v 16
  let fixed := r.enable || !r.cmds.isEmpty
  let r1 : Ring := if fixed then r else { r with log2 := bits v 4 0, cq := bits v 13 8 }
  if r1.log2 < 4 ∨ 16 < r1.log2 then s
  else if on && !(s.cq r1.cq).enable then s
  else if on && !r.enable then
    s.setRing n.val { r1 with enable := true, fetched := 0, producer := 0, stopped := false, cause := 0 }
  else s.setRing n.val { r1 with enable := on }

/-- R212: sends the vector of a queue whose records reached its count. -/
def State.moderate (s : State) (q : Nat) : State :=
  let c := s.cq q
  if c.irqEnable && decide (max 1 c.irqCount ≤ c.uncovered) then
    (s.setCq q { c with uncovered := 0 }).fireVector q
  else s

/-- CQ_ENABLE: a write to CQ_SIZE. -/
def cqEnable (q : Fin 64) (a : RegAccess) (s : State) : State :=
  let c := s.cq q.val
  let v := accessValue a (cqSizeReg c)
  let on := bit v 8
  let c1 : CQ := { c with irqEnable := bit v 9, irqCount := bits v 23 16, irqTimeUs := bits v 47 32 }
  if c.enable then
    if !on && s.queueUsed q.val then s
    else (s.setCq q.val { c1 with enable := on }).moderate q.val
  else
    let k := bits v 4 0
    if k < 4 ∨ 16 < k then s
    else if on then s.setCq q.val { c1 with log2 := k, enable := true, written := 0, uncovered := 0 }
    else s.setCq q.val { c1 with log2 := k }

/-- CQ_IRQ_TIMER (R212). -/
def cqIrqTimer (q : Fin 64) (s : State) : State :=
  let c := s.cq q.val
  if c.irqEnable && c.irqTimeUs != 0 && c.uncovered != 0 then
    (s.setCq q.val { c with uncovered := 0 }).fireVector q.val
  else s

/-- EVENT_QUEUE_ENABLE: a write to EVENT_QUEUE_BASE. -/
def eventQueueEnable (a : RegAccess) (s : State) : State :=
  let h := s.host
  let v := accessValue a (bitOf h.eqEnable + h.eqBase.toNat)
  if h.eqEnable then { s with host := { h with eqEnable := bit v 0 } }
  else
    let s1 : State := { s with host := { h with eqBase := BitVec.ofNat 64 (at_ (bits v 63 12) 12) } }
    if bit v 0 then
      State.drainEvents drainFuel { s1 with host := { s1.host with eqEnable := true, eqWritten := 0, eqConsumed := 0 } }
    else s1

/-- MSIX_UNMASK (R186): one vector, or the function with MSI-X enabled. -/
def msixUnmask (v : Option (Fin 128)) (s : State) : State :=
  match v with
  | some i =>
    let e := s.host.msix.get MsixEntry.reset i.val
    ({ s with host := { s.host with msix := s.host.msix.set MsixEntry.reset i.val { e with mask := false } } }).sendPending
      [i.val]
  | none =>
    ({ s with host := { s.host with msixFnMask := false, msixEnable := true } }).sendPending (List.range 128)

def execRingEnable (ring : Fin 64) (a : RegAccess) (s : State) : Out := whenReady s (ringEnable ring a)
def execCqEnable (q : Fin 64) (a : RegAccess) (s : State) : Out := whenReady s (cqEnable q a)
def execCqIrqTimer (q : Fin 64) (s : State) : Out := whenReady s (cqIrqTimer q)
def execEventQueueEnable (a : RegAccess) (s : State) : Out := whenReady s (eventQueueEnable a)
def execMsixUnmask (v : Option (Fin 128)) (s : State) : Out := done s (s.onlyIf s.functionRuns (msixUnmask v))

/-! ### BAR2 (R187, R188, R307, R328) -/

/-- BAR2_FAULT, at most one per millisecond. -/
def State.bar2Fault (s : State) (addr : Nat) : State :=
  if s.host.bar2Fault.any (fun t => decide (s.clock.time < t + 1000000)) then s
  else
    ({ s with host := { s.host with bar2Fault := some s.clock.time } }).raise 10 4 s.currentStep 0 0 (leBytes 8 addr)

/-- An address of the module's own tray window is no target of BAR2. -/
def State.bar2Target (s : State) (a : Nat) : Bool := (s.ownWindow a).isNone

/-! ### Outputs in flight (R216) -/

/-- Outputs of an op that has issued and not completed: whether the address is virtual, address, bytes. -/
def State.opOutputs (s : State) (o : Op) : List (Bool × Nat × Nat) :=
  if o.phase != .issued then []
  else if o.kind = opMatmul then
    (matDesc o).areasOut.flatMap (fun a => (List.range a.rows).map (fun r => (true, a.base + r * a.stride, a.len)))
  else if o.kind = opVec then (s.vecRuns o.id).flatMap (fun r => r.wrote.map (fun w => (true, w.1, w.2)))
  else if o.kind = opMove then
    if o.moveDstMember = 7 then
      (List.range o.rows).map (fun r => (o.moveDstVirt, o.moveDst + r * o.dstStride, o.rowLen))
    else []
  else if o.kind = opColl then
    ((s.collRun o.id).map (fun r => r.ranges.map (fun w => (true, w.1, w.2)))).getD []
  else []

/-- Outputs of a command that has started and not completed. -/
def FetchedCmd.outputs (c : FetchedCmd) : List (Bool × Nat × Nat) :=
  let dev := fun (w n : Nat) => [(bit w 63, w % 2 ^ 48, n)]
  if !c.started then []
  else if c.typ = cmdDmaCopy then
    (if bit (c.w 0x28) 0 then [] else dev (c.w 0x18) (8 * bits (c.w 0x20) 39 0))
  else if c.typ = cmdSnapshot then dev (c.w 0x10) (c.w 0x18)
  else if c.typ = cmdCounterRead then dev (c.w 0x10) 0x10000
  else []

/-- Module-local ranges that hold outputs whose record is not valid yet. -/
def State.pendingOutputs (s : State) : List (Nat × Nat) :=
  let lie := fun (root : Word) (w : Bool × Nat × Nat) =>
    if w.1 then (s.lies root (pageFuel w.2.2) w.2.1 w.2.2).map (fun p => p.2) else [(w.2.1, w.2.2)]
  s.seq.window.flatMap (fun o => (s.opOutputs o).flatMap (lie (s.rootOf o.ring))) ++
    s.commands.flatMap (fun c => c.outputs.flatMap (lie s.mem.ptRoot))

/-- R216: what a read of `bs` at `a` returns: a byte of such an output is a free value. -/
def State.unsettled (s : State) (a : Nat) (bs : List Byte) : State × List Byte :=
  let rs := s.pendingOutputs.filter (fun r => decide (r.1 < a + bs.length) && decide (a < r.1 + r.2))
  if rs.isEmpty then (s, bs)
  else
    let g := s.draw
    (g.2, (bs.zip (List.range bs.length)).map (fun p =>
      if rs.any (fun r => decide (r.1 ≤ a + p.2) && decide (a + p.2 < r.1 + r.2)) then Config.freeBits 8 g.1 (a + p.2) else p.1))

/-- BAR2_READ. -/
def bar2Read (off n : Nat) (s : State) : State :=
  if 2 ^ 36 < off + n then s
  else
    let a := s.host.bar2Base.toNat + off
    let ones := List.replicate n (255 : Byte)
    if !s.bar2Target a then (s.bar2Fault a).send (.barData ones)
    else
      match s.readPhys allowOwn a n with
      | (s1, .ok bs) => (s1.unsettled a bs).1.send (.barData (s1.unsettled a bs).2)
      | (s1, .error (.bad b)) => s1.send (.barPoison b)
      | (s1, .error e) => (s1.bar2Fault e.detail).send (.barData ones)

/-- BAR2_WRITE. -/
def bar2Write (off : Nat) (bytes : List Byte) (s : State) : State :=
  if 2 ^ 36 < off + bytes.length then s
  else
    let a := s.host.bar2Base.toNat + off
    if !s.bar2Target a then s.bar2Fault a
    else
      match s.writePhys allowOwn a bytes with
      | (s1, .ok _) => s1
      | (s1, .error e) => s1.bar2Fault e.detail

def execBar2Read (off n : Nat) (s : State) : Out := whenReady s (bar2Read off n)
def execBar2Write (off : Nat) (bytes : List Byte) (s : State) : Out := whenReady s (bar2Write off bytes)

end Sys2Proof.Machine
end

