-- ==== Sys2Proof/Machine/Test.lean ====
section
/-! DEFINITION. The TEST block's PCIe loop-back and HBM test (R409, R410, R412), and FRANK_TIMEOUT (R356). -/

namespace Sys2Proof.Machine

/-- PCIE_LOOP_WRITE (R409): a loop starts when none is active. -/
def pcieLoopWrite (a : RegAccess) (s : State) : State :=
  let v := accessValue a (s.pcie.loopMode.toNat + at_ s.pcie.loopMs.toNat 4)
  let m := bits v 1 0
  let t := bits v 19 4
  if m ≠ 0 ∧ t = 0 then s
  else
    let begins := m != 0 && !s.pcie.loopActive
    { s with pcie := { s.pcie with
        loopMode := BitVec.ofNat 2 m, loopMs := BitVec.ofNat 16 t
        loopActive := s.pcie.loopActive || begins, linkUp := s.pcie.linkUp && !begins } }

/-- PCIE_LOOP_END (R409): the results stand; the link then retrains (PCIE_LINK_TRAINING). -/
def pcieLoopEnd (errors : BitVec 32) (lanes : BitVec 16) (s : State) : State :=
  if s.pcie.loopActive then
    { s with pcie := { s.pcie with loopActive := false, loopErrors := errors, loopLanes := lanes } }
  else s

/-- R410: the types whose commands keep an HBM test from starting. -/
def hbmTestBars (t : Nat) : Bool := [cmdOpProgram, cmdDmaCopy, cmdSnapshot, cmdCheckpoint, cmdFieldTest].contains t

/-- HBM_TEST_START (R410): a START that finds a test running is refused too (log 43). -/
def hbmTestStart (a : RegAccess) (s : State) : State :=
  let v := accessValue a (s.hbmTest.stack + at_ s.hbmTest.mode 5)
  let st := bits v 4 0
  let m := bits v 6 5
  let start := bit v 7
  if 20 ≤ st ∨ (start ∧ (m = 0 ∨ m = 3)) then s
  else if !start then { s with hbmTest := { s.hbmTest with stack := st, mode := m } }
  else if s.openStep.isSome || s.commands.any (fun c => hbmTestBars c.typ) || s.hbmTest.busy then
    { s with hbmTest := { s.hbmTest with refused := true } }
  else { s with hbmTest := { s.hbmTest with stack := st, mode := m, busy := true, refused := false } }

/-- HBM_TEST_DONE: the results, and the whole stack written with zeros and valid check bits. -/
def hbmTestDone (pass : Bool) (fails firstRow : BitVec 32) (s : State) : State :=
  if s.hbmTest.busy then
    let other := fun (u : Nat) => !(memoryId (u * 4096) == 1 && hbmStack (u * 4096) == s.hbmTest.stack)
    { s with hbmTest := { s.hbmTest with busy := false, pass := pass, fails := fails, firstRow := firstRow }
             mem := s.mem.zeroed 4096 other }
  else s

/-- R282, R283: what a COLL that ends for want of a frank tells the members; other ops tell nobody (log 63). -/
def State.frankNotices (s : State) (o : Op) : State :=
  if o.kind = opColl then
    match s.collPlan o with
    | some r => ((s.abandons r 0x50 r.partners).closeColl r.d.collId r.g.epoch 0x50 none).countColl
    | none => s.countColl
  else s

/-- FRANK_TIMEOUT (R356): the request of a run, denied and TIMEOUT_MS old, is withdrawn, and its op ends with no other trace. -/
def frankTimeout (req : Nat) (s : State) : Option State :=
  match s.power.requests.find? (fun f => f.id == req) with
  | none => none
  | some f =>
    if f.use_ != .run || !f.denied || !decide (f.since + 1000000 * f.timeoutMs ≤ s.clock.time) then none
    else
      match s.op f.op with
      | none => none
      | some o =>
        let s1 := (((s.forgetFranks o.id).dropOpening o.id).clearOp o.id).frankNotices o
        s1.finishOp o 0x50 none (s1.recordOf o s.clock.time)

def execPcieLoopWrite (a : RegAccess) (s : State) : Out := whenReady s (pcieLoopWrite a)
def execPcieLoopEnd (errors : BitVec 32) (lanes : BitVec 16) (s : State) : Out := whenReady s (pcieLoopEnd errors lanes)
def execHbmTestStart (a : RegAccess) (s : State) : Out := whenReady s (hbmTestStart a)
def execHbmTestDone (pass : Bool) (fails firstRow : BitVec 32) (s : State) : Out :=
  whenReady s (hbmTestDone pass fails firstRow)
def execFrankTimeout (req : Nat) (s : State) : Out := whenReadyOr s (frankTimeout req)

end Sys2Proof.Machine
end

