-- ==== Sys2Proof/Machine/VecElem.lean ====
section
/-! DEFINITION. Elements of vector registers and predicates (R132, R133, R140, R143): reading, masking, writing. -/

namespace Sys2Proof.Machine

/-! ### Reading -/

/-- Bit patterns of elements 0 .. count−1 of a register or pair. -/
def Engine.raw (e : Engine) (t n count : Nat) : List Nat :=
  let lo := e.v.read (n * 65536) count
  if isWide t then List.zipWith (fun a b => a.toNat + 65536 * b.toNat) lo (e.v.read ((n + 1) * 65536) count)
  else lo.map (·.toNat)

/-- The bit pattern of one element. -/
def Engine.rawAt (e : Engine) (t n j : Nat) : Nat :=
  let lo := (e.v.get (n * 65536 + j)).toNat
  if isWide t then lo + 65536 * (e.v.get ((n + 1) * 65536 + j)).toNat else lo

/-- An element as a value of a float type, and of an integer type. -/
abbrev Lane := Val × Int

def laneOf (t x : Nat) : Lane :=
  if isInt t then (.zero, sintOf (etBits t) x) else (decodeFloat (etFloat t) x, 0)

/-- The real value of an element. -/
def laneVal (t : Nat) (l : Lane) : Val := if isInt t then Val.ofInt l.2 else l.1

/-- VALUE of a summary register as BSRC = 2 reads it (R135). -/
def laneOfQ (t q : Nat) : Lane :=
  if isInt t then (.zero, sintOf 32 q) else (decodeFloat fmtA24 (q % 2 ^ 24), 0)

/-- The second source, as BSRC selects (R140). -/
def Engine.sourceB (e : Engine) (w : Word) : List Lane :=
  let t := wordEtype w
  let n := wordCount w
  match wordBsrc w with
  | 0 => (e.raw t (wordVB w) n).map (laneOf t)
  | 1 => List.replicate n (laneOf t (e.sreg (wordVB w % 32) % 2 ^ etBits t))
  | _ => List.replicate n (laneOfQ t (e.q.get (wordVB w % 16)).toNat)

/-- Predicate bits 0 .. count−1. -/
def Engine.preds (e : Engine) (p count : Nat) : List Bool := (e.p.read (p * 65536) count).map (fun b => b == 1)

/-- R143: which elements a word writes. -/
def Engine.mask (e : Engine) (w : Word) : List Bool :=
  if wordPen w then (e.preds (wordPred w) (wordCount w)).map (· != wordPneg w)
  else List.replicate (wordCount w) true

/-! ### Writing -/

/-- R143: what an element becomes: its new value, 0, or its old value (none). -/
def masked (pzero : Bool) : List Bool → List Nat → List (Option Nat)
  | m :: ms, x :: xs => (if m then some x else if pzero then some 0 else none) :: masked pzero ms xs
  | _, _ => []

/-- Writes cells from key `k` on, leaving some. -/
def putCells {w : Nat} (st : Store w) (k : Nat) : List (Option (BitVec w)) → Store w
  | [] => st
  | none :: xs => putCells st (k + 1) xs
  | some x :: xs => putCells (st.set k x) (k + 1) xs

/-- R307: 64-byte blocks from `base` on whose cells, `per` to a block, are all written lose their poison. -/
def State.clearWhole (s : State) (per base : Nat) : Nat → List Bool → State
  | 0, _ => s
  | k + 1, fs =>
    let c := fs.take per
    (if c.length = per ∧ c.all id then s.clearPoison base 64 else s).clearWhole per (base + 64) k (fs.drop per)

/-- R133: bits [31:24] of an A24 element are written as 0. -/
def cleanElem (t x : Nat) : Nat := if t = etA24 then x % 2 ^ 24 else x

/-- Writes one vector register. -/
def State.putV (s : State) (die n : Nat) (xs : List (Option Nat)) : State :=
  let e := s.engine die
  let s1 := s.setEngine die { e with v := putCells e.v (n * 65536) (xs.map (·.map (BitVec.ofNat 16))) }
  s1.clearWhole 32 (hiddenAddr 4 die (n * 131072)) (xs.length / 32) (xs.map (·.isSome))

/-- Writes elements of a register or pair. -/
def State.putElems (s : State) (die t n : Nat) (xs : List (Option Nat)) : State :=
  if isWide t then (s.putV die n xs).putV die (n + 1) (xs.map (·.map (fun x => cleanElem t x / 65536)))
  else s.putV die n xs

/-- Writes predicate bits. -/
def State.putPred (s : State) (die p : Nat) (xs : List (Option Bool)) : State :=
  let e := s.engine die
  let s1 := s.setEngine die { e with p := putCells e.p (p * 65536) (xs.map (·.map (fun b => BitVec.ofNat 1 (bitOf b)))) }
  s1.clearWhole 512 (hiddenAddr 4 die (0x800000 + p * 8192)) (xs.length / 512) (xs.map (·.isSome))

/-- Writes a summary register: VALUE and AUX (R135). -/
def State.putQ (s : State) (die n value aux : Nat) : State :=
  let e := s.engine die
  s.setEngine die { e with q := e.q.set n (BitVec.ofNat 64 (value % 2 ^ 32 + aux % 2 ^ 32 * 2 ^ 32)) }

/-- Applies a function of the element number to each element. -/
def withIndex {α β : Type} (f : Nat → α → β) : Nat → List α → List β
  | _, [] => []
  | j, x :: xs => f j x :: withIndex f (j + 1) xs

/-- An element whose value the manual does not state, a function of the word's inputs (R3, R172, log 50). -/
def freeElem (op t : Nat) (inputs : List Nat) : Nat := cleanElem t ((Config.wordResult op t inputs).toNat % 2 ^ etBits t)

/-- What a word reads for element `j`: its sources as its opcode and BSRC select them. -/
def Engine.inputs (e : Engine) (w : Word) (j : Nat) : List Nat :=
  let op := wordOp w
  let t := wordEtype w
  (if opSrcA op then [e.rawAt t (wordVA w) j] else []) ++
    (if opSrcB op then
      [match wordBsrc w with
       | 0 => e.rawAt t (wordVB w) j
       | 1 => e.sreg (wordVB w % 32)
       | _ => (e.q.get (wordVB w % 16)).toNat]
     else []) ++
    (if opSrcC op then [e.rawAt t (wordVC w) j] else [])

/-- Fills in unstated elements. -/
def fill (w : Word) (inputs : Nat → List Nat) (xs : List (Option Nat)) : List Nat :=
  withIndex (fun j x => x.getD (freeElem (wordOp w) (wordEtype w) (inputs j))) 0 xs

/-- Writes the results of a word, some of them unstated, under its mask. -/
def State.writeElems (s : State) (die : Nat) (w : Word) (inputs : Nat → List Nat) (xs : List (Option Nat)) : State :=
  s.putElems die (wordEtype w) (wordVD w) (masked (wordPzero w) ((s.engine die).mask w) (fill w inputs xs))

/-! ### Rounding -/

/-- RND of an arithmetic word: nearest or toward zero. -/
def rndOf (w : Word) : Rnd := if wordRnd w = 2 then .zero else .nearest

/-- Least and greatest value of an integer type. -/
def etMin (t : Nat) : Int := -(2 ^ (etBits t - 1))
def etMax (t : Nat) : Int := 2 ^ (etBits t - 1) - 1

/-- R145: saturates to the type's range. -/
def satInt (t : Nat) (x : Int) : Int := clampInt (etMin t) (etMax t) x

/-- An integer that lies in the type's range. -/
def inRange (t : Nat) (x : Int) : Option Int := if etMin t ≤ x ∧ x ≤ etMax t then some x else none

/-- R146: a real value in a type: rounded once, with overflow to infinity, or saturated for an integer type. -/
def convertTo (t : Nat) (rm : Rnd) (v : Val) : Nat :=
  if isInt t then
    match v with
    | .nan => 0
    | .inf neg => natOfInt (etBits t) (if neg then etMin t else etMax t)
    | .num neg n d e => natOfInt (etBits t) (satInt t (roundInt rm neg n d e))
  else roundFloat (etFloat t) rm v

/-! ### Timing of register words (R167) -/

/-- e16 or e32 of a type. -/
def wordUnits (w : Word) (t : Nat) : Nat := ceilDiv (wordCount w) (if isWide t then 1024 else 2048)

/-- The registers a word reads, by the shape of its opcode. -/
def sourceNames (w : Word) : List (Nat × Nat) :=
  let op := wordOp w
  let t := wordEtype w
  (if opSrcA op then nameReg t (wordVA w) else []) ++
    (if opSrcB op then
      (match wordBsrc w with
       | 0 => nameReg t (wordVB w)
       | 1 => [nameS (wordVB w % 32)]
       | _ => [nameQ (wordVB w % 16)])
     else []) ++
    (if opSrcC op then nameReg t (wordVC w) else []) ++
    (if wordPen w then [nameP (wordPred w)] else [])

/-- Time of a word that writes VD: `k` times its units. -/
def regTime (k lat : Nat) : Nat → VecRun → Word → State → WordTime := fun _ _ w _ =>
  (k * wordUnits w (wordEtype w), lat, sourceNames w, nameReg (wordEtype w) (wordVD w))

/-- Time of a word that writes predicate VD[2:0]. -/
def predTime (more : Word → List (Nat × Nat)) : Nat → VecRun → Word → State → WordTime := fun _ _ w _ =>
  (wordUnits w (wordEtype w), 16, sourceNames w ++ more w, [nameP (wordVD w % 8)])

end Sys2Proof.Machine
end

