-- ==== Sys2Proof/Machine/VecArith.lean ====
section
/-! DEFINITION. The arithmetic words of the vector engine (R144, R145): the exact result of each element, rounded once. -/

namespace Sys2Proof.Machine

/-- The exact float result of an element, and the integer result; none where the manual states none (log 50). -/
abbrev FloatFn := Val → Val → Val → Option Val
abbrev IntFn := Nat → Int → Int → Int → Option Int

/-- One element: its bit pattern. An INT16 result out of range, which only VALUE of a summary register can give the instructions that do
not saturate, keeps its low 16 bits (DESIGN CHOICE, log 79). -/
def laneResult (ff : FloatFn) (fi : IntFn) (t : Nat) (rm : Rnd) (a b c : Lane) : Option Nat :=
  if isInt t then (fi t a.2 b.2 c.2).map (natOfInt (etBits t))
  else (ff a.1 b.1 c.1).map (roundFloat (etFloat t) rm)

/-- Element by element. -/
def laneResults (f : Lane → Lane → Lane → Option Nat) : List Lane → List Lane → List Lane → List (Option Nat)
  | a :: as, b :: bs, c :: cs => f a b c :: laneResults f as bs cs
  | _, _, _ => []

/-- An arithmetic word: sources by the shape of its opcode. -/
def elementwise (ff : FloatFn) (fi : IntFn) : VecEffect := fun die _ w s =>
  let e := s.engine die
  let t := wordEtype w
  let n := wordCount w
  let op := wordOp w
  let blank := List.replicate n ((.zero, 0) : Lane)
  let as := if opSrcA op then (e.raw t (wordVA w) n).map (laneOf t) else blank
  let bs := if opSrcB op then e.sourceB w else blank
  let cs := if opSrcC op then (e.raw t (wordVC w) n).map (laneOf t) else blank
  (s.writeElems die w (e.inputs w) (laneResults (laneResult ff fi t (rndOf w)) as bs cs), none)

/-! ### Exact results -/

/-- R145: integer division. The least value divided by −1 leaves the range, and no result is stated. -/
def divInt (t : Nat) (a b : Int) : Option Int :=
  if b = 0 then some (if a < 0 then etMin t else etMax t) else inRange t (a.tdiv b)

def minVal (a b : Val) : Val := if a.isNan || b.isNan then .nan else if b.ordLt a then b else a
def maxVal (a b : Val) : Val := if a.isNan || b.isNan then .nan else if a.ordLt b then b else a
def minAbs (a b : Val) : Val := if a.abs.lt b.abs then a else if b.abs.lt a.abs then b else minVal a b
def maxAbs (a b : Val) : Val := if b.abs.lt a.abs then a else if a.abs.lt b.abs then b else maxVal a b

def signVal (a : Val) : Val :=
  match a with
  | .nan => .nan
  | .inf s => .num s 1 1 0
  | .num s n _ _ => .num s (if n = 0 then 0 else 1) 1 0

def copySign (a b : Val) : Val := if a.isNan || b.isNan then .nan else if b.isNeg then a.abs.neg else a.abs

/-- A finite value that is a whole number. -/
def Val.whole (v : Val) : Option Int :=
  match v with
  | .num s n d e =>
    let p := pow2Frac e
    if n * p.1 % (d * p.2) = 0 then some (signedAt s (n * p.1 / (d * p.2))) else none
  | _ => none

/-- A × 2^B; B beyond ±1,024 acts as that. -/
def scaleVal (a b : Val) : Option Val :=
  if a.isNan || b.isNan then some .nan else b.whole.map (fun k => a.scale (clampInt (-1024) 1024 k))

def scaleInt (t : Nat) (a b : Int) : Int :=
  let k := clampInt (-64) 64 b
  satInt t (if 0 ≤ k then a * 2 ^ k.toNat else a / 2 ^ (-k).toNat)

def clampVal (a b c : Val) : Option Val :=
  if a.isNan || b.isNan || c.isNan then some .nan
  else if c.ordLt b then none
  else some (if a.ordLt b then b else if c.ordLt a then c else a)

/-- The number of 1 bits among the low `k`. -/
def popcount : Nat → Nat → Nat
  | 0, _ => 0
  | k + 1, x => x % 2 + popcount k (x / 2)

/-! ### The words -/

/-- R145. A + B. -/
def vaddWord : VecEffect :=
  elementwise (fun a b _ => some (a.add b)) (fun t a b _ => some (satInt t (a + b)))

def execVadd (die : Die) (w : Word) (v : UnitVote) (s : State) : Out :=
  whenReadyOr s (vecWord die w 0x10 v (regTime 1 16) vaddWord)

/-- R145. A − B. -/
def vsubWord : VecEffect :=
  elementwise (fun a b _ => some (a.sub b)) (fun t a b _ => some (satInt t (a - b)))

def execVsub (die : Die) (w : Word) (v : UnitVote) (s : State) : Out :=
  whenReadyOr s (vecWord die w 0x11 v (regTime 1 16) vsubWord)

/-- R145. A × B. -/
def vmulWord : VecEffect :=
  elementwise (fun a b _ => some (a.mul b)) (fun t a b _ => some (satInt t (a * b)))

def execVmul (die : Die) (w : Word) (v : UnitVote) (s : State) : Out :=
  whenReadyOr s (vecWord die w 0x12 v (regTime 1 16) vmulWord)

/-- R145. A × B + C. -/
def vfmaWord : VecEffect :=
  elementwise (fun a b c => some ((a.mul b).add c)) (fun t a b c => some (satInt t (a * b + c)))

def execVfma (die : Die) (w : Word) (v : UnitVote) (s : State) : Out :=
  whenReadyOr s (vecWord die w 0x13 v (regTime 1 16) vfmaWord)

/-- R145. A × B − C. -/
def vfmsWord : VecEffect :=
  elementwise (fun a b c => some ((a.mul b).sub c)) (fun t a b c => some (satInt t (a * b - c)))

def execVfms (die : Die) (w : Word) (v : UnitVote) (s : State) : Out :=
  whenReadyOr s (vecWord die w 0x14 v (regTime 1 16) vfmsWord)

/-- R145. −A × B + C. -/
def vnfmaWord : VecEffect :=
  elementwise (fun a b c => some ((a.mul b).neg.add c)) (fun t a b c => some (satInt t (c - a * b)))

def execVnfma (die : Die) (w : Word) (v : UnitVote) (s : State) : Out :=
  whenReadyOr s (vecWord die w 0x15 v (regTime 1 16) vnfmaWord)

/-- R145. A / B. Integers truncate toward zero; division by 0 gives the largest value of the dividend's sign. -/
def vdivWord : VecEffect :=
  elementwise (fun a b _ => some (a.div b)) (fun t a b _ => divInt t a b)

def execVdiv (die : Die) (w : Word) (v : UnitVote) (s : State) : Out :=
  whenReadyOr s (vecWord die w 0x16 v (regTime 8 24) vdivWord)

/-- R145. √A. No result is stated for integers (log 50). -/
def vsqrtWord : VecEffect :=
  elementwise (fun a _ _ => some a.sqrt) (fun _ _ _ _ => none)

def execVsqrt (die : Die) (w : Word) (v : UnitVote) (s : State) : Out :=
  whenReadyOr s (vecWord die w 0x17 v (regTime 8 24) vsqrtWord)

/-- R145. 1 / √A. No result is stated for integers (log 50). -/
def vrsqrtWord : VecEffect :=
  elementwise (fun a _ _ => some a.rsqrt) (fun _ _ _ _ => none)

def execVrsqrt (die : Die) (w : Word) (v : UnitVote) (s : State) : Out :=
  whenReadyOr s (vecWord die w 0x18 v (regTime 8 24) vrsqrtWord)

/-- R145. 1 / A. No result is stated for integers (log 50). -/
def vrcpWord : VecEffect :=
  elementwise (fun a _ _ => some ((Val.pow2 0).div a)) (fun _ _ _ _ => none)

def execVrcp (die : Die) (w : Word) (v : UnitVote) (s : State) : Out :=
  whenReadyOr s (vecWord die w 0x19 v (regTime 8 24) vrcpWord)

/-- R145. A². -/
def vsqrWord : VecEffect :=
  elementwise (fun a _ _ => some (a.mul a)) (fun t a _ _ => some (satInt t (a * a)))

def execVsqr (die : Die) (w : Word) (v : UnitVote) (s : State) : Out :=
  whenReadyOr s (vecWord die w 0x1A v (regTime 1 16) vsqrWord)

/-- R145. The lesser; −0 lies below +0. -/
def vminWord : VecEffect :=
  elementwise (fun a b _ => some (minVal a b)) (fun _ a b _ => some (min a b))

def execVmin (die : Die) (w : Word) (v : UnitVote) (s : State) : Out :=
  whenReadyOr s (vecWord die w 0x1B v (regTime 1 16) vminWord)

/-- R145. The greater; −0 lies below +0. -/
def vmaxWord : VecEffect :=
  elementwise (fun a b _ => some (maxVal a b)) (fun _ a b _ => some (max a b))

def execVmax (die : Die) (w : Word) (v : UnitVote) (s : State) : Out :=
  whenReadyOr s (vecWord die w 0x1C v (regTime 1 16) vmaxWord)

/-- R145. The one of lesser magnitude; VMIN of equal magnitudes. -/
def vminabsWord : VecEffect :=
  elementwise (fun a b _ => some (minAbs a b)) (fun _ a b _ => some (if a.natAbs < b.natAbs then a else if b.natAbs < a.natAbs then b else min a b))

def execVminabs (die : Die) (w : Word) (v : UnitVote) (s : State) : Out :=
  whenReadyOr s (vecWord die w 0x1D v (regTime 1 16) vminabsWord)

/-- R145. The one of greater magnitude; VMAX of equal magnitudes. -/
def vmaxabsWord : VecEffect :=
  elementwise (fun a b _ => some (maxAbs a b)) (fun _ a b _ => some (if b.natAbs < a.natAbs then a else if a.natAbs < b.natAbs then b else max a b))

def execVmaxabs (die : Die) (w : Word) (v : UnitVote) (s : State) : Out :=
  whenReadyOr s (vecWord die w 0x1E v (regTime 1 16) vmaxabsWord)

/-- R145. |A|. -/
def vabsWord : VecEffect :=
  elementwise (fun a _ _ => some a.abs) (fun t a _ _ => some (satInt t a.natAbs))

def execVabs (die : Die) (w : Word) (v : UnitVote) (s : State) : Out :=
  whenReadyOr s (vecWord die w 0x1F v (regTime 1 16) vabsWord)

/-- R145. −A. No result is stated where it leaves an integer range (log 50). -/
def vnegWord : VecEffect :=
  elementwise (fun a _ _ => some a.neg) (fun t a _ _ => inRange t (-a))

def execVneg (die : Die) (w : Word) (v : UnitVote) (s : State) : Out :=
  whenReadyOr s (vecWord die w 0x20 v (regTime 1 16) vnegWord)

/-- R145. |A − B|. -/
def vabsdiffWord : VecEffect :=
  elementwise (fun a b _ => some (a.sub b).abs) (fun t a b _ => some (satInt t (a - b).natAbs))

def execVabsdiff (die : Die) (w : Word) (v : UnitVote) (s : State) : Out :=
  whenReadyOr s (vecWord die w 0x21 v (regTime 1 16) vabsdiffWord)

/-- R145. −1, 0 or 1; a zero keeps its sign (log 50). -/
def vsignWord : VecEffect :=
  elementwise (fun a _ _ => some (signVal a)) (fun _ a _ _ => some a.sign)

def execVsign (die : Die) (w : Word) (v : UnitVote) (s : State) : Out :=
  whenReadyOr s (vecWord die w 0x22 v (regTime 1 16) vsignWord)

/-- R145. |A| with the sign of B (log 50). -/
def vcopysignWord : VecEffect :=
  elementwise (fun a b _ => some (copySign a b)) (fun t a b _ => inRange t (if b < 0 then -(a.natAbs : Int) else a.natAbs))

def execVcopysign (die : Die) (w : Word) (v : UnitVote) (s : State) : Out :=
  whenReadyOr s (vecWord die w 0x23 v (regTime 1 16) vcopysignWord)

/-- R145. A × 2^B for an integer B; an integer A shifts arithmetically and saturates (log 50). -/
def vscalebWord : VecEffect :=
  elementwise (fun a b _ => scaleVal a b) (fun t a b _ => some (scaleInt t a b))

def execVscaleb (die : Die) (w : Word) (v : UnitVote) (s : State) : Out :=
  whenReadyOr s (vecWord die w 0x24 v (regTime 1 16) vscalebWord)

/-- R145. (A + B) / 2. The rounding of an odd integer sum is not stated (log 50). -/
def vavgWord : VecEffect :=
  elementwise (fun a b _ => some ((a.add b).scale (-1))) (fun _ a b _ => if (a + b) % 2 = 0 then some ((a + b) / 2) else none)

def execVavg (die : Die) (w : Word) (v : UnitVote) (s : State) : Out :=
  whenReadyOr s (vecWord die w 0x25 v (regTime 1 16) vavgWord)

/-- R145. A + C × (B − A). -/
def vlerpWord : VecEffect :=
  elementwise (fun a b c => some (a.add (c.mul (b.sub a)))) (fun t a b c => some (satInt t (a + c * (b - a))))

def execVlerp (die : Die) (w : Word) (v : UnitVote) (s : State) : Out :=
  whenReadyOr s (vecWord die w 0x26 v (regTime 1 16) vlerpWord)

/-- R145. A into [B, C]. No result is stated where C < B (log 50). -/
def vclampWord : VecEffect :=
  elementwise (fun a b c => clampVal a b c) (fun _ a b c => if c < b then none else some (max b (min a c)))

def execVclamp (die : Die) (w : Word) (v : UnitVote) (s : State) : Out :=
  whenReadyOr s (vecWord die w 0x27 v (regTime 1 16) vclampWord)

/-- R144. A AND B. -/
def vandWord : VecEffect :=
  elementwise (fun _ _ _ => none) (fun t a b _ => some (Nat.land (natOfInt (etBits t) a) (natOfInt (etBits t) b)))

def execVand (die : Die) (w : Word) (v : UnitVote) (s : State) : Out :=
  whenReadyOr s (vecWord die w 0x28 v (regTime 1 16) vandWord)

/-- R144. A OR B. -/
def vorWord : VecEffect :=
  elementwise (fun _ _ _ => none) (fun t a b _ => some (Nat.lor (natOfInt (etBits t) a) (natOfInt (etBits t) b)))

def execVor (die : Die) (w : Word) (v : UnitVote) (s : State) : Out :=
  whenReadyOr s (vecWord die w 0x29 v (regTime 1 16) vorWord)

/-- R144. A XOR B. -/
def vxorWord : VecEffect :=
  elementwise (fun _ _ _ => none) (fun t a b _ => some (Nat.xor (natOfInt (etBits t) a) (natOfInt (etBits t) b)))

def execVxor (die : Die) (w : Word) (v : UnitVote) (s : State) : Out :=
  whenReadyOr s (vecWord die w 0x2A v (regTime 1 16) vxorWord)

/-- R144. NOT A. -/
def vnotWord : VecEffect :=
  elementwise (fun _ _ _ => none) (fun _ a _ _ => some (-a - 1))

def execVnot (die : Die) (w : Word) (v : UnitVote) (s : State) : Out :=
  whenReadyOr s (vecWord die w 0x2B v (regTime 1 16) vnotWord)

/-- R144. A << B. No result is stated for a count outside the width (log 50). -/
def vshlWord : VecEffect :=
  elementwise (fun _ _ _ => none) (fun t a b _ => if 0 ≤ b ∧ b < etBits t then some (a * 2 ^ b.toNat) else none)

def execVshl (die : Die) (w : Word) (v : UnitVote) (s : State) : Out :=
  whenReadyOr s (vecWord die w 0x2C v (regTime 1 16) vshlWord)

/-- R144. A >> B, zeros shifted in. No result is stated for a count outside the width (log 50). -/
def vshrWord : VecEffect :=
  elementwise (fun _ _ _ => none) (fun t a b _ => if 0 ≤ b ∧ b < etBits t then some (natOfInt (etBits t) a / 2 ^ b.toNat) else none)

def execVshr (die : Die) (w : Word) (v : UnitVote) (s : State) : Out :=
  whenReadyOr s (vecWord die w 0x2D v (regTime 1 16) vshrWord)

/-- R144. A >> B, the sign shifted in. No result is stated for a count outside the width (log 50). -/
def vsraWord : VecEffect :=
  elementwise (fun _ _ _ => none) (fun t a b _ => if 0 ≤ b ∧ b < etBits t then some (a / 2 ^ b.toNat) else none)

def execVsra (die : Die) (w : Word) (v : UnitVote) (s : State) : Out :=
  whenReadyOr s (vecWord die w 0x2E v (regTime 1 16) vsraWord)

/-- R144. The number of 1 bits of A. -/
def vpopcWord : VecEffect :=
  elementwise (fun _ _ _ => none) (fun t a _ _ => some (popcount (etBits t) (natOfInt (etBits t) a)))

def execVpopc (die : Die) (w : Word) (v : UnitVote) (s : State) : Out :=
  whenReadyOr s (vecWord die w 0x2F v (regTime 1 16) vpopcWord)

/-- R144. The number of leading 0 bits of A. -/
def vclzWord : VecEffect :=
  elementwise (fun _ _ _ => none) (fun t a _ _ => some (etBits t - bitLength (natOfInt (etBits t) a) : Nat))

def execVclz (die : Die) (w : Word) (v : UnitVote) (s : State) : Out :=
  whenReadyOr s (vecWord die w 0x30 v (regTime 1 16) vclzWord)

/-- R144. A. -/
def vmovWord : VecEffect :=
  elementwise (fun a _ _ => some a) (fun _ a _ _ => some a)

def execVmov (die : Die) (w : Word) (v : UnitVote) (s : State) : Out :=
  whenReadyOr s (vecWord die w 0x31 v (regTime 1 16) vmovWord)

/-- R144. B: with BSRC = 0 its elements one by one (DESIGN CHOICE, log 79). No result is stated where VALUE of a summary register
leaves the range (log 50). -/
def vmovsWord : VecEffect :=
  elementwise (fun _ b _ => some b) (fun t _ b _ => inRange t b)

def execVmovs (die : Die) (w : Word) (v : UnitVote) (s : State) : Out :=
  whenReadyOr s (vecWord die w 0x32 v (regTime 1 16) vmovsWord)

/-- VIOTA: S[VB[4:0]], signed, plus the element number, saturated. -/
def viotaWord : VecEffect := fun die _ w s =>
  let t := wordEtype w
  let x := sintOf 64 ((s.engine die).sreg (wordVB w % 32))
  (s.writeElems die w ((s.engine die).inputs w) ((List.range (wordCount w)).map (fun j => some (natOfInt (etBits t) (satInt t (x + j))))), none)

/-- VIOTA reads S[VB[4:0]]. -/
def viotaTime : Nat → VecRun → Word → State → WordTime := fun _ _ w _ =>
  (wordUnits w (wordEtype w), 16, nameS (wordVB w % 32) :: sourceNames w, nameReg (wordEtype w) (wordVD w))

def execViota (die : Die) (w : Word) (v : UnitVote) (s : State) : Out :=
  whenReadyOr s (vecWord die w 0x33 v viotaTime viotaWord)

end Sys2Proof.Machine
end

