-- ==== Sys2Proof/Machine/VecPred.lean ====
section
/-! DEFINITION. The compare, predicate, conversion and register movement words of the vector engine (R144, R146). -/

namespace Sys2Proof.Machine

/-! ### Compares -/

/-- Writes a predicate bit per element under the mask. -/
def State.writePred (s : State) (die : Nat) (w : Word) (bs : List Bool) : State :=
  let m := masked (wordPzero w) ((s.engine die).mask w) (bs.map bitOf)
  s.putPred die (wordVD w % 8) (m.map (·.map (· == 1)))

/-- A compare of A and B; with a NaN only VCMPNE and VCMPUN hold (log 50). -/
def compareWord (ff : Val → Val → Bool) (fi : Int → Int → Bool) : VecEffect := fun die _ w s =>
  let e := s.engine die
  let t := wordEtype w
  let as := (e.raw t (wordVA w) (wordCount w)).map (laneOf t)
  let bs := e.sourceB w
  (s.writePred die w (List.zipWith (fun (a b : Lane) => if isInt t then fi a.2 b.2 else ff a.1 b.1) as bs), none)

/-- R144. A = B; −0 equals +0. -/
def vcmpeqWord : VecEffect := compareWord (fun a b => a.eqv b) (fun a b => a == b)

def execVcmpeq (die : Die) (w : Word) (v : UnitVote) (s : State) : Out :=
  whenReadyOr s (vecWord die w 0x40 v (predTime (fun _ => [])) vcmpeqWord)

/-- R144. A ≠ B, true with a NaN. -/
def vcmpneWord : VecEffect := compareWord (fun a b => !a.eqv b) (fun a b => a != b)

def execVcmpne (die : Die) (w : Word) (v : UnitVote) (s : State) : Out :=
  whenReadyOr s (vecWord die w 0x41 v (predTime (fun _ => [])) vcmpneWord)

/-- R144. A < B. -/
def vcmpltWord : VecEffect := compareWord (fun a b => a.lt b) (fun a b => decide (a < b))

def execVcmplt (die : Die) (w : Word) (v : UnitVote) (s : State) : Out :=
  whenReadyOr s (vecWord die w 0x42 v (predTime (fun _ => [])) vcmpltWord)

/-- R144. A ≤ B. -/
def vcmpleWord : VecEffect := compareWord (fun a b => a.le b) (fun a b => decide (a ≤ b))

def execVcmple (die : Die) (w : Word) (v : UnitVote) (s : State) : Out :=
  whenReadyOr s (vecWord die w 0x43 v (predTime (fun _ => [])) vcmpleWord)

/-- R144. A > B. -/
def vcmpgtWord : VecEffect := compareWord (fun a b => b.lt a) (fun a b => decide (b < a))

def execVcmpgt (die : Die) (w : Word) (v : UnitVote) (s : State) : Out :=
  whenReadyOr s (vecWord die w 0x44 v (predTime (fun _ => [])) vcmpgtWord)

/-- R144. A ≥ B. -/
def vcmpgeWord : VecEffect := compareWord (fun a b => b.le a) (fun a b => decide (b ≤ a))

def execVcmpge (die : Die) (w : Word) (v : UnitVote) (s : State) : Out :=
  whenReadyOr s (vecWord die w 0x45 v (predTime (fun _ => [])) vcmpgeWord)

/-- R144. Either is NaN. -/
def vcmpunWord : VecEffect := compareWord (fun a b => a.isNan || b.isNan) (fun _ _ => false)

def execVcmpun (die : Die) (w : Word) (v : UnitVote) (s : State) : Out :=
  whenReadyOr s (vecWord die w 0x46 v (predTime (fun _ => [])) vcmpunWord)

/-- The class of an element: the bit of the mask VB[5:0] in the order of R144, lowest first (log 50). -/
def classOf (t x : Nat) : Nat :=
  if isInt t then (if sintOf (etBits t) x = 0 then 3 else 5)
  else
    match decodeFloat (etFloat t) x with
    | .nan => 0
    | .inf neg => if neg then 1 else 2
    | .num _ n _ _ => if n = 0 then 3 else if n < 2 ^ (etFloat t).frac then 4 else 5

/-- R144. VCLASS: the element falls in a class of the mask. -/
def vclassWord : VecEffect := fun die _ w s =>
  let t := wordEtype w
  let xs := (s.engine die).raw t (wordVA w) (wordCount w)
  (s.writePred die w (xs.map (fun x => bit (wordVB w) (classOf t x))), none)

def execVclass (die : Die) (w : Word) (v : UnitVote) (s : State) : Out :=
  whenReadyOr s (vecWord die w 0x47 v (predTime (fun _ => [])) vclassWord)

/-- Bit patterns of the second source; VALUE of a summary register is rounded to ETYPE, and unstated where it leaves an
integer range (log 50). -/
def Engine.patternsB (e : Engine) (w : Word) : List (Option Nat) :=
  let t := wordEtype w
  let n := wordCount w
  match wordBsrc w with
  | 0 => (e.raw t (wordVB w) n).map some
  | 1 => List.replicate n (some (e.sreg (wordVB w % 32) % 2 ^ etBits t))
  | _ =>
    let q := laneOfQ t (e.q.get (wordVB w % 16)).toNat
    List.replicate n (if isInt t then (inRange t q.2).map (natOfInt (etBits t)) else some (roundFloat (etFloat t) .nearest q.1))

/-- A where the bit is 1, B where it is 0. -/
def choose : List Bool → List Nat → List (Option Nat) → List (Option Nat)
  | p :: ps, a :: as, b :: bs => (if p then some a else b) :: choose ps as bs
  | _, _, _ => []

/-- R144. VSEL: PRED, inverted when PNEG = 1, selects A or B; every element up to COUNT is written. -/
def vselWord : VecEffect := fun die _ w s =>
  let e := s.engine die
  let t := wordEtype w
  let n := wordCount w
  let ps := (e.preds (wordPred w) n).map (· != wordPneg w)
  let xs := fill w (e.inputs w) (choose ps (e.raw t (wordVA w) n) (e.patternsB w))
  (s.putElems die t (wordVD w) (xs.map (fun x => some (cleanElem t x))), none)

def vselTime : Nat → VecRun → Word → State → WordTime := fun _ _ w _ =>
  (wordUnits w (wordEtype w), 16, nameP (wordPred w) :: sourceNames w, nameReg (wordEtype w) (wordVD w))

def execVsel (die : Die) (w : Word) (v : UnitVote) (s : State) : Out :=
  whenReadyOr s (vecWord die w 0x48 v vselTime vselWord)

/-! ### Predicates -/

/-- A predicate word: sources VA[2:0] and VB[2:0] (log 50). -/
def predicateWord (f : Bool → Bool → Bool) : VecEffect := fun die _ w s =>
  let e := s.engine die
  let n := wordCount w
  (s.writePred die w (List.zipWith f (e.preds (wordVA w % 8) n) (e.preds (wordVB w % 8) n)), none)

def predsAB (w : Word) : List (Nat × Nat) := [nameP (wordVA w % 8), nameP (wordVB w % 8)]
def predsA (w : Word) : List (Nat × Nat) := [nameP (wordVA w % 8)]

/-- R144. P AND P. -/
def pandWord : VecEffect := predicateWord (fun a b => a && b)

def execPand (die : Die) (w : Word) (v : UnitVote) (s : State) : Out :=
  whenReadyOr s (vecWord die w 0x49 v (predTime predsAB) pandWord)

/-- R144. P OR P. -/
def porWord : VecEffect := predicateWord (fun a b => a || b)

def execPor (die : Die) (w : Word) (v : UnitVote) (s : State) : Out :=
  whenReadyOr s (vecWord die w 0x4A v (predTime predsAB) porWord)

/-- R144. P XOR P. -/
def pxorWord : VecEffect := predicateWord (fun a b => a != b)

def execPxor (die : Die) (w : Word) (v : UnitVote) (s : State) : Out :=
  whenReadyOr s (vecWord die w 0x4B v (predTime predsAB) pxorWord)

/-- R144. NOT P. -/
def pnotWord : VecEffect := predicateWord (fun a _ => !a)

def execPnot (die : Die) (w : Word) (v : UnitVote) (s : State) : Out :=
  whenReadyOr s (vecWord die w 0x4C v (predTime predsA) pnotWord)

/-- R144. All 1. -/
def psetWord : VecEffect := predicateWord (fun _ _ => true)

def execPset (die : Die) (w : Word) (v : UnitVote) (s : State) : Out :=
  whenReadyOr s (vecWord die w 0x4D v (predTime (fun _ => [])) psetWord)

/-- R144. All 0. -/
def pclrWord : VecEffect := predicateWord (fun _ _ => false)

def execPclr (die : Die) (w : Word) (v : UnitVote) (s : State) : Out :=
  whenReadyOr s (vecWord die w 0x4E v (predTime (fun _ => [])) pclrWord)

/-- R144. P. -/
def pmovWord : VecEffect := predicateWord (fun a _ => a)

def execPmov (die : Die) (w : Word) (v : UnitVote) (s : State) : Out :=
  whenReadyOr s (vecWord die w 0x4F v (predTime predsA) pmovWord)

/-! ### Conversion (R146) -/

/-- Stream of a word that rounds stochastically (R156). -/
def roundStream (w : Word) : Nat := if wordOpt w then 3 else 2

/-- R156: the random word of element j. -/
def drawWord (e : Engine) (r : VecRun) (w : Word) (stream j : Nat) : BitVec 32 :=
  let x := e.sreg (4 * wordBlock w + 2)
  randWord r.seed (r.tids.getD (wordSlot w) 0) (r.useCtr.getD (wordSlot w) 0).toNat r.step stream (x / 2 ^ 48)
    (x % 2 ^ 48 + j)

/-- Rounding of element j under RND. -/
def rndAt (e : Engine) (r : VecRun) (w : Word) (j : Nat) : Rnd :=
  if wordRnd w = 1 then .stoch (drawWord e r w (roundStream w) j) else rndOf w

/-- VCVT: source type VB[2:0], rounded once to ETYPE. -/
def vcvtWord : VecEffect := fun die r w s =>
  let e := s.engine die
  let u := wordVB w % 8
  let xs := e.raw u (wordVA w) (wordCount w)
  (s.writeElems die w (e.inputs w)
    (withIndex (fun j x => some (convertTo (wordEtype w) (rndAt e r w j) (laneVal u (laneOf u x)))) 0 xs), none)

/-- R167: e32 when either type is 32-bit. -/
def vcvtTime : Nat → VecRun → Word → State → WordTime := fun _ _ w _ =>
  let u := wordVB w % 8
  (wordUnits w (if isWide u then u else wordEtype w), 16,
   nameReg u (wordVA w) ++ sourceNames w ++ (if wordRnd w = 1 then [nameS (4 * wordBlock w + 2)] else []),
   nameReg (wordEtype w) (wordVD w))

def execVcvt (die : Die) (w : Word) (v : UnitVote) (s : State) : Out :=
  whenReadyOr s (vecWord die w 0x50 v vcvtTime vcvtWord)

/-- A value rounded to an integral one; a zero keeps its sign. -/
def integral (rm : Rnd) (v : Val) : Val :=
  match v with
  | .num s n d e => .num s (roundInt rm s n d e).natAbs 1 0
  | x => x

/-- A word that rounds to an integral value in ETYPE; integers are integral already. -/
def integralWord (rm : Word → Rnd) : VecEffect := fun die _ w s =>
  let t := wordEtype w
  let xs := (s.engine die).raw t (wordVA w) (wordCount w)
  (s.writeElems die w ((s.engine die).inputs w) (xs.map (fun x =>
    some (if isInt t then x else roundFloat (etFloat t) .nearest (integral (rm w) (laneOf t x).1)))), none)

/-- R146. Rounds to an integral value under RND. -/
def vrintWord : VecEffect := integralWord rndOf

def execVrint (die : Die) (w : Word) (v : UnitVote) (s : State) : Out :=
  whenReadyOr s (vecWord die w 0x51 v (regTime 1 16) vrintWord)

/-- R146. Toward −∞. -/
def vfloorWord : VecEffect := integralWord (fun _ => .down)

def execVfloor (die : Die) (w : Word) (v : UnitVote) (s : State) : Out :=
  whenReadyOr s (vecWord die w 0x52 v (regTime 1 16) vfloorWord)

/-- R146. Toward +∞. -/
def vceilWord : VecEffect := integralWord (fun _ => .up)

def execVceil (die : Die) (w : Word) (v : UnitVote) (s : State) : Out :=
  whenReadyOr s (vecWord die w 0x53 v (regTime 1 16) vceilWord)

/-- R146. Toward 0. -/
def vtruncWord : VecEffect := integralWord (fun _ => .zero)

def execVtrunc (die : Die) (w : Word) (v : UnitVote) (s : State) : Out :=
  whenReadyOr s (vecWord die w 0x54 v (regTime 1 16) vtruncWord)

/-! ### Register movement: bit patterns -/

/-- What a movement word may take an unstated element from: its sources, its count in S[VB[4:0]], its length, the place, and
what stands there. -/
def Engine.moveInputs (e : Engine) (w : Word) (j : Nat) : List Nat :=
  e.inputs w j ++ [e.sreg (wordVB w % 32), wordCount w, j, e.rawAt (wordEtype w) (wordVD w) j]

/-- A movement word: patterns by element number, none where the manual states none (log 52). -/
def moveWord (f : Engine → Word → List (Option Nat)) : VecEffect := fun die _ w s =>
  let e := s.engine die
  (s.writeElems die w (e.moveInputs w) ((f e w).map (·.map (cleanElem (wordEtype w)))), none)

/-- A movement word that picks elements of VA by number: errors of those elements are met. -/
def pickWord (idx : Engine → Word → List Nat) (f : Engine → Word → List (Option Nat)) : VecEffect :=
  fun die r w s =>
    let one := fun (i : Nat) => (hiddenAddr 4 die (wordVA w * 131072 + 2 * i), 2)
    let m := s.meetAll (((idx (s.engine die) w).filter (fun i => i < 65536)).map one)
    if m.2 then (m.1, some (0x31, 0)) else moveWord f die r w m.1

/-- The element of VA at position `i`, if a register has one. -/
def Engine.pick (e : Engine) (w : Word) (i : Int) : Option Nat :=
  if 0 ≤ i ∧ i < 65536 then some (e.rawAt (wordEtype w) (wordVA w) i.toNat) else none

/-- VSHIFTEL: by S[VB[4:0]] elements. The direction, and what moves in from outside the elements, are free (log 52). -/
def vshiftelMove (e : Engine) (w : Word) : List (Option Nat) :=
  let k := sintOf 64 (e.sreg (wordVB w % 32))
  let n := wordCount w
  (List.range n).map (fun j =>
    let i : Int := if Config.shiftsUp then (j : Int) - k else j + k
    if i < n then e.pick w i else none)

/-- VREV: elements in reverse order. -/
def vrevMove (e : Engine) (w : Word) : List (Option Nat) :=
  ((e.raw (wordEtype w) (wordVA w) (wordCount w)).reverse).map some

/-- VPERM: element number from register VB, 16 bits, unsigned (log 52). -/
def vpermMove (e : Engine) (w : Word) : List (Option Nat) :=
  (e.raw etINT16 (wordVB w) (wordCount w)).map (fun (i : Nat) => e.pick w i)

/-- Elements of two lists in turn. -/
def interleave : List Nat → List (Option Nat) → List (Option Nat)
  | a :: as, b :: bs => some a :: b :: interleave as bs
  | _, _ => []

/-- VZIP: elements of A and B in turn, A first (log 52). -/
def vzipMove (e : Engine) (w : Word) : List (Option Nat) :=
  (interleave (e.raw (wordEtype w) (wordVA w) (wordCount w)) (e.patternsB w)).take (wordCount w)

/-- VUNZIP: each element is one of A's or B's; the manual does not say which (log 52). -/
def vunzipMove (e : Engine) (w : Word) : List (Option Nat) :=
  let n := wordCount w
  let as := (e.raw (wordEtype w) (wordVA w) n).map some
  (List.range n).map (fun j => (as ++ e.patternsB w).getD (Config.unzipSource n j % (2 * n)) none)

/-- VBCAST: element S[VB[4:0]] to all; no result is stated past the last element. -/
def vbcastMove (e : Engine) (w : Word) : List (Option Nat) :=
  List.replicate (wordCount w) (e.pick w (e.sreg (wordVB w % 32)))

/-- Time of a movement word with a count in S[VB[4:0]]. -/
def countTime : Nat → VecRun → Word → State → WordTime := fun _ _ w _ =>
  (wordUnits w (wordEtype w), 16, nameS (wordVB w % 32) :: sourceNames w, nameReg (wordEtype w) (wordVD w))

/-- Time of VPERM. -/
def permTime : Nat → VecRun → Word → State → WordTime := fun _ _ w _ =>
  (ceilDiv (wordCount w) 256, 16, nameV (wordVB w) :: sourceNames w, nameReg (wordEtype w) (wordVD w))

/-- R144. Shifts elements by S[VB[4:0]]. -/
def vshiftelWord : VecEffect := moveWord vshiftelMove

def execVshiftel (die : Die) (w : Word) (v : UnitVote) (s : State) : Out :=
  whenReadyOr s (vecWord die w 0x58 v countTime vshiftelWord)

/-- R144. Reverses elements. -/
def vrevWord : VecEffect := moveWord vrevMove

def execVrev (die : Die) (w : Word) (v : UnitVote) (s : State) : Out :=
  whenReadyOr s (vecWord die w 0x59 v (regTime 1 16) vrevWord)

/-- R144. Permutes elements by index register VB. -/
def vpermWord : VecEffect := pickWord (fun e w => e.raw etINT16 (wordVB w) (wordCount w)) vpermMove

def execVperm (die : Die) (w : Word) (v : UnitVote) (s : State) : Out :=
  whenReadyOr s (vecWord die w 0x5A v permTime vpermWord)

/-- R144. Interleaves two registers. -/
def vzipWord : VecEffect := moveWord vzipMove

def execVzip (die : Die) (w : Word) (v : UnitVote) (s : State) : Out :=
  whenReadyOr s (vecWord die w 0x5B v (regTime 1 16) vzipWord)

/-- R144. De-interleaves a register pair. -/
def vunzipWord : VecEffect := moveWord vunzipMove

def execVunzip (die : Die) (w : Word) (v : UnitVote) (s : State) : Out :=
  whenReadyOr s (vecWord die w 0x5C v (regTime 1 16) vunzipWord)

/-- R144. Broadcasts element S[VB[4:0]]. -/
def vbcastWord : VecEffect := pickWord (fun e w => [e.sreg (wordVB w % 32)]) vbcastMove

def execVbcast (die : Die) (w : Word) (v : UnitVote) (s : State) : Out :=
  whenReadyOr s (vecWord die w 0x5D v countTime vbcastWord)

/-- The elements whose mask bit is 1, in order. -/
def packed : List Bool → List Nat → List Nat
  | m :: ms, x :: xs => if m then x :: packed ms xs else packed ms xs
  | _, _ => []

/-- VCOMPRESS: packs predicated elements from element 0 on; elements that receive none keep their value, or become 0
with PZERO = 1 (log 52). -/
def vcompressWord : VecEffect := fun die _ w s =>
  let e := s.engine die
  let t := wordEtype w
  let xs := packed (e.mask w) (e.raw t (wordVA w) (wordCount w))
  let rest : List (Option Nat) := List.replicate (wordCount w - xs.length) (if wordPzero w then some 0 else none)
  (s.putElems die t (wordVD w) (xs.map (fun x => some (cleanElem t x)) ++ rest), none)

/-- Packed elements spread to the places whose bit is 1. -/
def spread (pzero : Bool) : List Bool → List Nat → List (Option Nat)
  | [], _ => []
  | true :: ms, x :: xs => some x :: spread pzero ms xs
  | true :: ms, [] => none :: spread pzero ms []
  | false :: ms, xs => (if pzero then some 0 else none) :: spread pzero ms xs

/-- VEXPAND: spreads packed elements to predicated places. -/
def vexpandWord : VecEffect := fun die _ w s =>
  let e := s.engine die
  let t := wordEtype w
  let xs := (e.raw t (wordVA w) (wordCount w)).map (cleanElem t)
  (s.putElems die t (wordVD w) (spread (wordPzero w) (e.mask w) xs), none)

def execVcompress (die : Die) (w : Word) (v : UnitVote) (s : State) : Out :=
  whenReadyOr s (vecWord die w 0x5E v (regTime 1 16) vcompressWord)

def execVexpand (die : Die) (w : Word) (v : UnitVote) (s : State) : Out :=
  whenReadyOr s (vecWord die w 0x5F v (regTime 1 16) vexpandWord)

end Sys2Proof.Machine
end

