-- ==== Sys2Proof/Machine/VecMem.lean ====
section
/-! DEFINITION. The memory and table words of the vector engine (R147 to R155). Addresses of elements are counted in half
bytes, so that 4-bit elements have one each. -/

namespace Sys2Proof.Machine

/-! ### Addresses (R147, R148) -/

/-- R148: what a memory word may reach: local store of either die, the accumulator memory of its own; A24 slots lie in
the latter only (R149). -/
def allowVec (die f : Nat) : Allow
  | .local_ _ => f != 7
  | .acc d => d == die
  | _ => false

/-- S[4b][47:0]. -/
def vecBase (e : Engine) (w : Word) : Nat := e.sreg (4 * wordBlock w) % 2 ^ 48
/-- S[4b+1][31:0]. -/
def vecStride (e : Engine) (w : Word) : Nat := e.sreg (4 * wordBlock w + 1) % 2 ^ 32
/-- Half bytes of an element. -/
def memHalves (f : Nat) : Nat := memBits f / 4
/-- Bytes an element touches. -/
def memBytes (f : Nat) : Nat := max 1 (memBits f / 8)

/-- Half-byte address of the element with a number (R150: a signed index for gathers and scatters, log 51). -/
def vecSpot (e : Engine) (w : Word) (i : Int) : Int :=
  let st := vecStride e w
  2 * vecBase e w + i * (if st = 0 then memHalves (memFmt w) else 2 * st)

/-- Half-byte addresses of the elements of a memory word. -/
def vecSpots (e : Engine) (w : Word) : List Int :=
  let n := wordCount w
  let op := wordOp w
  if op = 0x63 then (e.raw etINT32 (wordVA w) n).map (fun x => vecSpot e w (sintOf 32 x))
  else if op = 0x64 ∨ op = 0x65 then (e.raw etINT32 (wordVD w) n).map (fun x => vecSpot e w (sintOf 32 x))
  else if op = 0x62 then [vecSpot e w 0]
  else (List.range n).map (fun (j : Nat) => vecSpot e w j)

/-- Module-local addresses of `n` bytes from a virtual address on, or the status and detail of a fault. -/
def State.vecBytes (s : State) (root : Word) (allow : Allow) (wr : Bool) (va : Nat) :
    Nat → State × Except (Nat × Nat) (List Nat)
  | 0 => (s, .ok [])
  | n + 1 =>
    match s.vecBytes root allow wr va n with
    | (s1, .error e) => (s1, .error e)
    | (s1, .ok as) =>
      match s1.resolve root allow (va + n) 1 wr with
      | (s2, .error e) => (s2, .error (e.status, e.detail))
      | (s2, .ok x) => (s2, .ok (as ++ [x.2]))

/-- The ADDRESS_FAULT of an element. -/
def spotFault (h : Int) : Nat × Nat := (0x21, virtDetail (natOfInt 48 (h / 2)))

/-- R148: the bytes of one element; 4-bit elements must be packed, others aligned to their size, A24 slots on a slot
boundary of R75. -/
def State.vecElem (s : State) (die : Nat) (root : Word) (f stride : Nat) (wr : Bool) (h : Int) :
    State × Except (Nat × Nat) (List Nat) :=
  let k := memBytes f
  let va := (h / 2).toNat
  if h < 0 ∨ (f ≠ 7 ∧ va % k ≠ 0) ∨ (memBits f = 4 ∧ stride ≠ 0) then (s, .error (spotFault h))
  else
    match s.vecBytes root (allowVec die f) wr va k with
    | (s1, .ok as) =>
      if f = 7 ∧ ((as.head?).getD 0 - 0x20100000000 - die * 0x2000000) % 3 ≠ 0 then (s1, .error (spotFault h))
      else (s1, .ok as)
    | x => x

/-- The bytes of every element that is accessed, in order; nothing is accessed before all are found. -/
def State.vecElems (s : State) (die : Nat) (root : Word) (f stride : Nat) (wr : Bool) :
    List Bool → List Int → State × Except (Nat × Nat) (List (List Nat))
  | m :: ms, h :: hs =>
    if m then
      match s.vecElem die root f stride wr h with
      | (s1, .error e) => (s1, .error e)
      | (s1, .ok as) =>
        match s1.vecElems die root f stride wr ms hs with
        | (s2, .error e) => (s2, .error e)
        | (s2, .ok xs) => (s2, .ok (as :: xs))
    else
      match s.vecElems die root f stride wr ms hs with
      | (s2, .error e) => (s2, .error e)
      | (s2, .ok xs) => (s2, .ok ([] :: xs))
  | _, _ => (s, .ok [])

/-! ### Codes in memory -/

/-- The code of an element from its bytes: a half byte for 4-bit formats. -/
def spotCode (f : Nat) (h : Int) (x : Nat) : Nat :=
  if memBits f = 4 then (if h % 2 = 0 then x % 16 else x / 16) else x

/-- The bytes of an element after a code is written into it. -/
def spotWrite (f : Nat) (h : Int) (old code : Nat) : List Byte :=
  if memBits f = 4 then leBytes 1 (if h % 2 = 0 then old / 16 * 16 + code % 16 else old % 16 + code % 16 * 16)
  else leBytes (memBytes f) code

/-- What memory holds at bytes. -/
def State.bytesAt (s : State) (as : List Nat) : Nat := leNat (as.map s.mem.ram.get)

/-- Writes bytes at addresses; R85: a chain whose region they meet is spoiled. -/
def State.storeBytes (s : State) : List Nat → List Byte → State
  | a :: as, b :: bs =>
    (({ s with mem := { s.mem with ram := s.mem.ram.write a (keepSlots a [b]) } } : State).touchChains a 1).storeBytes as bs
  | _, _ => s

/-- R307: blocks all of whose bytes a word wrote lose their poison. -/
def State.clearCovered (s : State) (as : List Nat) : State :=
  let part := fun (b : Nat) => !(List.range 64).all (fun i => as.contains (b * 64 + i))
  { s with mem := { s.mem with poison := s.mem.poison.filter (fun p => part p.1)
                               latent := s.mem.latent.filter (fun p => part p.1) } }

/-- Writes the codes of elements, in ascending order; none leaves an element as it is. -/
def State.storeCodes (s : State) (f : Nat) : List Int → List (List Nat) → List (Option Nat) → State
  | h :: hs, as :: xs, c :: cs =>
    let s1 := match c with
      | some c => s.storeBytes as (spotWrite f h (s.bytesAt as) c)
      | none => s
    s1.storeCodes f hs xs cs
  | _, _, _ => s

/-! ### Timing (R167) -/

/-- Virtual ranges of the elements of a memory word. -/
def vecRanges (e : Engine) (w : Word) : List (Nat × Nat) :=
  let f := memFmt w
  ((vecSpots e w).filter (fun h => 0 ≤ h)).foldl (fun m h => addRange m ((h / 2).toNat, memBytes f)) []

/-- Some byte range of a word lies in the other die's local store. -/
def State.reachesOther (s : State) (root : Word) (die : Nat) (rs : List (Nat × Nat)) : Bool :=
  rs.any (fun x => (List.range (x.2 / 65536 + 1)).any (fun i =>
    match (s.resolve root allowLocal (x.1 + 65536 * i) 1 false).2 with
    | .ok z => z.1 == .local_ (1 - die)
    | .error _ => false))

/-- Occupancy and latency of a memory word. -/
def State.memOcc (s : State) (die : Nat) (root : Word) (w : Word) (load : Bool) : Nat × Nat :=
  let e := s.engine die
  let f := memFmt w
  let n := wordCount w
  let op := wordOp w
  let st := vecStride e w
  let bytes := if op = 0x62 then memBytes f else ceilDiv (n * memBits f) 8
  if op = 0x65 then (ceilDiv n 128, 32)
  else if op = 0x63 ∨ op = 0x64 then (ceilDiv n 256, 32)
  else if f = 7 ∧ op ≠ 0x62 then (ceilDiv n 1024, 24)
  else if op ≠ 0x62 ∧ st ≠ 0 ∧ st * 8 ≠ memBits f then (ceilDiv n 256, 32)
  else if s.reachesOther root die (vecRanges e w) then (ceilDiv bytes 464, 64)
  else (max (wordUnits w (wordEtype w)) (ceilDiv bytes 4096), if load then 24 else 8)

/-- Registers of the scalar block and of indices a memory word reads. -/
def blockNames (w : Word) : List (Nat × Nat) :=
  let b := 4 * wordBlock w
  [nameS b, nameS (b + 1)] ++ (if wordRnd w = 1 then [nameS (b + 2)] else []) ++
    (if wordOp w = 0x63 then nameReg etINT32 (wordVA w) else if wordOp w = 0x64 ∨ wordOp w = 0x65 then nameReg etINT32 (wordVD w)
     else [])

/-- R152: a store that takes its slot's scale from a summary register. -/
def scaleFromQ (r : VecRun) (w : Word) : Bool :=
  storesUnder w (r.valid.getD (wordSlot w) false) && wordScale w == 1 && memFmt w != 0 &&
    (r.uses.get none (wordSlot w)).isNone

def namesOf (rs : List (Nat × Nat)) : List (Nat × Nat) := rs.map (fun x => nameMem x.1 x.2)

def loadTime : Nat → VecRun → Word → State → WordTime := fun die r w s =>
  let x := s.memOcc die r.root w true
  (x.1, x.2, blockNames w ++ sourceNames w ++ namesOf (vecRanges (s.engine die) w), nameReg (wordEtype w) (wordVD w))

def storeTime : Nat → VecRun → Word → State → WordTime := fun die r w s =>
  let e := s.engine die
  let x := s.memOcc die r.root w false
  let b := 4 * wordBlock w + 3
  (x.1, x.2,
   blockNames w ++ sourceNames w ++ (if scaleFromQ r w then [nameS b, nameQ (e.sreg b % 16)] else []),
   namesOf (vecRanges e w))

def addTime : Nat → VecRun → Word → State → WordTime := fun die r w s =>
  let x := s.memOcc die r.root w false
  let ns := namesOf (vecRanges (s.engine die) w)
  (x.1, x.2, blockNames w ++ sourceNames w ++ ns, ns)

/-! ### Loads (R149, R151) -/

/-- The float format of a memory format code. -/
def memFloat (f : Nat) : FloatFmt := (floatFmt (if f = 10 then 7 else f)).getD fmtBF16

/-- Value of a code in memory. -/
def memVal (f code : Nat) : Val :=
  if memIsInt f then Val.ofInt (sintOf (memBits f) code) else decodeFloat (memFloat f) (code % 2 ^ ((memFloat f).sign + 1))

/-- R151: an element from its code; no result is stated for an INT32 code outside an INT16 element (log 50). -/
def loadElem (f t : Nat) (sc : Option Scale) (code : Nat) : Option Nat :=
  if memIsInt f && isInt t then (inRange t (sintOf (memBits f) code)).map (natOfInt (etBits t))
  else
    let v := memVal f code
    some (roundFloat (etFloat t) .nearest (match sc with | some x => v.mul x.value | none => v))

/-- The scale a load takes from its slot. -/
def loadScale (r : VecRun) (w : Word) : Option Scale :=
  if loadScaled w (r.valid.getD (wordSlot w) false) then (r.entries.getD (wordSlot w) Entry.free).operandScale (memFmt w)
  else none

/-- Reads the code of every element found. -/
def State.loadCodes (s : State) (f : Nat) : List Int → List (List Nat) → List Nat
  | h :: hs, as :: xs => spotCode f h (s.bytesAt as) :: s.loadCodes f hs xs
  | _, _ => []

/-- Elements of `n` loaded codes; one code goes to all with VLDB. -/
def loadWord (one : Bool) : VecEffect := fun die r w s =>
  let e := s.engine die
  let f := memFmt w
  let hs := vecSpots e w
  let m := e.mask w
  let need := if one then [m.any id] else m
  match s.vecElems die r.root f (vecStride e w) false need hs with
  | (s1, .error x) => (s1, some x)
  | (s1, .ok xs) =>
    let y := s1.meetAll (xs.flatMap (fun as => as.map (fun a => (a, 1))))
    if y.2 then (y.1, some (0x31, 0))
    else
      let codes := y.1.loadCodes f hs xs
      let cs := codes.map (loadElem f (wordEtype w) (loadScale r w))
      (y.1.writeElems die w (fun j => [codes.getD (if one then 0 else j) 0])
        (if one then List.replicate (wordCount w) ((cs.head?).getD none) else cs), none)

/-- R151. VLD. -/
def vldWord : VecEffect := loadWord false
/-- R148. VLDB: one element to all. -/
def vldbWord : VecEffect := loadWord true
/-- R150. VGATHER: indices in INT32 pair VA. -/
def vgatherWord : VecEffect := loadWord false

def execVld (die : Die) (w : Word) (v : UnitVote) (s : State) : Out := whenReadyOr s (vecWord die w 0x60 v loadTime vldWord)
def execVldb (die : Die) (w : Word) (v : UnitVote) (s : State) : Out := whenReadyOr s (vecWord die w 0x62 v loadTime vldbWord)
def execVgather (die : Die) (w : Word) (v : UnitVote) (s : State) : Out :=
  whenReadyOr s (vecWord die w 0x63 v loadTime vgatherWord)

/-! ### Stores (R152) -/

/-- R152: the scale of a slot's first store. -/
def firstScale (e : Engine) (r : VecRun) (w : Word) : Scale :=
  let f := memFmt w
  let en := r.entries.getD (wordSlot w) Entry.free
  if f = 0 then .exp 0
  else if wordScale w = 1 then
    let a := (laneOfQ etA24 (e.q.get (e.sreg (4 * wordBlock w + 3) % 16)).toNat).1.abs
    if a.isFinite then scaleFor f a else unitScale f
  else if en.pinned then readScale f en.pinScale
  else en.historyScale f

/-- R152: an integer in a memory format. -/
def satMem (f : Nat) (x : Int) : Nat :=
  natOfInt (memBits f) (clampInt (-(2 ^ (memBits f - 1))) (2 ^ (memBits f - 1) - 1) x)

/-- R152: the code of an element stored with scale 1 under no slot: as VCVT converts. -/
def plainCode (f : Nat) (rm : Rnd) (t : Nat) (l : Lane) : Nat :=
  if memIsInt f then satMem f l.2 else roundFloat (memFloat f) rm (laneVal t l)

/-- Codes of the elements stored under a slot, and the slot's counters. -/
def underCodes (f t : Nat) (rm : Nat → Rnd) : Nat → SlotUse → List Bool → List Lane → List Nat × SlotUse
  | j, u, m :: ms, l :: ls =>
    if m then
      let v := laneVal t l
      let c := storedCode f (rm j) (v.div u.scale.value)
      let x := underCodes f t rm (j + 1) (u.add v c.2) ms ls
      (c.1 :: x.1, x.2)
    else
      let x := underCodes f t rm (j + 1) u ms ls
      (0 :: x.1, x.2)
  | _, u, _, _ => ([], u)

/-- Codes of the elements of a store, and the run with its slot's counters. -/
def storeConvert (e : Engine) (r : VecRun) (w : Word) (m : List Bool) : List Nat × VecRun :=
  let f := memFmt w
  let t := wordEtype w
  let ls := (e.raw t (wordVA w) (wordCount w)).map (laneOf t)
  if storesUnder w (r.valid.getD (wordSlot w) false) then
    let u := (r.uses.get none (wordSlot w)).getD (SlotUse.start (firstScale e r w) f)
    let x := underCodes f t (rndAt e r w) 0 u m ls
    (x.1, { r with uses := r.uses.set none (wordSlot w) (some x.2) })
  else (withIndex (fun j l => plainCode f (rndAt e r w j) t l) 0 ls, r)

/-- A store: every element found, then converted and written. -/
def storeWord : VecEffect := fun die r w s =>
  let e := s.engine die
  let f := memFmt w
  let hs := vecSpots e w
  let m := e.mask w
  let need := if wordPzero w then m.map (fun _ => true) else m
  match s.vecElems die r.root f (vecStride e w) true need hs with
  | (s1, .error x) => (s1, some x)
  | (s1, .ok xs) =>
    let c := storeConvert e r w m
    let s2 := s1.storeCodes f hs xs (masked (wordPzero w) m c.1)
    ((s2.clearCovered (xs.flatMap id)).setRun die c.2, none)

/-- R152. VST. -/
def vstWord : VecEffect := storeWord
/-- R150. VSCATTER: indices in pair VD; the higher-indexed of two elements at one place lands last. -/
def vscatterWord : VecEffect := storeWord

def execVst (die : Die) (w : Word) (v : UnitVote) (s : State) : Out := whenReadyOr s (vecWord die w 0x61 v storeTime vstWord)
def execVscatter (die : Die) (w : Word) (v : UnitVote) (s : State) : Out :=
  whenReadyOr s (vecWord die w 0x64 v storeTime vscatterWord)

/-- R150: a location after one element is added. -/
def addCode (f t old : Nat) (l : Lane) : Nat :=
  if memIsInt f then satMem f (sintOf (memBits f) old + l.2)
  else roundFloat (memFloat f) .nearest ((memVal f old).add (laneVal t l))

/-- Adds elements into their locations in ascending order. -/
def State.addCodes (s : State) (f t : Nat) : List Int → List (List Nat) → List Bool → List Lane → State
  | h :: hs, as :: xs, m :: ms, l :: ls =>
    let s1 := if m then s.storeBytes as (spotWrite f h 0 (addCode f t (s.bytesAt as) l)) else s
    s1.addCodes f t hs xs ms ls
  | _, _, _, _ => s

/-- R150. VSCATADD. With PZERO = 1 the locations of masked-off elements become 0. -/
def vscataddWord : VecEffect := fun die r w s =>
  let e := s.engine die
  let f := memFmt w
  let t := wordEtype w
  let hs := vecSpots e w
  let m := e.mask w
  let need := if wordPzero w then m.map (fun _ => true) else m
  match s.vecElems die r.root f (vecStride e w) true need hs with
  | (s1, .error x) => (s1, some x)
  | (s1, .ok xs) =>
    let y := s1.meetAll ((List.zip m xs).flatMap (fun p => if p.1 then p.2.map (fun a => (a, 1)) else []))
    if y.2 then (y.1, some (0x31, 0))
    else
      let z := y.1.storeCodes f hs xs (m.map (fun b => if b then none else if wordPzero w then some 0 else none))
      ((z.addCodes f t hs xs m ((e.raw t (wordVA w) (wordCount w)).map (laneOf t))).clearCovered (xs.flatMap id), none)

def execVscatadd (die : Die) (w : Word) (v : UnitVote) (s : State) : Out :=
  whenReadyOr s (vecWord die w 0x65 v addTime vscataddWord)

/-! ### Predicates in memory (R149) -/

/-- Bytes of the predicate bits of a word. -/
def predBytes (w : Word) : Nat := ceilDiv (wordCount w) 8

/-- Time of a packed access of predicate bits (log 53). -/
def predOcc (s : State) (die : Nat) (root w : Word) (load : Bool) : Nat × Nat :=
  let x := [(vecBase (s.engine die) w, predBytes w)]
  if s.reachesOther root die x then (ceilDiv (predBytes w) 464, 64)
  else (max (wordUnits w (wordEtype w)) (ceilDiv (predBytes w) 4096), if load then 24 else 8)

def vldpTime : Nat → VecRun → Word → State → WordTime := fun die r w s =>
  let x := predOcc s die r.root w true
  (x.1, x.2, nameS (4 * wordBlock w) :: nameMem (vecBase (s.engine die) w) (predBytes w) :: sourceNames w,
   [nameP (wordVD w % 8)])

def vstpTime : Nat → VecRun → Word → State → WordTime := fun die r w s =>
  let x := predOcc s die r.root w false
  (x.1, x.2, nameS (4 * wordBlock w) :: nameP (wordVA w % 8) :: sourceNames w,
   [nameMem (vecBase (s.engine die) w) (predBytes w)])

/-- Bits of bytes, lowest first. -/
def bitsOf (bs : List Byte) : List Bool := bs.flatMap (fun b => (List.range 8).map (fun i => bit b.toNat i))

/-- Bytes of bits, lowest first; the bits beyond them are those of the old bytes. -/
def bytesOf : List Bool → List Byte
  | b0 :: b1 :: b2 :: b3 :: b4 :: b5 :: b6 :: b7 :: rest =>
    BitVec.ofNat 8 (flagBits [b0, b1, b2, b3, b4, b5, b6, b7]) :: bytesOf rest
  | _ => []

/-- VLDP: bit j is bit j & 7 of byte j >> 3. -/
def vldpWord : VecEffect := fun die r w s =>
  match s.vecBytes r.root (allowVec die 0) false (vecBase (s.engine die) w) (predBytes w) with
  | (s1, .error x) => (s1, some x)
  | (s1, .ok as) =>
    let y := s1.meetAll (as.map (fun a => (a, 1)))
    if y.2 then (y.1, some (0x31, 0))
    else (y.1.writePred die w ((bitsOf (as.map y.1.mem.ram.get)).take (wordCount w)), none)

/-- Predicate bits over the old ones. -/
def overlay : List (Option Bool) → List Bool → List Bool
  | x :: xs, o :: os => x.getD o :: overlay xs os
  | _, os => os

/-- VSTP: predicate VA[2:0] as packed bits; bits beyond the count stay. -/
def vstpWord : VecEffect := fun die r w s =>
  let e := s.engine die
  match s.vecBytes r.root (allowVec die 0) true (vecBase e w) (predBytes w) with
  | (s1, .error x) => (s1, some x)
  | (s1, .ok as) =>
    let new := (masked (wordPzero w) (e.mask w) ((e.preds (wordVA w % 8) (wordCount w)).map bitOf)).map (·.map (· == 1))
    ((s1.storeBytes as (bytesOf (overlay new (bitsOf (as.map s1.mem.ram.get))))).clearCovered as, none)

def execVldp (die : Die) (w : Word) (v : UnitVote) (s : State) : Out := whenReadyOr s (vecWord die w 0x66 v vldpTime vldpWord)
def execVstp (die : Die) (w : Word) (v : UnitVote) (s : State) : Out := whenReadyOr s (vecWord die w 0x67 v vstpTime vstpWord)

/-! ### Function tables (R154, R155) -/

/-- c0 and c1 of a segment. -/
def segC0 (x : BitVec 64) : Val := decodeFloat fmtA24 (bits x.toNat 23 0)
def segC1 (x : BitVec 64) : Val := decodeFloat fmtA24 (bits x.toNat 55 32)

/-- R155: the exact value of a table at BF16 bits h, given the segment h names. -/
def lookup (seg : BitVec 64) (h : Nat) : Val :=
  match decodeFloat fmtBF16 h with
  | .nan => .nan
  | .inf _ => segC0 seg
  | x => (segC0 seg).add ((segC1 seg).mul (x.sub (decodeFloat fmtBF16 (h / 16 * 16))))

/-- Evaluates slot `k` of a pair (0 forward, 1 derivative) on BF16 elements of VA. -/
def lutWord (k : Nat) : VecEffect := fun die _ w s =>
  let e := s.engine die
  let slot := 2 * (wordVB w % 8) + k
  let hs := e.raw etBF16 (wordVA w) (wordCount w)
  let y := s.meetAll (hs.map (fun h => (hiddenAddr 6 die (slot * 32768 + h / 16 * 8), 8)))
  if y.2 then (y.1, some (0x31, 0))
  else
    (y.1.writeElems die w (e.inputs w) (hs.map (fun h =>
      some (roundFloat (etFloat (wordEtype w)) (rndOf w) (lookup (e.tables.get (slot * 4096 + h / 16)) h)))), none)

/-- The name by which a table load waits for lookups (R154). -/
def nameLookup : Nat × Nat := (138, 139)

def lutTime (k : Nat) : Nat → VecRun → Word → State → WordTime := fun _ _ w _ =>
  (wordUnits w (wordEtype w), 20, [nameV (wordVA w), nameTable (2 * (wordVB w % 8) + k)] ++ sourceNames w,
   nameLookup :: nameReg (wordEtype w) (wordVD w))

/-- R155. VLUT: the forward table of pair VB[2:0]. -/
def vlutWord : VecEffect := lutWord 0
/-- R155. VLUTD: its derivative table. -/
def vlutdWord : VecEffect := lutWord 1

def execVlut (die : Die) (w : Word) (v : UnitVote) (s : State) : Out := whenReadyOr s (vecWord die w 0x68 v (lutTime 0) vlutWord)
def execVlutd (die : Die) (w : Word) (v : UnitVote) (s : State) : Out :=
  whenReadyOr s (vecWord die w 0x69 v (lutTime 1) vlutdWord)

/-- Slot of a table word: VD[3:0]. -/
def tableSlot (w : Word) : Nat := wordVD w % 16

/-- c0 and c1 in their places, the other bits as given. -/
def segWord (x : Nat) (free : Nat) : Nat :=
  bits x 23 0 + free % 256 * 2 ^ 24 + bits x 55 32 * 2 ^ 32 + free / 256 % 256 * 2 ^ 56

def vtblldTime : Nat → VecRun → Word → State → WordTime := fun die _ w s =>
  (64, 64, [nameS (4 * wordBlock w), nameLookup, nameMem (vecBase (s.engine die) w) 32768], [nameTable (tableSlot w)])

def vtblstTime : Nat → VecRun → Word → State → WordTime := fun die _ w s =>
  (64, 64, [nameS (4 * wordBlock w), nameTable (tableSlot w)], [nameMem (vecBase (s.engine die) w) 32768])

/-- VTBLLD: slot VD[3:0] from the image at S[4b]. -/
def vtblldWord : VecEffect := fun die r w s =>
  let a := vecBase (s.engine die) w
  if a % 8 ≠ 0 then (s, some (0x21, virtDetail a))
  else
    match s.readVirt r.root (allowVec die 0) a 32768 with
    | (s1, .error x) => (s1, some (x.status, x.detail))
    | (s1, .ok bs) =>
      let e := s1.engine die
      let s2 := s1.setEngine die { e with tables := e.tables.write (tableSlot w * 4096) (wordsOf 4096 bs) }
      (s2.clearPoison (hiddenAddr 6 die (tableSlot w * 32768)) 32768, none)

/-- Whether `n` bytes can be written, page by page. -/
def State.pagesWritable (s : State) (root : Word) (allow : Allow) : Nat → Nat → Nat → State × Option (Nat × Nat)
  | 0, _, _ => (s, none)
  | fuel + 1, va, n =>
    if n = 0 then (s, none)
    else
      let k := inPage va n
      match s.resolve root allow va k true with
      | (s1, .error x) => (s1, some (x.status, x.detail))
      | (s1, .ok _) => s1.pagesWritable root allow fuel (va + k) (n - k)

/-- VTBLST: the slot in the layout of its image; the bits the layout ignores are a free function of the segment (log 54). -/
def vtblstWord : VecEffect := fun die r w s =>
  let e := s.engine die
  let a := vecBase e w
  let t := tableSlot w
  if a % 8 ≠ 0 then (s, some (0x21, virtDetail a))
  else
    let m := s.meetAll [(hiddenAddr 6 die (t * 32768), 32768)]
    if m.2 then (m.1, some (0x31, 0))
    else
      match m.1.pagesWritable r.root (allowVec die 0) (pageFuel 32768) a 32768 with
      | (s1, some x) => (s1, some x)
      | (s1, none) =>
        let bs := (e.tables.read (t * 4096) 4096).flatMap (fun x => leBytes 8 (segWord x.toNat (Config.segmentSpare x).toNat))
        ((s1.writeVirt r.root (allowVec die 0) a bs).1, none)

def execVtblld (die : Die) (w : Word) (v : UnitVote) (s : State) : Out :=
  whenReadyOr s (vecWord die w 0x6A v vtblldTime vtblldWord)
def execVtblst (die : Die) (w : Word) (v : UnitVote) (s : State) : Out :=
  whenReadyOr s (vecWord die w 0x6B v vtblstTime vtblstWord)

end Sys2Proof.Machine
end

