-- ==== Sys2Proof/Machine/VecReduce.lean ====
section
/-! DEFINITION. The reductions, summary register words, VDROP and GSTAT of the vector engine (R158 to R161, R165). -/

namespace Sys2Proof.Machine

/-! ### Present elements -/

/-- Elements with their numbers whose mask bit is 1. -/
def presentFrom : Nat → List Bool → List Lane → List (Nat × Lane)
  | j, m :: ms, l :: ls => if m then (j, l) :: presentFrom (j + 1) ms ls else presentFrom (j + 1) ms ls
  | _, _, _ => []

/-- Elements of VA that the mask leaves. -/
def Engine.present (e : Engine) (w : Word) : List (Nat × Lane) :=
  presentFrom 0 (e.mask w) ((e.raw (wordEtype w) (wordVA w) (wordCount w)).map (laneOf (wordEtype w)))

/-! ### Sums (R159) -/

/-- Exact squares. -/
def squares (xs : List (Nat × Lane)) : List (Nat × Lane) :=
  xs.map (fun x => (x.1, (x.2.1.mul x.2.1, x.2.2 * x.2.2)))

/-- R159: float sum: groups of 2,048 by element number, each added exactly and rounded once, then the tree of R82. -/
def floatSum (xs : List (Nat × Lane)) : BitVec 24 :=
  let groups := (List.range 32).filterMap (fun g =>
    match (xs.filter (fun x => x.1 / 2048 == g)).map (fun x => x.2.1) with
    | [] => none
    | vs => some (g, tileSum vs))
  (openTree groups).getD a24Zero

/-- R159: integer sum, exact. -/
def intSum (xs : List (Nat × Lane)) : Int := xs.foldl (fun a x => a + x.2.2) 0

/-- A value saturated to INT32, as VALUE. -/
def valueInt (x : Int) : Nat := natOfInt 32 (satInt etINT32 x)

/-- R159: a sum into Q[VD[3:0]]; with VC[0] = 1 on top of what it holds: for integers the exact sum, saturated once (DESIGN CHOICE,
log 79). -/
def sumInto (sq : Bool) : VecEffect := fun die _ w s =>
  let e := s.engine die
  let xs := if sq then squares (e.present w) else e.present w
  let d := wordVD w % 16
  let q := (e.q.get d).toNat
  let add := wordVC w % 2 == 1
  let ti := isInt (wordEtype w)
  if add && xs.isEmpty then (s, none)
  else if add then
    let v := if ti then valueInt (sintOf 32 q + intSum xs) else (fold (BitVec.ofNat 24 q) (floatSum xs)).toNat
    (s.putQ die d v (q / 2 ^ 32 + xs.length), none)
  else (s.putQ die d (if ti then valueInt (intSum xs) else (floatSum xs).toNat) xs.length, none)

/-- Time of a reduction into Q[VD[3:0]]; it reads Q too when VC[0] = 1. -/
def reduceTime : Nat → VecRun → Word → State → WordTime := fun _ _ w _ =>
  let q := nameQ (wordVD w % 16)
  (wordUnits w (wordEtype w), 32, (if wordVC w % 2 = 1 then [q] else []) ++ sourceNames w, [q])

/-! ### Extremes (R160) -/

/-- Whether the first of two elements that are not NaN wins over the second. -/
abbrev Wins := Lane → Lane → Bool

def winsMax (t : Nat) : Wins := fun a b => if isInt t then decide (b.2 < a.2) else b.1.ordLt a.1
def winsMin (t : Nat) : Wins := fun a b => if isInt t then decide (a.2 < b.2) else a.1.ordLt b.1
def winsAbs (t : Nat) : Wins := fun a b =>
  if isInt t then decide (b.2.natAbs < a.2.natAbs) else b.1.abs.lt a.1.abs

/-- The winner of elements and the number of its first occurrence; a NaN wins over all. -/
def winner (wins : Wins) : Option (Nat × Lane) → List (Nat × Lane) → Option (Nat × Lane)
  | best, [] => best
  | none, x :: xs => winner wins (some x) xs
  | some b, x :: xs =>
    winner wins (some (if b.2.1.isNan then b else if x.2.1.isNan || wins x.2 b.2 then x else b)) xs

/-- VALUE of an element: widened exactly to A24, or INT32. -/
def valueOf (t : Nat) (l : Lane) : Nat := if isInt t then valueInt l.2 else (a24Round l.1).toNat

/-- R160: an extreme into Q[VD[3:0]]. -/
def extremeInto (wins : Nat → Wins) : VecEffect := fun die _ w s =>
  let e := s.engine die
  let t := wordEtype w
  let d := wordVD w % 16
  let q := (e.q.get d).toNat
  match winner (wins t) none (e.present w) with
  | none => if wordVC w % 2 = 1 then (s, none) else (s.putQ die d 0 0, none)
  | some x =>
    let old : Nat × Lane := (q / 2 ^ 32, laneOfQ t q)
    let best := if wordVC w % 2 = 1 then (winner (wins t) (some old) [x]).getD x else x
    (s.putQ die d (valueOf t best.2) best.1, none)

/-- R160. VRCNT: set bits of the effective predicate. AUX is not stated (log 55). -/
def vrcntWord : VecEffect := fun die _ w s =>
  let e := s.engine die
  let n := ((e.mask w).filter id).length
  let d := wordVD w % 16
  let q := (e.q.get d).toNat
  if n = 0 then (if wordVC w % 2 = 1 then (s, none) else (s.putQ die d 0 0, none))
  else
    (s.putQ die d (valueInt (n + (if wordVC w % 2 = 1 then sintOf 32 q else 0)))
      (Config.countAux (e.mask w) (BitVec.ofNat 64 q)).toNat, none)

/-! ### Segments (R161) -/

/-- Elements of segment k of L, numbered within it (log 55). -/
def segment (l k : Nat) (xs : List (Nat × Lane)) : List (Nat × Lane) :=
  (xs.filter (fun x => x.1 / l == k)).map (fun x => (x.1 - k * l, x.2))

/-- Segmented reduction: element k of the pair VD receives the result of segment k. -/
def segmentsInto (f : Nat → List (Nat × Lane) → Nat) : VecEffect := fun die _ w s =>
  let e := s.engine die
  let t := wordEtype w
  let n := wordCount w
  let len := e.sreg (wordVB w % 32)
  let l := if len = 0 then n else min len n
  let xs := e.present w
  let out := if isInt t then etINT32 else etA24
  (s.putElems die out (wordVD w) ((List.range (ceilDiv n l)).map (fun k => some (f t (segment l k xs)))), none)

def segTime : Nat → VecRun → Word → State → WordTime := fun _ _ w _ =>
  (wordUnits w (wordEtype w), 32, nameS (wordVB w % 32) :: sourceNames w, nameReg etA24 (wordVD w))

def segSum (t : Nat) (xs : List (Nat × Lane)) : Nat := if isInt t then valueInt (intSum xs) else (floatSum xs).toNat

def segExtreme (wins : Nat → Wins) (t : Nat) (xs : List (Nat × Lane)) : Nat :=
  match winner (wins t) none xs with
  | none => 0
  | some x => valueOf t x.2

/-! ### The words -/

/-- R159. Sum of present elements. -/
def vrsumWord : VecEffect := sumInto false

def execVrsum (die : Die) (w : Word) (v : UnitVote) (s : State) : Out :=
  whenReadyOr s (vecWord die w 0x70 v reduceTime vrsumWord)

/-- R159. Sum of their exact squares. -/
def vrsumsqWord : VecEffect := sumInto true

def execVrsumsq (die : Die) (w : Word) (v : UnitVote) (s : State) : Out :=
  whenReadyOr s (vecWord die w 0x71 v reduceTime vrsumsqWord)

/-- R160. Greatest element and its first number. -/
def vrmaxWord : VecEffect := extremeInto winsMax

def execVrmax (die : Die) (w : Word) (v : UnitVote) (s : State) : Out :=
  whenReadyOr s (vecWord die w 0x72 v reduceTime vrmaxWord)

/-- R160. Least element and its first number. -/
def vrminWord : VecEffect := extremeInto winsMin

def execVrmin (die : Die) (w : Word) (v : UnitVote) (s : State) : Out :=
  whenReadyOr s (vecWord die w 0x73 v reduceTime vrminWord)

/-- R160. Element of greatest magnitude. -/
def vrmaxabsWord : VecEffect := extremeInto winsAbs

def execVrmaxabs (die : Die) (w : Word) (v : UnitVote) (s : State) : Out :=
  whenReadyOr s (vecWord die w 0x74 v reduceTime vrmaxabsWord)

def execVrcnt (die : Die) (w : Word) (v : UnitVote) (s : State) : Out :=
  whenReadyOr s (vecWord die w 0x75 v reduceTime vrcntWord)

/-- R160. As VRMAX. -/
def vrargmaxWord : VecEffect := extremeInto winsMax

def execVrargmax (die : Die) (w : Word) (v : UnitVote) (s : State) : Out :=
  whenReadyOr s (vecWord die w 0x76 v reduceTime vrargmaxWord)

/-- R161. Sum of each segment. -/
def vsegsumWord : VecEffect := segmentsInto segSum

def execVsegsum (die : Die) (w : Word) (v : UnitVote) (s : State) : Out :=
  whenReadyOr s (vecWord die w 0x77 v segTime vsegsumWord)

/-- R161. Sum of squares of each segment. -/
def vsegsumsqWord : VecEffect := segmentsInto (fun t xs => segSum t (squares xs))

def execVsegsumsq (die : Die) (w : Word) (v : UnitVote) (s : State) : Out :=
  whenReadyOr s (vecWord die w 0x78 v segTime vsegsumsqWord)

/-- R161. Greatest of each segment. -/
def vsegmaxWord : VecEffect := segmentsInto (segExtreme winsMax)

def execVsegmax (die : Die) (w : Word) (v : UnitVote) (s : State) : Out :=
  whenReadyOr s (vecWord die w 0x79 v segTime vsegmaxWord)

/-- R161. Least of each segment. -/
def vsegminWord : VecEffect := segmentsInto (segExtreme winsMin)

def execVsegmin (die : Die) (w : Word) (v : UnitVote) (s : State) : Out :=
  whenReadyOr s (vecWord die w 0x7A v segTime vsegminWord)

/-- R161. Greatest magnitude of each segment. -/
def vsegmaxabsWord : VecEffect := segmentsInto (segExtreme winsAbs)

def execVsegmaxabs (die : Die) (w : Word) (v : UnitVote) (s : State) : Out :=
  whenReadyOr s (vecWord die w 0x7B v segTime vsegmaxabsWord)

/-- R160. QCLR: the whole register. -/
def qclrWord : VecEffect := fun die _ w s => (s.putQ die (wordVD w % 16) 0 0, none)

/-- R135, R144. QSET: all 64 bits of S[VA[4:0]]. -/
def qsetWord : VecEffect := fun die _ w s =>
  let x := (s.engine die).sreg (wordVA w % 32)
  (s.putQ die (wordVD w % 16) x (x / 2 ^ 32), none)

/-- R135. QMOV: all 64 bits of Q[VA[3:0]]. -/
def qmovWord : VecEffect := fun die _ w s =>
  let x := ((s.engine die).q.get (wordVA w % 16)).toNat
  (s.putQ die (wordVD w % 16) x (x / 2 ^ 32), none)

/-- Time of a word that copies into Q[VD[3:0]]. -/
def copyTime (from_ : Word → List (Nat × Nat)) : Nat → VecRun → Word → State → WordTime := fun _ _ w _ =>
  (wordUnits w (wordEtype w), 32, from_ w, [nameQ (wordVD w % 16)])

def execQclr (die : Die) (w : Word) (v : UnitVote) (s : State) : Out :=
  whenReadyOr s (vecWord die w 0x7C v (copyTime (fun _ => [])) qclrWord)

def execQset (die : Die) (w : Word) (v : UnitVote) (s : State) : Out :=
  whenReadyOr s (vecWord die w 0x7D v (copyTime (fun w => [nameS (wordVA w % 32)])) qsetWord)

def execQmov (die : Die) (w : Word) (v : UnitVote) (s : State) : Out :=
  whenReadyOr s (vecWord die w 0x7E v (copyTime (fun w => [nameQ (wordVA w % 16)])) qmovWord)

/-! ### Random and statistics -/

/-- R158. VDROP: 1 where the random word of the element is at least the threshold S[4b][31:0]. -/
def vdropWord : VecEffect := fun die r w s =>
  let e := s.engine die
  let thr := e.sreg (4 * wordBlock w) % 2 ^ 32
  (s.writePred die w ((List.range (wordCount w)).map (fun j => decide (thr ≤ (drawWord e r w 4 j).toNat))), none)

/-- R165. GSTAT: folds the sum of squares into LOCAL_SQ of group S[4b][7:0] and adds S[4b][47:16] to LOCAL_UNITS. For an
integer ETYPE the manual does not state how an INT32 folds into an A24 (log 55). -/
def gstatWord : VecEffect := fun die _ w s =>
  let e := s.engine die
  let x := e.sreg (4 * wordBlock w)
  let k := x % 256
  let old := e.gstat.get (0, 0) k
  let sq := if isInt (wordEtype w) then Config.integerStat old.1 ((e.present w).map (·.2.2))
    else fold old.1 (floatSum (squares (e.present w)))
  (s.setEngine die { e with gstat := e.gstat.set (0, 0) k (sq, (old.2 + x / 2 ^ 16 % 2 ^ 32) % 2 ^ 64) }, none)

def gstatTime : Nat → VecRun → Word → State → WordTime := fun _ _ w _ =>
  (wordUnits w (wordEtype w), 32, [nameS (4 * wordBlock w), nameGstat] ++ sourceNames w, [nameGstat])

def dropNames (w : Word) : List (Nat × Nat) := [nameS (4 * wordBlock w), nameS (4 * wordBlock w + 2)]

def execVdrop (die : Die) (w : Word) (v : UnitVote) (s : State) : Out :=
  whenReadyOr s (vecWord die w 0x80 v (predTime dropNames) vdropWord)

def execGstat (die : Die) (w : Word) (v : UnitVote) (s : State) : Out :=
  whenReadyOr s (vecWord die w 0x81 v gstatTime gstatWord)

end Sys2Proof.Machine
end

