-- ==== Sys2Proof/Machine/VecScalar.lean ====
section
/-! DEFINITION. The scalar words of the vector engine (R141, R142). -/

namespace Sys2Proof.Machine

/-- Runs a scalar word: the engine after it, and the next word. Under FULL the scalar unit is duplicated, and a disagreement is
voted on (R289, R297). -/
def State.runScalar (s : State) (d : Nat) (r : VecRun) (v : UnitVote) (t : WordTime) (f : Engine → VecRun → Engine × Nat) : State :=
  let checked := r.check == 3
  if checked && v == .mismatch then (s.vectorVote d r true).spoilWord d r 0x30 t
  else
    let voted := checked && v != .agree
    let s1 := s.onlyIf voted (fun x => x.vectorVote d r false)
    let r1 : VecRun := { r with masked := r.masked || voted }
    let x := f (s1.engine d) r1
    s1.setEngine d { x.1 with run := some (r1.advance x.2 (checkedOcc checked voted t.1) t) }

/-- A scalar word of one opcode, if it is the one the engine is about to execute. -/
def scalarWord (die : Die) (w : Word) (op : Nat) (reads writes : List Nat) (f : Engine → VecRun → Engine × Nat) (v : UnitVote)
    (s : State) : Option State :=
  let d := dieIndex die
  match s.atWord d w op with
  | none => none
  | some r => some ((s.acting r.op).runScalar d r v (1, 1, reads.map nameS, writes.map nameS) f)

/-- IMM sign-extended to 64 bits. -/
def sextImm (w : Word) : Nat := natOfInt 64 (sintOf 32 (wordImm w))

/-- SLOOP: the counter, unsigned, and the next word. -/
def loopStep (w : Word) (e : Engine) (r : VecRun) : Engine × Nat :=
  let n := e.sreg (wordSD w)
  if 1 < n then (e.setS (wordSD w) (n - 1), wordImm w) else (e.setS (wordSD w) 0, r.pc + 1)

/-- The condition of an SJUMP, in SD[1:0]. -/
def jumpHolds (w : Word) (e : Engine) : Bool :=
  let a := e.sreg (wordSA w)
  match wordSD w % 4 with
  | 0 => true
  | 1 => a == 0
  | 2 => a != 0
  | _ => decide (sintOf 64 a < sintOf 64 (e.sreg (wordSB w)))

/-- R142. Does nothing. -/
def snopWord (die : Die) (w : Word) (v : UnitVote) (s : State) : Option State :=
  scalarWord die w 0x00 [] [] (fun e r => (e, r.pc + 1)) v s

def execSnop (die : Die) (w : ScalarIssue) (s : State) : Out := whenReadyOr s (snopWord die w.word w.vote)

/-- R142. The program ends. -/
def sendWord (die : Die) (w : Word) (v : UnitVote) (s : State) : Option State :=
  scalarWord die w 0x01 [] [] (fun e r => (e, r.prog.length)) v s

def execSend (die : Die) (w : ScalarIssue) (s : State) : Out := whenReadyOr s (sendWord die w.word w.vote)

/-- R142. S[SD] = sext(IMM). -/
def smoviWord (die : Die) (w : Word) (v : UnitVote) (s : State) : Option State :=
  scalarWord die w 0x02 [] [wordSD w] (fun e r => (e.setS (wordSD w) (sextImm w), r.pc + 1)) v s

def execSmovi (die : Die) (w : ScalarIssue) (s : State) : Out := whenReadyOr s (smoviWord die w.word w.vote)

/-- R142. S[SD][63:32] = IMM. -/
def smovhiWord (die : Die) (w : Word) (v : UnitVote) (s : State) : Option State :=
  scalarWord die w 0x03 [wordSD w] [wordSD w] (fun e r => (e.setS (wordSD w) (wordImm w * 2 ^ 32 + e.sreg (wordSD w) % 2 ^ 32), r.pc + 1)) v s

def execSmovhi (die : Die) (w : ScalarIssue) (s : State) : Out := whenReadyOr s (smovhiWord die w.word w.vote)

/-- R142. S[SD] = S[SA]. -/
def smovWord (die : Die) (w : Word) (v : UnitVote) (s : State) : Option State :=
  scalarWord die w 0x04 [wordSA w] [wordSD w] (fun e r => (e.setS (wordSD w) (e.sreg (wordSA w)), r.pc + 1)) v s

def execSmov (die : Die) (w : ScalarIssue) (s : State) : Out := whenReadyOr s (smovWord die w.word w.vote)

/-- R142. S[SD] = S[SA] + S[SB]. -/
def saddWord (die : Die) (w : Word) (v : UnitVote) (s : State) : Option State :=
  scalarWord die w 0x05 [wordSA w, wordSB w] [wordSD w] (fun e r => (e.setS (wordSD w) (e.sreg (wordSA w) + e.sreg (wordSB w)), r.pc + 1)) v s

def execSadd (die : Die) (w : ScalarIssue) (s : State) : Out := whenReadyOr s (saddWord die w.word w.vote)

/-- R142. S[SD] = S[SA] + sext(IMM). -/
def saddiWord (die : Die) (w : Word) (v : UnitVote) (s : State) : Option State :=
  scalarWord die w 0x06 [wordSA w] [wordSD w] (fun e r => (e.setS (wordSD w) (e.sreg (wordSA w) + sextImm w), r.pc + 1)) v s

def execSaddi (die : Die) (w : ScalarIssue) (s : State) : Out := whenReadyOr s (saddiWord die w.word w.vote)

/-- R142. S[SD] = S[SA] − S[SB]. -/
def ssubWord (die : Die) (w : Word) (v : UnitVote) (s : State) : Option State :=
  scalarWord die w 0x07 [wordSA w, wordSB w] [wordSD w] (fun e r => (e.setS (wordSD w) (e.sreg (wordSA w) + 2 ^ 64 - e.sreg (wordSB w)), r.pc + 1)) v s

def execSsub (die : Die) (w : ScalarIssue) (s : State) : Out := whenReadyOr s (ssubWord die w.word w.vote)

/-- R142. S[SD] = the low 64 bits of the product. -/
def smulWord (die : Die) (w : Word) (v : UnitVote) (s : State) : Option State :=
  scalarWord die w 0x08 [wordSA w, wordSB w] [wordSD w] (fun e r => (e.setS (wordSD w) (e.sreg (wordSA w) * e.sreg (wordSB w)), r.pc + 1)) v s

def execSmul (die : Die) (w : ScalarIssue) (s : State) : Out := whenReadyOr s (smulWord die w.word w.vote)

/-- R142. S[SD] = S[SA] AND S[SB]. -/
def sandWord (die : Die) (w : Word) (v : UnitVote) (s : State) : Option State :=
  scalarWord die w 0x09 [wordSA w, wordSB w] [wordSD w] (fun e r => (e.setS (wordSD w) (Nat.land (e.sreg (wordSA w)) (e.sreg (wordSB w))), r.pc + 1)) v s

def execSand (die : Die) (w : ScalarIssue) (s : State) : Out := whenReadyOr s (sandWord die w.word w.vote)

/-- R142. S[SD] = S[SA] OR S[SB]. -/
def sorWord (die : Die) (w : Word) (v : UnitVote) (s : State) : Option State :=
  scalarWord die w 0x0A [wordSA w, wordSB w] [wordSD w] (fun e r => (e.setS (wordSD w) (Nat.lor (e.sreg (wordSA w)) (e.sreg (wordSB w))), r.pc + 1)) v s

def execSor (die : Die) (w : ScalarIssue) (s : State) : Out := whenReadyOr s (sorWord die w.word w.vote)

/-- R142. S[SD] = S[SA] XOR S[SB]. -/
def sxorWord (die : Die) (w : Word) (v : UnitVote) (s : State) : Option State :=
  scalarWord die w 0x0B [wordSA w, wordSB w] [wordSD w] (fun e r => (e.setS (wordSD w) (Nat.xor (e.sreg (wordSA w)) (e.sreg (wordSB w))), r.pc + 1)) v s

def execSxor (die : Die) (w : ScalarIssue) (s : State) : Out := whenReadyOr s (sxorWord die w.word w.vote)

/-- R142. S[SD] = S[SA] << (S[SB] mod 64). -/
def sshlWord (die : Die) (w : Word) (v : UnitVote) (s : State) : Option State :=
  scalarWord die w 0x0C [wordSA w, wordSB w] [wordSD w] (fun e r => (e.setS (wordSD w) (e.sreg (wordSA w) * 2 ^ (e.sreg (wordSB w) % 64)), r.pc + 1)) v s

def execSshl (die : Die) (w : ScalarIssue) (s : State) : Out := whenReadyOr s (sshlWord die w.word w.vote)

/-- R142. S[SD] = S[SA] >> (S[SB] mod 64), zeros shifted in. -/
def sshrWord (die : Die) (w : Word) (v : UnitVote) (s : State) : Option State :=
  scalarWord die w 0x0D [wordSA w, wordSB w] [wordSD w] (fun e r => (e.setS (wordSD w) (e.sreg (wordSA w) / 2 ^ (e.sreg (wordSB w) % 64)), r.pc + 1)) v s

def execSshr (die : Die) (w : ScalarIssue) (s : State) : Out := whenReadyOr s (sshrWord die w.word w.vote)

/-- R142. The loop rule: back to IMM while the counter exceeds 1. -/
def sloopWord (die : Die) (w : Word) (v : UnitVote) (s : State) : Option State :=
  scalarWord die w 0x0E [wordSD w] [wordSD w] (loopStep w) v s

def execSloop (die : Die) (w : ScalarIssue) (s : State) : Out := whenReadyOr s (sloopWord die w.word w.vote)

/-- R142. Jumps to IMM when its condition holds. -/
def sjumpWord (die : Die) (w : Word) (v : UnitVote) (s : State) : Option State :=
  scalarWord die w 0x0F [wordSA w, wordSB w] [] (fun e r => (e, if jumpHolds w e then wordImm w else r.pc + 1)) v s

def execSjump (die : Die) (w : ScalarIssue) (s : State) : Out := whenReadyOr s (sjumpWord die w.word w.vote)

end Sys2Proof.Machine
end

