-- ==== Sys2Proof/Machine/Dispatch.lean ====
section
/-! DEFINITION. One arm per command: its meaning, or its refusal by name. -/

namespace Sys2Proof.Machine

/-- The effect of a command on everything but the queue. -/
def exec (i : Instr) (s : State) : Host.Outcome State Fault Refusal :=
  match i with
  | .powerOn tray slot => Sys2Proof.Machine.execPowerOn tray slot s
  | .rootPllLock run => Sys2Proof.Machine.execRootPllLock run s
  | .refclkStartTimeout => Sys2Proof.Machine.execRefclkStartTimeout s
  | .imageTrialTimeout => Sys2Proof.Machine.execImageTrialTimeout s
  | .supplyLoss => Sys2Proof.Machine.execSupplyLoss s
  | .moduleReset => Sys2Proof.Machine.execModuleReset s
  | .pcieConventionalReset => Sys2Proof.Machine.execPcieConventionalReset s
  | .pcieLinkTraining => Sys2Proof.Machine.execPcieLinkTraining s
  | .flr => Sys2Proof.Machine.execFlr s
  | .powerStateD3hot => Sys2Proof.Machine.execPowerStateD3hot s
  | .powerStateD0 => Sys2Proof.Machine.execPowerStateD0 s
  | .refclkLoss => Sys2Proof.Machine.execRefclkLoss s
  | .lockstep => Sys2Proof.Machine.execLockstep s
  | .lockstepReportRepeat => Sys2Proof.Machine.execLockstepReportRepeat s
  | .thermtrip part temp => Sys2Proof.Machine.execThermtrip part temp s
  | .watchdog core served retire => Sys2Proof.Machine.execWatchdog core served retire s
  | .packageLinkFailed link => Sys2Proof.Machine.execPackageLinkFailed link s
  | .sensorSample r => Sys2Proof.Machine.execSensorSample r s
  | .thetaCorrection c0 c1 x => Sys2Proof.Machine.execThetaCorrection c0 c1 x s
  | .standingLoadUpdate => Sys2Proof.Machine.execStandingLoadUpdate s
  | .powerSample mw vinMv iin10ma => Sys2Proof.Machine.execPowerSample mw vinMv iin10ma s
  | .clampRelease => Sys2Proof.Machine.execClampRelease s
  | .stretchAdjust => Sys2Proof.Machine.execStretchAdjust s
  | .frankGrant req => Sys2Proof.Machine.execFrankGrant req s
  | .frankRetry => Sys2Proof.Machine.execFrankRetry s
  | .frankAged req => Sys2Proof.Machine.execFrankAged req s
  | .frankTimeout req => Sys2Proof.Machine.execFrankTimeout req s
  | .plateCool => Sys2Proof.Machine.execPlateCool s
  | .scrubRead mem addr found => Sys2Proof.Machine.execScrubRead mem addr found s
  | .doorbellPoll => Sys2Proof.Machine.execDoorbellPoll s
  | .doorbellPollDone r => Sys2Proof.Machine.execDoorbellPollDone r s
  | .nudge v => Sys2Proof.Machine.execNudge v s
  | .commandFetch ring r => Sys2Proof.Machine.execCommandFetch ring r s
  | .ringEnable ring a => Sys2Proof.Machine.execRingEnable ring a s
  | .cqEnable q a => Sys2Proof.Machine.execCqEnable q a s
  | .eventQueueEnable a => Sys2Proof.Machine.execEventQueueEnable a s
  | .cqIrqTimer q => Sys2Proof.Machine.execCqIrqTimer q s
  | .msixUnmask v => Sys2Proof.Machine.execMsixUnmask v s
  | .bar2Read off n => Sys2Proof.Machine.execBar2Read off n s
  | .bar2Write off bytes => Sys2Proof.Machine.execBar2Write off bytes s
  | .semValueWrite ix v next => Sys2Proof.Machine.execSemValueWrite ix v next s
  | .semAddWindowWrite ix v next => Sys2Proof.Machine.execSemAddWindowWrite ix v next s
  | .jobSeedWrite a => Sys2Proof.Machine.execJobSeedWrite a s
  | .ptInvalidate a => Sys2Proof.Machine.execPtInvalidate a s
  | .ptInvalidateDone => Sys2Proof.Machine.execPtInvalidateDone s
  | .topologyGenWrite a => Sys2Proof.Machine.execTopologyGenWrite a s
  | .nodeIdWrite a => Sys2Proof.Machine.execNodeIdWrite a s
  | .portCfgWrite port a => Sys2Proof.Machine.execPortCfgWrite port a s
  | .netConfigWrite r a => Sys2Proof.Machine.execNetConfigWrite r a s
  | .qpLoad target qp => Sys2Proof.Machine.execQpLoad target qp s
  | .qpReset target qp => Sys2Proof.Machine.execQpReset target qp s
  | .powerLimitWrite a => Sys2Proof.Machine.execPowerLimitWrite a s
  | .ethLoopWrite port a => Sys2Proof.Machine.execEthLoopWrite port a s
  | .pcieLoopWrite a => Sys2Proof.Machine.execPcieLoopWrite a s
  | .pcieLoopEnd errors lanes => Sys2Proof.Machine.execPcieLoopEnd errors lanes s
  | .hbmTestStart a => Sys2Proof.Machine.execHbmTestStart a s
  | .hbmTestDone pass fails firstRow => Sys2Proof.Machine.execHbmTestDone pass fails firstRow s
  | .registerWrite off a => Sys2Proof.Machine.execRegisterWrite off a s
  | .fwBegin r flashOk => Sys2Proof.Machine.execFwBegin r flashOk s
  | .fwWrite r flashOk => Sys2Proof.Machine.execFwWrite r flashOk s
  | .fwVerify r => Sys2Proof.Machine.execFwVerify r s
  | .fwActivate r flashOk => Sys2Proof.Machine.execFwActivate r flashOk s
  | .fwAbort r => Sys2Proof.Machine.execFwAbort r s
  | .fwCommit r => Sys2Proof.Machine.execFwCommit r s
  | .fwLockTimeout => Sys2Proof.Machine.execFwLockTimeout s
  | .setEndpointId requester eid => Sys2Proof.Machine.execSetEndpointId requester eid s
  | .i3cAddressAssign addr => Sys2Proof.Machine.execI3cAddressAssign addr s
  | .reportAck seq => Sys2Proof.Machine.execReportAck seq s
  | .setBoardCap seq watts => Sys2Proof.Machine.execSetBoardCap seq watts s
  | .getStatus seq => Sys2Proof.Machine.execGetStatus seq s
  | .setCollector seq ip udp iface => Sys2Proof.Machine.execSetCollector seq ip udp iface s
  | .faultReport => Sys2Proof.Machine.execFaultReport s
  | .reportResend => Sys2Proof.Machine.execReportResend s
  | .getVersion t => Sys2Proof.Machine.execGetVersion t s
  | .getCapabilities t => Sys2Proof.Machine.execGetCapabilities t s
  | .negotiateAlgorithms t offered => Sys2Proof.Machine.execNegotiateAlgorithms t offered s
  | .getDigests t => Sys2Proof.Machine.execGetDigests t s
  | .getCertificate t slot off len => Sys2Proof.Machine.execGetCertificate t slot off len s
  | .challenge t slot nonce => Sys2Proof.Machine.execChallenge t slot nonce s
  | .getMeasurements t index signed nonce => Sys2Proof.Machine.execGetMeasurements t index signed nonce s
  | .keyExchange t body => Sys2Proof.Machine.execKeyExchange t body s
  | .finish t body => Sys2Proof.Machine.execFinish t body s
  | .endSession t => Sys2Proof.Machine.execEndSession t s
  | .heartbeat t => Sys2Proof.Machine.execHeartbeat t s
  | .keyUpdate t => Sys2Proof.Machine.execKeyUpdate t s
  | .spdmUnsupportedRequest t code => Sys2Proof.Machine.execSpdmUnsupportedRequest t code s
  | .ideKm k => Sys2Proof.Machine.execIdeKm k s
  | .ideFailed => Sys2Proof.Machine.execIdeFailed s
  | .opProgram ring => Sys2Proof.Machine.execOpProgram ring s
  | .opTake ring => Sys2Proof.Machine.execOpTake ring s
  | .dmaCopy ring => Sys2Proof.Machine.execDmaCopy ring s
  | .hostReadCompletion ring r => Sys2Proof.Machine.execHostReadCompletion ring r s
  | .stepMark ring => Sys2Proof.Machine.execStepMark ring s
  | .proveStatus ring => Sys2Proof.Machine.execProveStatus ring s
  | .snapshot ring => Sys2Proof.Machine.execSnapshot ring s
  | .checkpoint ring => Sys2Proof.Machine.execCheckpoint ring s
  | .evacuate ring => Sys2Proof.Machine.execEvacuate ring s
  | .handover ring run => Sys2Proof.Machine.execHandover ring run s
  | .fence ring => Sys2Proof.Machine.execFence ring s
  | .scaleSet ring => Sys2Proof.Machine.execScaleSet ring s
  | .fieldTest ring run => Sys2Proof.Machine.execFieldTest ring run s
  | .groupSetup ring => Sys2Proof.Machine.execGroupSetup ring s
  | .mirrorSetup ring => Sys2Proof.Machine.execMirrorSetup ring s
  | .counterRead ring => Sys2Proof.Machine.execCounterRead ring s
  | .matmul op => Sys2Proof.Machine.execMatmul op s
  | .platePassEnd op c f => Sys2Proof.Machine.execPlatePassEnd op c f s
  | .fullVotePass op v => Sys2Proof.Machine.execFullVotePass op v s
  | .blockDrain op v => Sys2Proof.Machine.execBlockDrain op v s
  | .matmulRunEnd op => Sys2Proof.Machine.execMatmulRunEnd op s
  | .matmulBracket op => Sys2Proof.Machine.execMatmulBracket op s
  | .matmulComplete op => Sys2Proof.Machine.execMatmulComplete op s
  | .vec op => Sys2Proof.Machine.execVec op s
  | .vecComplete op => Sys2Proof.Machine.execVecComplete op s
  | .branch op => Sys2Proof.Machine.execBranch op s
  | .branchDecision op => Sys2Proof.Machine.execBranchDecision op s
  | .branchTimeout op => Sys2Proof.Machine.execBranchTimeout op s
  | .move op => Sys2Proof.Machine.execMove op s
  | .signal op => Sys2Proof.Machine.execSignal op s
  | .wait op => Sys2Proof.Machine.execWait op s
  | .waitTimeout op => Sys2Proof.Machine.execWaitTimeout op s
  | .step op => Sys2Proof.Machine.execStep op s
  | .stepBoundary => Sys2Proof.Machine.execStepBoundary s
  | .coll c => Sys2Proof.Machine.execColl c s
  | .collComplete op => Sys2Proof.Machine.execCollComplete op s
  | .collSilenceHello who rank => Sys2Proof.Machine.execCollSilenceHello who rank s
  | .collPeerTimeout op rank => Sys2Proof.Machine.execCollPeerTimeout op rank s
  | .linkDown port fall => Sys2Proof.Machine.execLinkDown port fall s
  | .linkUp port => Sys2Proof.Machine.execLinkUp port s
  | .lldpSend => Sys2Proof.Machine.execLldpSend s
  | .lldpduReceive port l => Sys2Proof.Machine.execLldpduReceive port l s
  | .labelTimeout port => Sys2Proof.Machine.execLabelTimeout port s
  | .yehosenWrite port hdr payload => Sys2Proof.Machine.execYehosenWrite port hdr payload s
  | .yehosenReadReq port hdr payload => Sys2Proof.Machine.execYehosenReadReq port hdr payload s
  | .yehosenReadResp port hdr payload => Sys2Proof.Machine.execYehosenReadResp port hdr payload s
  | .yehosenAck port hdr payload => Sys2Proof.Machine.execYehosenAck port hdr payload s
  | .yehosenNak port hdr payload => Sys2Proof.Machine.execYehosenNak port hdr payload s
  | .yehosenSemAdd port hdr payload => Sys2Proof.Machine.execYehosenSemAdd port hdr payload s
  | .yehosenReplayTimeout member => Sys2Proof.Machine.execYehosenReplayTimeout member s
  | .trayPeerTimeout member => Sys2Proof.Machine.execTrayPeerTimeout member s
  | .nptData a h chunk ce v => Sys2Proof.Machine.execNptData a h chunk ce v s
  | .nptAck k => Sys2Proof.Machine.execNptAck k s
  | .nptNack k words => Sys2Proof.Machine.execNptNack k words s
  | .hello k label => Sys2Proof.Machine.execHello k label s
  | .helloAck k label => Sys2Proof.Machine.execHelloAck k label s
  | .nptNackTimer h missing => Sys2Proof.Machine.execNptNackTimer h missing s
  | .nptResendTimeout chunk => Sys2Proof.Machine.execNptResendTimeout chunk s
  | .nptRateIncrease node => Sys2Proof.Machine.execNptRateIncrease node s
  | .verdict k payload => Sys2Proof.Machine.execVerdict k payload s
  | .verdictSilenceTimeout step rank => Sys2Proof.Machine.execVerdictSilenceTimeout step rank s
  | .mirrorPage a h step region page bytes => Sys2Proof.Machine.execMirrorPage a h step region page bytes s
  | .mirrorScaleImage k step image => Sys2Proof.Machine.execMirrorScaleImage k step image s
  | .mirrorAck k step answer => Sys2Proof.Machine.execMirrorAck k step answer s
  | .mirrorLost step silent => Sys2Proof.Machine.execMirrorLost step silent s
  | .roceResponse target qp psn => Sys2Proof.Machine.execRoceResponse target qp psn s
  | .roceCnp target qp => Sys2Proof.Machine.execRoceCnp target qp s
  | .roceRetryTimeout target qp => Sys2Proof.Machine.execRoceRetryTimeout target qp s
  | .neighborSolicitation port ip from_ => Sys2Proof.Machine.execNeighborSolicitation port ip from_ s
  | .routerAdvertisement port mac => Sys2Proof.Machine.execRouterAdvertisement port mac s
  | .snop die w => Sys2Proof.Machine.execSnop die w s
  | .send die w => Sys2Proof.Machine.execSend die w s
  | .smovi die w => Sys2Proof.Machine.execSmovi die w s
  | .smovhi die w => Sys2Proof.Machine.execSmovhi die w s
  | .smov die w => Sys2Proof.Machine.execSmov die w s
  | .sadd die w => Sys2Proof.Machine.execSadd die w s
  | .saddi die w => Sys2Proof.Machine.execSaddi die w s
  | .ssub die w => Sys2Proof.Machine.execSsub die w s
  | .smul die w => Sys2Proof.Machine.execSmul die w s
  | .sand die w => Sys2Proof.Machine.execSand die w s
  | .sor die w => Sys2Proof.Machine.execSor die w s
  | .sxor die w => Sys2Proof.Machine.execSxor die w s
  | .sshl die w => Sys2Proof.Machine.execSshl die w s
  | .sshr die w => Sys2Proof.Machine.execSshr die w s
  | .sloop die w => Sys2Proof.Machine.execSloop die w s
  | .sjump die w => Sys2Proof.Machine.execSjump die w s
  | .vadd die w v => Sys2Proof.Machine.execVadd die w v s
  | .vsub die w v => Sys2Proof.Machine.execVsub die w v s
  | .vmul die w v => Sys2Proof.Machine.execVmul die w v s
  | .vfma die w v => Sys2Proof.Machine.execVfma die w v s
  | .vfms die w v => Sys2Proof.Machine.execVfms die w v s
  | .vnfma die w v => Sys2Proof.Machine.execVnfma die w v s
  | .vdiv die w v => Sys2Proof.Machine.execVdiv die w v s
  | .vsqrt die w v => Sys2Proof.Machine.execVsqrt die w v s
  | .vrsqrt die w v => Sys2Proof.Machine.execVrsqrt die w v s
  | .vrcp die w v => Sys2Proof.Machine.execVrcp die w v s
  | .vsqr die w v => Sys2Proof.Machine.execVsqr die w v s
  | .vmin die w v => Sys2Proof.Machine.execVmin die w v s
  | .vmax die w v => Sys2Proof.Machine.execVmax die w v s
  | .vminabs die w v => Sys2Proof.Machine.execVminabs die w v s
  | .vmaxabs die w v => Sys2Proof.Machine.execVmaxabs die w v s
  | .vabs die w v => Sys2Proof.Machine.execVabs die w v s
  | .vneg die w v => Sys2Proof.Machine.execVneg die w v s
  | .vabsdiff die w v => Sys2Proof.Machine.execVabsdiff die w v s
  | .vsign die w v => Sys2Proof.Machine.execVsign die w v s
  | .vcopysign die w v => Sys2Proof.Machine.execVcopysign die w v s
  | .vscaleb die w v => Sys2Proof.Machine.execVscaleb die w v s
  | .vavg die w v => Sys2Proof.Machine.execVavg die w v s
  | .vlerp die w v => Sys2Proof.Machine.execVlerp die w v s
  | .vclamp die w v => Sys2Proof.Machine.execVclamp die w v s
  | .vand die w v => Sys2Proof.Machine.execVand die w v s
  | .vor die w v => Sys2Proof.Machine.execVor die w v s
  | .vxor die w v => Sys2Proof.Machine.execVxor die w v s
  | .vnot die w v => Sys2Proof.Machine.execVnot die w v s
  | .vshl die w v => Sys2Proof.Machine.execVshl die w v s
  | .vshr die w v => Sys2Proof.Machine.execVshr die w v s
  | .vsra die w v => Sys2Proof.Machine.execVsra die w v s
  | .vpopc die w v => Sys2Proof.Machine.execVpopc die w v s
  | .vclz die w v => Sys2Proof.Machine.execVclz die w v s
  | .vmov die w v => Sys2Proof.Machine.execVmov die w v s
  | .vmovs die w v => Sys2Proof.Machine.execVmovs die w v s
  | .viota die w v => Sys2Proof.Machine.execViota die w v s
  | .vcmpeq die w v => Sys2Proof.Machine.execVcmpeq die w v s
  | .vcmpne die w v => Sys2Proof.Machine.execVcmpne die w v s
  | .vcmplt die w v => Sys2Proof.Machine.execVcmplt die w v s
  | .vcmple die w v => Sys2Proof.Machine.execVcmple die w v s
  | .vcmpgt die w v => Sys2Proof.Machine.execVcmpgt die w v s
  | .vcmpge die w v => Sys2Proof.Machine.execVcmpge die w v s
  | .vcmpun die w v => Sys2Proof.Machine.execVcmpun die w v s
  | .vclass die w v => Sys2Proof.Machine.execVclass die w v s
  | .vsel die w v => Sys2Proof.Machine.execVsel die w v s
  | .pand die w v => Sys2Proof.Machine.execPand die w v s
  | .por die w v => Sys2Proof.Machine.execPor die w v s
  | .pxor die w v => Sys2Proof.Machine.execPxor die w v s
  | .pnot die w v => Sys2Proof.Machine.execPnot die w v s
  | .pset die w v => Sys2Proof.Machine.execPset die w v s
  | .pclr die w v => Sys2Proof.Machine.execPclr die w v s
  | .pmov die w v => Sys2Proof.Machine.execPmov die w v s
  | .vcvt die w v => Sys2Proof.Machine.execVcvt die w v s
  | .vrint die w v => Sys2Proof.Machine.execVrint die w v s
  | .vfloor die w v => Sys2Proof.Machine.execVfloor die w v s
  | .vceil die w v => Sys2Proof.Machine.execVceil die w v s
  | .vtrunc die w v => Sys2Proof.Machine.execVtrunc die w v s
  | .vshiftel die w v => Sys2Proof.Machine.execVshiftel die w v s
  | .vrev die w v => Sys2Proof.Machine.execVrev die w v s
  | .vperm die w v => Sys2Proof.Machine.execVperm die w v s
  | .vzip die w v => Sys2Proof.Machine.execVzip die w v s
  | .vunzip die w v => Sys2Proof.Machine.execVunzip die w v s
  | .vbcast die w v => Sys2Proof.Machine.execVbcast die w v s
  | .vcompress die w v => Sys2Proof.Machine.execVcompress die w v s
  | .vexpand die w v => Sys2Proof.Machine.execVexpand die w v s
  | .vld die w v => Sys2Proof.Machine.execVld die w v s
  | .vst die w v => Sys2Proof.Machine.execVst die w v s
  | .vldb die w v => Sys2Proof.Machine.execVldb die w v s
  | .vgather die w v => Sys2Proof.Machine.execVgather die w v s
  | .vscatter die w v => Sys2Proof.Machine.execVscatter die w v s
  | .vscatadd die w v => Sys2Proof.Machine.execVscatadd die w v s
  | .vldp die w v => Sys2Proof.Machine.execVldp die w v s
  | .vstp die w v => Sys2Proof.Machine.execVstp die w v s
  | .vlut die w v => Sys2Proof.Machine.execVlut die w v s
  | .vlutd die w v => Sys2Proof.Machine.execVlutd die w v s
  | .vtblld die w v => Sys2Proof.Machine.execVtblld die w v s
  | .vtblst die w v => Sys2Proof.Machine.execVtblst die w v s
  | .vrsum die w v => Sys2Proof.Machine.execVrsum die w v s
  | .vrsumsq die w v => Sys2Proof.Machine.execVrsumsq die w v s
  | .vrmax die w v => Sys2Proof.Machine.execVrmax die w v s
  | .vrmin die w v => Sys2Proof.Machine.execVrmin die w v s
  | .vrmaxabs die w v => Sys2Proof.Machine.execVrmaxabs die w v s
  | .vrcnt die w v => Sys2Proof.Machine.execVrcnt die w v s
  | .vrargmax die w v => Sys2Proof.Machine.execVrargmax die w v s
  | .vsegsum die w v => Sys2Proof.Machine.execVsegsum die w v s
  | .vsegsumsq die w v => Sys2Proof.Machine.execVsegsumsq die w v s
  | .vsegmax die w v => Sys2Proof.Machine.execVsegmax die w v s
  | .vsegmin die w v => Sys2Proof.Machine.execVsegmin die w v s
  | .vsegmaxabs die w v => Sys2Proof.Machine.execVsegmaxabs die w v s
  | .qclr die w v => Sys2Proof.Machine.execQclr die w v s
  | .qset die w v => Sys2Proof.Machine.execQset die w v s
  | .qmov die w v => Sys2Proof.Machine.execQmov die w v s
  | .vdrop die w v => Sys2Proof.Machine.execVdrop die w v s
  | .gstat die w v => Sys2Proof.Machine.execGstat die w v s
  | .modResetRelease tray slot => Sys2Proof.Machine.execModResetRelease tray slot s
  | .loopbackFollower => Sys2Proof.Machine.execLoopbackFollower s
  | .committedCutFetch k blocks => Sys2Proof.Machine.execCommittedCutFetch k blocks s
  | .jtagInstruction ix => Sys2Proof.Machine.execJtagInstruction ix s

end Sys2Proof.Machine
end

