-- ==== Sys2Proof/Safety.lean ====
section
/-! DEFINITION. What statements call a sound module, a report, a frame and a balanced count: the vocabulary of the
claims, over the model's own state. -/

namespace Sys2Proof.Machine

/-- No memory error stands or waits: no block is poisoned and no cell error is yet to be met. -/
def State.Sound (s : State) : Prop := s.mem.poison = [] ∧ s.mem.latent = []

/-- An event of a kind and code about a subject is on its way to the management path. -/
def State.Reports (s : State) (kind code subject : Nat) : Prop :=
  ∃ p ∈ s.fw.bound, p.1.kind = kind ∧ p.1.code = code ∧ p.1.subject = BitVec.ofNat 32 subject

/-! ### The choice of images (R376) -/

/-- The image in a slot of a kind, or the result that refuses it. -/
def State.imageIn (s : State) (kind slot : Nat) : Except Nat ImageInfo :=
  checkImage kind s.fuses.fuseCount ((s.bank kind).slot slot)

/-- The boot record holds a pending slot of a kind that has its one try left. -/
def State.freshSlot (s : State) (kind p : Nat) : Prop := (s.bank kind).pending = some p ∧ (s.bank kind).tried = false

/-- A start comes to run the image of a slot: an accepted pending slot, or else the accepted active slot, or the other where the active
one is refused. -/
def State.Chooses (s : State) (kind slot : Nat) (i : ImageInfo) : Prop :=
  s.imageIn kind slot = .ok i ∧
  (s.freshSlot kind slot ∨
    ((∀ p, s.freshSlot kind p → ∃ e, s.imageIn kind p = .error e) ∧
      (slot = (s.bank kind).active ∨ (slot = 1 - (s.bank kind).active ∧ ∃ e, s.imageIn kind (s.bank kind).active = .error e))))

/-- No slot of a kind is accepted. -/
def State.ChoosesNone (s : State) (kind : Nat) : Prop :=
  (∀ p, s.freshSlot kind p → ∃ e, s.imageIn kind p = .error e) ∧
  (∃ e, s.imageIn kind (s.bank kind).active = .error e) ∧ ∃ e, s.imageIn kind (1 - (s.bank kind).active) = .error e

/-- An image on trial has not reached READY. -/
def State.trialOpen (s : State) : Bool :=
  (s.life.phase == .starting || s.life.phase == .held || s.life.phase == .recovery) && (s.fw.gyton.tried || s.fw.rolrohan.tried)

/-- The boot records once the slots on trial are cleared. -/
def ImageBank.cleared (b : ImageBank) : ImageBank := if b.tried then { b with pending := none, tried := false } else b
def State.trialEnded (s : State) : State :=
  { s with fw := { s.fw with gyton := s.fw.gyton.cleared, rolrohan := s.fw.rolrohan.cleared } }

/-! ### A module with nothing to abort -/

/-- No op, program, copy, snapshot, checkpoint, boundary, restore or step is under way, and no spare is scheduled. -/
structure State.Quiet (s : State) : Prop where
  window   : s.seq.window = []
  programs : s.seq.programs = []
  dma      : s.host.dma = []
  snaps    : s.proof.snapshots = []
  ckpt     : s.proof.ckpt = none
  boundary : s.proof.boundary = none
  restore  : s.proof.restore = none
  steps    : s.proof.steps = []
  columns  : s.plate.scheduled = []
  lanes    : s.plate.lanesScheduled = []
  cores    : s.plate.coresScheduled = []

/-- Nothing is kept for the traffic of a port, and nothing waits for its peer. -/
structure State.NoTraffic (s : State) (p : Nat) : Prop where
  chunks   : s.net.out = []
  frames   : (s.channel (s.facedMember p)).unacked = []
  window   : s.seq.window = []
  commands : s.commands = []

/-- A port has no traffic to move when it leaves UP. -/
def State.Still (s : State) (p : Nat) : Prop := (s.port p).state ≠ portUp ∨ s.NoTraffic p

/-- A port that has fallen, with the state it falls into (R234). -/
def State.fallen (s : State) (p : Nat) (x : Port) : Port :=
  { x with state := if s.mayTrain p then portTraining else portDown, dead := 0, negMinor := 0, heard := none, nextHop := none }

/-- One command is in flight, and it waits for nothing. -/
structure State.OnlyCommand (s : State) (ring : Nat) (c : FetchedCmd) : Prop where
  quiet : s.Quiet
  only  : s.commands = [c]
  found : (s.ring ring).cmd c.id = some c

/-! ### Commands -/

/-- The commands that start or reset the module. -/
def isRestart : Instr → Bool
  | .powerOn _ _ => true
  | .rootPllLock _ => true
  | .imageTrialTimeout => true
  | .supplyLoss => true
  | .moduleReset => true
  | .modResetRelease _ _ => true
  | _ => false

/-- The commands that act outside READY too: start-up, resets and stops, the PCIe function, the MAILBOX block and MSI-X
table, Gyton's services and the management path (R376, R378, R382, R385 to R390, R397 to R405, R413). -/
def actsEarly : Instr → Bool
  | .powerOn _ _ => true
  | .rootPllLock _ => true
  | .refclkStartTimeout => true
  | .imageTrialTimeout => true
  | .supplyLoss => true
  | .moduleReset => true
  | .modResetRelease _ _ => true
  | .pcieConventionalReset => true
  | .pcieLinkTraining => true
  | .flr => true
  | .powerStateD3hot => true
  | .powerStateD0 => true
  | .loopbackFollower => true
  | .refclkLoss => true
  | .thermtrip _ _ => true
  | .lockstep => true
  | .lockstepReportRepeat => true
  | .jtagInstruction _ => true
  | .msixUnmask _ => true
  | .registerWrite _ _ => true
  | .fwBegin _ _ => true
  | .fwWrite _ _ => true
  | .fwVerify _ => true
  | .fwActivate _ _ => true
  | .fwAbort _ => true
  | .fwCommit _ => true
  | .fwLockTimeout => true
  | .setEndpointId _ _ => true
  | .i3cAddressAssign _ => true
  | .reportAck _ => true
  | .setBoardCap _ _ => true
  | .getStatus _ => true
  | .setCollector _ _ _ _ => true
  | .faultReport => true
  | .reportResend => true
  | .getVersion _ => true
  | .getCapabilities _ => true
  | .negotiateAlgorithms _ _ => true
  | .getDigests _ => true
  | .getCertificate _ _ _ _ => true
  | .challenge _ _ _ => true
  | .getMeasurements _ _ _ _ => true
  | .keyExchange _ _ => true
  | .finish _ _ => true
  | .endSession _ => true
  | .heartbeat _ => true
  | .keyUpdate _ => true
  | .spdmUnsupportedRequest _ _ => true
  | .ideKm _ => true
  | .ideFailed => true
  | .neighborSolicitation _ _ _ => true
  | _ => false

/-- The nine counters of a die together (R178). -/
def DieCount.total (c : DieCount) : Nat :=
  c.stream + c.empty + c.dependency + c.memory + c.peer + c.host + c.frank + c.thermal + c.proof

/-- R178: every ACLK cycle of each die is in exactly one counter; R363: stretched cycles are among them. -/
def Clock.Balanced (c : Clock) : Prop :=
  c.die0.total = c.aclk ∧ c.die1.total = c.aclk ∧ c.stretched ≤ c.aclk ∧ c.stretchPos < 16

/-- The registers of an engine but its V registers and its run. -/
def Engine.sameButV (a b : Engine) : Prop :=
  a.s = b.s ∧ a.p = b.p ∧ a.q = b.q ∧ a.tables = b.tables ∧ a.gstat = b.gstat

/-- A completion record of a command (R208) has been sent since `s`, or is held until the function may write (R184). -/
def State.Recorded (s t : State) (ring cq : Nat) (c : FetchedCmd) (status : Nat) (hostDetail : Bool) (detail : Nat) : Prop :=
  (∃ more addr phase elapsed, t.outbox = s.outbox ++ more ∧
    Output.hostWrite addr (completionBytes ((c.bytes.drop 8).take 8) c.seq status phase hostDetail ring detail elapsed) false ∈ more) ∨
  (∃ more, t.host.held = s.host.held ++ more ∧
    (∃ told, Held.record cq ring c.seq ((c.bytes.drop 8).take 8) status hostDetail detail c.fetched c.irq told ∈ more))

/-- The command at the front of a ring's waiting ones has the given type and may start (R200, R201). -/
structure State.Due (s : State) (ring typ : Nat) (c : FetchedCmd) : Prop where
  ready   : s.isReady = true
  waiting : (s.ring ring).waiting = some c
  found   : (s.ring ring).cmd c.id = some c
  typed   : c.typ = typ
  may     : s.mayStart ring c = true

/-- An op of a kind that the sequencer may start (R55). -/
structure State.Free (s : State) (op kind : Nat) (o : Op) : Prop where
  ready : s.isReady = true
  found : s.op op = some o
  ident : o.id = op
  kind  : o.kind = kind
  free  : s.opFree o = true

/-- How a firmware operation was answered (R379, R386): in MBOX_STATUS, or by a response of FW_OP. -/
def State.Answered (t : State) (r : FwReq) (result : Nat) : Prop :=
  match r with
  | .mailbox tag => t.fw.mboxResult = BitVec.ofNat 8 result ∧ t.fw.mboxTag = tag
  | .mctp seq _ _ _ _ => t.outbox.getLast? = some (.mgmt 6 true seq.toNat (leBytes 1 result))

/-! ### Vector words -/

/-- A word is the one its engine is about to execute, nothing it reads is damaged, and its duplicates agree. -/
structure State.WordDue (s : State) (die : Die) (w : Word) (op : Nat) (v : UnitVote) (r : VecRun) : Prop where
  ready  : s.isReady = true
  sound  : s.Sound
  at_    : s.atWord (dieIndex die) w op = some r
  agreed : wordChecked r w = false ∨ v = .agree

/-- A scalar word is the one its engine is about to execute, and its duplicates agree or it has none (R289: FULL duplicates it). -/
structure State.ScalarDue (s : State) (die : Die) (w : ScalarIssue) (op : Nat) (r : VecRun) : Prop where
  ready  : s.isReady = true
  at_    : s.atWord (dieIndex die) w.word op = some r
  agreed : r.check ≠ 3 ∨ w.vote = .agree

/-- One word has run: its engine goes on at `next`; the other engine, and all but memory, translations, chains met and draws
of free values, stand as before. -/
structure State.RanWord (s t : State) (die : Die) (r : VecRun) (next : Nat) : Prop where
  run     : ∃ r', (t.engine (dieIndex die)).run = some r' ∧ r'.op = r.op ∧ r'.prog = r.prog ∧ r'.pc = next ∧
              r'.words = r.words + 1 ∧ r'.ended = decide (r.prog.length ≤ next) ∧ r'.failure = r.failure ∧ r'.masked = r.masked
  other   : t.engine (1 - dieIndex die) = s.engine (1 - dieIndex die)
  numbers : { t.numerics with chains := s.numerics.chains } = s.numerics
  unit    : { t.vec with e0 := s.vec.e0, e1 := s.vec.e1 } = s.vec
  rest    : { t with vec := s.vec, mem := s.mem, numerics := s.numerics, freeGen := s.freeGen } = s

/-- R143: whether a word writes element j. -/
def Engine.maskAt (e : Engine) (w : Word) (j : Nat) : Bool :=
  if wordPen w then (e.p.get (wordPred w * 65536 + j) == 1) != wordPneg w else true

/-- Bit j of a predicate. -/
def Engine.predAt (e : Engine) (p j : Nat) : Bool := e.p.get (p * 65536 + j) == 1

/-- Element j of VA and of VC in ETYPE. -/
def Engine.laneA (e : Engine) (w : Word) (j : Nat) : Lane := laneOf (wordEtype w) (e.rawAt (wordEtype w) (wordVA w) j)
def Engine.laneC (e : Engine) (w : Word) (j : Nat) : Lane := laneOf (wordEtype w) (e.rawAt (wordEtype w) (wordVC w) j)

/-- Element j of the second source: register VB, the low bits of S[VB[4:0]], or VALUE of Q[VB[3:0]] (R140). -/
def Engine.laneB (e : Engine) (w : Word) (j : Nat) : Lane :=
  match wordBsrc w with
  | 0 => laneOf (wordEtype w) (e.rawAt (wordEtype w) (wordVB w) j)
  | 1 => laneOf (wordEtype w) (e.sreg (wordVB w % 32) % 2 ^ etBits (wordEtype w))
  | _ => laneOfQ (wordEtype w) (e.q.get (wordVB w % 16)).toNat

/-- Bit pattern of element j of the second source; none where no pattern is stated (log 50). -/
def Engine.patternAt (e : Engine) (w : Word) (j : Nat) : Option Nat :=
  match wordBsrc w with
  | 0 => some (e.rawAt (wordEtype w) (wordVB w) j)
  | 1 => some (e.sreg (wordVB w % 32) % 2 ^ etBits (wordEtype w))
  | _ =>
    let q := laneOfQ (wordEtype w) (e.q.get (wordVB w % 16)).toNat
    if isInt (wordEtype w) then (inRange (wordEtype w) q.2).map (natOfInt (etBits (wordEtype w)))
    else some (roundFloat (etFloat (wordEtype w)) .nearest q.1)

/-- A pattern as an element of a type holds it (R133). -/
def elemOf (t x : Nat) : Nat := cleanElem t x % 2 ^ etBits t

/-- What element j holds after a word that gives `f`: the result where it is stated, 0, or the old element (R143). -/
def Engine.Gives (e : Engine) (w : Word) (f : Nat → Option Nat) (j x : Nat) : Prop :=
  if e.maskAt w j then ∀ y, f j = some y → x = elemOf (wordEtype w) y
  else x = if wordPzero w then 0 else e.rawAt (wordEtype w) (wordVD w) j

/-- The same for a predicate bit. -/
def Engine.GivesBit (e : Engine) (w : Word) (f : Nat → Bool) (j : Nat) (x : Bool) : Prop :=
  x = if e.maskAt w j then f j else if wordPzero w then false else e.predAt (wordVD w % 8) j

/-- Elements below `count` of a register or pair meet P; nothing else of the engine but its run has changed. -/
structure Engine.Wrote (e e' : Engine) (t n count : Nat) (P : Nat → Nat → Prop) : Prop where
  elems  : ∀ j, j < count → P j (e'.rawAt t n j)
  tail   : ∀ j, count ≤ j → j < 65536 → e'.rawAt t n j = e.rawAt t n j
  others : ∀ k, k / 65536 ≠ n → (isWide t = true → k / 65536 ≠ n + 1) → e'.v.get k = e.v.get k
  same   : { e' with v := e.v, run := e.run } = e

/-- Bits below `count` of a predicate meet P; nothing else of the engine but its run has changed. -/
structure Engine.WrotePred (e e' : Engine) (p count : Nat) (P : Nat → Bool → Prop) : Prop where
  elems  : ∀ j, j < count → P j (e'.predAt p j)
  others : ∀ k, (k / 65536 ≠ p ∨ count ≤ k % 65536) → e'.p.get k = e.p.get k
  same   : { e' with p := e.p, run := e.run } = e

/-- A summary register holds VALUE and AUX; nothing else of the engine but its run has changed. -/
structure Engine.WroteQ (e e' : Engine) (n value aux : Nat) : Prop where
  value  : e'.q.get n = BitVec.ofNat 64 (value % 2 ^ 32 + aux % 2 ^ 32 * 2 ^ 32)
  others : ∀ k, k ≠ n → e'.q.get k = e.q.get k
  same   : { e' with q := e.q, run := e.run } = e

/-- The numbers of the elements a word takes, in order (R143, R159). -/
def Engine.taken (e : Engine) (w : Word) : List Nat := (List.range (wordCount w)).filter (e.maskAt w)

/-! ### Ops -/

/-- An op has left the window, and its program goes on with the op's status noted (R58, R59, R198). -/
structure State.Closed (s t : State) (o : Op) (status : Nat) : Prop where
  gone  : t.op o.id = none
  noted : ∀ p, s.program o.ring = some p → p.next.isSome = true → status < 0x20 → t.program o.ring = some (p.note o status none)

/-- No WAIT watches a semaphore. -/
def State.Unwatched (s : State) : Prop := ∀ o ∈ s.seq.window, o.kind = opWait → o.phase ≠ .issued

/-- The op as it is once issued (R319). -/
def State.issued (s : State) (o : Op) : Op := { o with phase := .issued, step := s.openNum, issueTime := s.clock.time }

/-- An op in flight with its run on the plate and its program. -/
structure State.OnPlate (s : State) (op : Nat) (o : Op) (r : MatRun) (p : Program) : Prop where
  ready   : s.isReady = true
  found   : s.op op = some o
  ident   : o.id = op
  run     : s.matRun op = some r
  same    : r.op = op
  program : s.program o.ring = some p

/-- No event waits for bytes of a tray peer's window (R22). -/
def State.NoneWanted (s : State) : Prop := ∀ p ∈ s.net.channels, p.2.wanted = []

/-- The run with the tile sums of its pass entered (R42, R82): `x`, rows of A and columns of B; `err`, what faults changed. -/
def MatRun.fed (r : MatRun) (p : Program) (o : Op) (x : List (List Val) × List (List Val)) (err : Nat → Nat → Int) : MatRun :=
  r.enterRows p.seed (o.step.getD 0) (r.d.kTileBase + (r.passAt r.pass).2.2) (r.area r.pass).m0 (r.area r.pass).n0 err 0 x.2 x.1

/-- A pass's tile sums have entered, with the results of its block where it is the block's last: the next pass is due. -/
def State.TookPass (s t : State) (op : Nat) (o : Op) (p : Program) (r : MatRun) (x : List (List Val) × List (List Val))
    (err : Nat → Nat → Int) : Prop :=
  ∀ (s1 : State) (y : State × MatRun),
    s1 = (if r.pass = 0 then (if r.d.whole then s else s.undefRegion r.d).undefSpill p.root r else s) →
    y = (if (r.passAt r.pass).2.2 + 1 = r.d.kt ∧ r.d.drains = true then s1.finishBlock p.seed (o.step.getD 0) (r.fed p o x err)
      else (s1, r.fed p o x err)) →
    t.mem = y.1.mem ∧ t.matRun op = some { y.2 with pass := r.pass + 1, owed := [], first := [], dup := [], residues := []
                                                    rowsFrom := r.nextRows s.clock.aclk, ramping := false }

/-- The sums that entered the trees of a run are those of its pass. -/
def MatRun.Entered (r r' : MatRun) (p : Program) (o : Op) (x : List (List Val) × List (List Val)) (err : Nat → Nat → Int) : Prop :=
  ((r.passAt r.pass).2.2 + 1 ≠ r.d.kt ∨ r.d.drains = false) →
    r'.elems = (r.fed p o x err).elems ∧ r'.ints = (r.fed p o x err).ints

/-- The tiles of a pass under LIGHT that fail their residue with faults `fs`. -/
def MatRun.withheld (r : MatRun) (x : List (List Val) × List (List Val)) (fs : List TileFault) : List (Nat × Nat) :=
  (r.tilesOf fs).filter (r.tileFails x fs)

/-- The tiles of a pass under FULL that differ between runs P and D, or fail a residue in either (R300). -/
def MatRun.disputed (r : MatRun) (x : List (List Val) × List (List Val)) (f : PassFaults) : List (Nat × Nat) :=
  (r.tilesOf (f.p ++ f.d)).filter (fun t => r.tileIn x f.p t != r.tileIn x f.d t ||
    r.tileFails x f.p t || r.tileFails x f.d t)

/-! ### Ring commands, tray frames and NPT messages -/

/-- The descriptor that a ring fetches, with the name it gets. -/
def State.fetchedCmd (s : State) (n : Nat) (bs : List Byte) : FetchedCmd :=
  { id := s.nextId, bytes := padTo 64 bs, seq := (s.ring n).fetched, fetched := s.clock.aclk, started := false, due := none }

/-- The next descriptor of a ring may be fetched (R192 to R194). -/
structure State.Fetches (s : State) (n : Nat) : Prop where
  ready    : s.isReady = true
  enabled  : (s.ring n).enable = true
  running  : (s.ring n).stopped = false
  may      : s.mayRequest = true
  there    : (s.ring n).fetched ≠ (s.ring n).producer
  room     : (s.ring n).cmds.length < 64

/-- The read of that descriptor, and the ring once it has it. -/
def State.fetchRead (s : State) (n : Nat) : Output :=
  .hostRead ((s.ring n).base.toNat + 64 * ((s.ring n).fetched % 2 ^ (s.ring n).log2)) 64
def State.fetchedRing (s : State) (n : Nat) (bs : List Byte) : Ring :=
  { s.ring n with fetched := ((s.ring n).fetched + 1) % 2 ^ 32, cmds := (s.ring n).cmds ++ [s.fetchedCmd n bs] }
def State.fetchedState (s : State) (n : Nat) (bs : List Byte) : State :=
  ({ s with nextId := s.nextId + 1, outbox := s.outbox ++ [s.fetchRead n] }).setRing n (s.fetchedRing n bs)

/-- A command has completed since `s`: it has left its ring, and its record is written or held (R202, R208). -/
structure State.Finished (s t : State) (ring : Nat) (c : FetchedCmd) (status : Nat) (hostDetail : Bool) (detail : Nat) : Prop where
  record : s.Recorded t ring (s.ring ring).cq c status hostDetail detail
  gone   : (t.ring ring).cmds = (s.ring ring).cmds.filter (fun d => d.id != c.id)

/-- A request of the function has gone out, or is held until it may (R184). -/
def State.Asked (t : State) (o : Output) : Prop := o ∈ t.outbox ∨ Held.other o ∈ t.host.held

/-- The module as a frame's effect finds it: the frame is its channel's newest applied one. -/
def State.turned (x : State) (m : Nat) (h payload : List Byte) : State :=
  let y := x.setChannel m { x.channel m with early := [yeFrame h payload] }
  y.setChannel m { y.channel m with applied := hdrSeq h, early := [] }

/-- A well-formed frame of a type arrives on an UP tray port, and it is the next of its channel once its ACK_SEQ has been taken: `x` is
the module then, and `y` the module as the frame's effect finds it, no packet buffer that holds the frame being poisoned (R245, R246,
R307). -/
structure State.Turn (s : State) (p : Fin 24) (typ : Nat) (h payload : List Byte) (m : Nat) (x y : State) : Prop where
  ready  : s.isReady = true
  tray   : p.val < 6
  role   : (s.port p.val).role = 1
  up     : (s.port p.val).state = portUp
  member : s.facedMember p.val = m
  frame  : s.frameOk m typ h payload = true
  acked  : s.takeAck m (hdrAck h) = x
  next   : hdrSeq h = ((x.channel m).applied + 1) % 2 ^ 24
  alone  : (x.channel m).early = []
  clean  : (x.turned m h payload).meetHidden 9 (hdrSeq h) = (y, false)

/-- Nothing of this module's own completes when a tray peer acknowledges: no MOVE or SIGNAL is on its way, no kept frame carries an op,
and no command waits for its output to arrive. -/
structure State.NoneSettles (s : State) (m : Nat) : Prop where
  frames   : ∀ f ∈ (s.channel m).unacked, f.op = none
  ops      : ∀ o ∈ s.seq.window, o.begun = true → o.kind ≠ opMove ∧ o.kind ≠ opSignal
  commands : ∀ c ∈ s.commands, c.due = none

/-- An acknowledgement or a NAK, well formed, arrives from tray member `m` (R245). -/
structure State.Controlled (s : State) (p : Fin 24) (typ : Nat) (h payload : List Byte) (m : Nat) : Prop where
  ready  : s.isReady = true
  tray   : p.val < 6
  role   : (s.port p.val).role = 1
  up     : (s.port p.val).state = portUp
  member : s.facedMember p.val = m
  frame  : s.frameOk m typ h payload = true

/-- The frames of a channel that an ACK_SEQ leaves unacknowledged, of the 512 that may be on their way (R246). -/
def Channel.leftBy (c : Channel) (ack : Nat) : List YeFrame :=
  c.unacked.filter (fun f => !(c.unacked.take 512).contains f || !acked ack f.seq)

/-- An NPT packet arrives whole, in an untagged frame of at most 9,216 bytes, of a TYPE that is not reserved, for this module, on an UP
port of Ethernet role, while the module is in READY (R232, R235, R254). -/
structure State.Hears (s : State) (a : Arrival) (h : NptHeader) : Prop where
  ready : s.isReady = true
  role  : (s.port a.port.val).role = 0
  up    : (s.port a.port.val).state = portUp
  frame : a.tagged = false ∧ a.size ≤ 9216
  whole : a.intact = true ∧ a.reserved = false
  ours  : s.forUs h = true

/-- The same of a packet about a collective, no reserved bit of CHUNK_INDEX set (R277). -/
structure State.HearsChunk (s : State) (a : Arrival) (h : NptHeader) : Prop where
  heard : s.Hears a h
  form  : collReservedBits h = false

/-- The module with the codewords of an arrival counted on its port (R234). -/
def State.received (s : State) (a : Arrival) : State := s.setPort a.port.val ((s.port a.port.val).codewords a.fec)

/-- Since `s`, a packet of one kind has gone to a node, on a port usable for it, and after it `more` (R253, R254, R256). -/
def State.SentNpt (s t : State) (node kind : Nat) (h : NptHeader) (data : List Byte) (more : List Output) : Prop :=
  ∃ port ∈ s.usable node, t.outbox = s.outbox ++ .udp (s.nptPacket port node kind 0 true h data) :: more

/-- An answer to a packet names the collective, epoch, chunk and contributor that the packet names (R254, R277). -/
structure AnswersTo (k h : NptHeader) : Prop where
  coll        : k.collId = h.collId
  epoch       : k.epoch = h.epoch
  chunk       : k.chunkIndex = h.chunkIndex
  contributor : k.contributor = h.contributor

/-- The packets of a kept chunk or message, by number, as they are dealt over the usable ports (R254, R256). -/
def State.packetsOf (s : State) (c : OutChunk) (is : List Nat) : List Output :=
  is.map (fun i => .udp (s.nptPacket (s.dealt c.node c.start i) c.node c.kind i (decide (packetCount c.bytes.length ≤ i + 1)) c.h
    ((c.bytes.drop (4096 * i)).take 4096)))

/-- A chunk arrives for a COLL that runs in its epoch, with its op and its program. -/
structure State.ForColl (s : State) (a : Arrival) (h : NptHeader) (r : CollRun) (o : Op) (q : Program) : Prop where
  heard   : s.HearsChunk a h
  coll    : s.collWith h.collId = some r
  found   : s.op r.op = some o
  program : s.program o.ring = some q

/-- A mirror message arrives whole: `y` is the module once it is acknowledged (R256, R336). -/
structure State.HearsMirror (s : State) (a : Arrival) (h : NptHeader) (y : State) : Prop where
  heard : s.Hears a h
  told  : y = (s.received a).nptAnswer 2 h 0 []

/-- The messages and chunks kept until they are acknowledged: node, TYPE, what COLL_ID says, and bytes (R256). -/
def State.mailed (s : State) : List (Nat × Nat × BitVec 32 × List Byte) := s.net.out.map (fun c => (c.node, c.kind, c.h.collId, c.bytes))

/-- A mirror message as it is kept for a node: its kind in COLL_ID, and its payload (log 35). -/
def mirrorMail (node msg step region page : Nat) (bytes : List Byte) : Nat × Nat × BitVec 32 × List Byte :=
  (node, 6, BitVec.ofNat 32 msg, leBytes 8 step ++ leBytes 4 region ++ leBytes 4 page ++ bytes)

/-- No op, program or boundary is there to be stopped when a step fails. -/
structure State.Idle (s : State) : Prop where
  ops      : s.seq.window = []
  programs : s.seq.programs = []
  boundary : s.proof.boundary = none

/-- A step and every one after it are FAILED, and its failure is told with the lowest rank that was dirty (R325, R346). -/
def State.FailedFrom (t : State) (step lowest : Nat) : Prop :=
  (∀ x ∈ t.proof.steps, step ≤ x.num → x.st = .failed) ∧ t.Reports 3 2 lowest

/-- Bytes lie in memory from a cell on, and no other byte of memory has changed. -/
structure State.Stored (s t : State) (l : Nat) (bytes : List Byte) : Prop where
  within  : ∀ i, i < bytes.length → noSlot (l + i) = false → t.mem.ram.get (l + i) = bytes.getD i 0
  outside : ∀ a, (a < l ∨ l + bytes.length ≤ a) → t.mem.ram.get a = s.mem.ram.get a

/-! ### Translation -/

/-- R25, R27: what makes an entry of a level fault a read, or a write where `wr`: VALID = 0, a reserved bit, a LEAF value illegal for its
level, a misaligned ADDR, and WRITE = 0 in the leaf of a write. -/
def entryFaults (wr : Bool) (level e : Nat) : Prop :=
  bit e 0 = false ∨ bits e 11 3 ≠ 0 ∨ bits e 63 48 ≠ 0 ∨
  (level = 1 ∧ (bit e 1 = true ∨ bits e 15 12 ≠ 0)) ∨
  (level = 2 ∧ bit e 1 = true ∧ (bits e 20 12 ≠ 0 ∨ (wr = true ∧ bit e 2 = false))) ∨
  (level = 3 ∧ (bit e 1 = false ∨ bits e 15 12 ≠ 0 ∨ (wr = true ∧ bit e 2 = false)))

/-- R25: an entry that points to a table, with WRITE = 1. That it faults is the model's choice (log 69). -/
def pointerWrites (level e : Nat) : Prop := (level = 1 ∨ (level = 2 ∧ bit e 1 = false)) ∧ bit e 2 = true

/-- The entries that a walk of `va` meets at the three levels (R25). -/
def State.entry1 (s : State) (root : Word) (va : Nat) : Nat := s.ramWord (bits root.toNat 47 17 * 2 ^ 17 + 8 * bits va 47 34)
def State.entry2 (s : State) (root : Word) (va : Nat) : Nat := s.ramWord (bits (s.entry1 root va) 47 12 * 4096 + 8 * bits va 33 21)
def State.entry3 (s : State) (root : Word) (va : Nat) : Nat := s.ramWord (bits (s.entry2 root va) 47 12 * 4096 + 8 * bits va 20 16)

/-- A walk of `va` meets a bad entry, every table before it lying in HBM and every entry before it being a pointer. -/
def State.walkMeets (s : State) (root : Word) (va : Nat) (bad : Nat → Nat → Prop) : Prop :=
  bit root.toNat 0 = true ∧ s.inHbm (bits root.toNat 47 17 * 2 ^ 17) 0x20000 = true ∧
  (bad 1 (s.entry1 root va) ∨
    (¬ bad 1 (s.entry1 root va) ∧ s.inHbm (bits (s.entry1 root va) 47 12 * 4096) 0x10000 = true ∧
      (bad 2 (s.entry2 root va) ∨
        (¬ bad 2 (s.entry2 root va) ∧ bit (s.entry2 root va) 1 = false ∧
          s.inHbm (bits (s.entry2 root va) 47 12 * 4096) 256 = true ∧ bad 3 (s.entry3 root va)))))

end Sys2Proof.Machine
end

