-- ==== Sys2Proof/Certificates/Slice0/Obligations.lean ====
section
/-! DEFINITION. The statements for the provers. Each docstring names the rules a statement formalises, and the log entry of
what it takes from the model's own choices. -/

section

open Sys2Proof Sys2Proof.Machine

/-! ### The machine as a whole -/

/-- The model's step (log 1): the command at the front of the queue runs on the state with the queue's rest. -/
def Obligations.StepRunsFront : Prop :=
  ∀ (c : Instr) (rest : List Instr) (s : State), s.pending = c :: rest → step s = exec c { s with pending := rest }

/-- The model's step on an empty queue (log 2) is one nanosecond: a module whose clocks stand still does not change, and
before READY only MODULE_TIME moves, by one CCLK cycle (R15, R18). -/
def Obligations.StepOnEmptyQueue : Prop :=
  (∀ s : State, s.pending = [] → s.clocksRun = false → step s = .next s) ∧
  (∀ s : State, s.pending = [] → s.clocksRun = true → s.isReady = false →
    step s = .next { s with clock := { s.clock with time := (s.clock.time + 1) % 2 ^ 64 } }) ∧
  (∀ s : State, s.pending = [] → s.clocksRun = true → s.isReady = true →
    ∃ t, step s = .next t ∧ t.clock.time = (s.clock.time + 1) % 2 ^ 64 ∧ { t with clock := s.clock } = s)

/-- Every command answers a next state with the queue as it found it, and only those that start or reset the module move
the clocks (log 1). -/
def Obligations.CommandsAnswer : Prop :=
  ∀ (c : Instr) (s : State), ∃ t, exec c s = .next t ∧ t.pending = s.pending ∧ (isRestart c = false → t.clock = s.clock)

/-- Reset: the registers whose reset values R96, R109, R130, R229, R263, R287, R317, R347, R368 and R379 give. -/
def Obligations.ResetValues : Prop :=
  State.reset.isReady = false ∧ State.reset.pending = [] ∧
  State.reset.ringsReg 0x00 = 0 ∧ State.reset.ringsReg 0x08 = 0x1F4 ∧ State.reset.ringsReg 0x10 = 0 ∧
  State.reset.ringsReg 0x18 = 0xA ∧ State.reset.ringsReg 0x20 = 0 ∧ State.reset.ringsReg 0x28 = 0 ∧
  (∀ n, n < 64 → State.reset.ringsReg (0x1000 + 0x40 * n) = 0 ∧ State.reset.ringsReg (0x1008 + 0x40 * n) = 4 ∧
    State.reset.ringsReg (0x1010 + 0x40 * n) = 0 ∧ State.reset.ringsReg (0x1018 + 0x40 * n) = 0 ∧
    State.reset.ringsReg (0x1020 + 0x40 * n) = 4) ∧
  State.reset.memoryReg 0x00 = 0 ∧ State.reset.memoryReg 0x10 = 0 ∧ State.reset.memoryReg 0x20 = 0 ∧
  State.reset.plateReg 0x00 = 2 ∧ State.reset.plateReg 0x08 = 0 ∧ State.reset.plateReg 0x28 = 0 ∧
  State.reset.numericsReg 0x08 = 0 ∧ State.reset.numericsReg 0x10 = 0x110 ∧ State.reset.numericsReg 0x18 = 4 ∧
  State.reset.numericsReg 0x20 = 0x20 ∧ State.reset.numericsReg 0x28 = 0 ∧
  State.reset.netReg 0x00 = 0 ∧ State.reset.netReg 0x18 = 0xC350 ∧ State.reset.netReg 0x58 = 0 ∧ State.reset.netReg 0x68 = 0 ∧
  State.reset.proofReg 0x00 = 1 ∧ State.reset.proofReg 0x18 = 0 ∧ State.reset.proofReg 0x20 = 0xF ∧
  State.reset.proofReg 0x28 = 0 ∧ State.reset.proofReg 0x30 = 0 ∧ State.reset.proofReg 0x38 = 0 ∧
  State.reset.powerReg 0x00 = 0x898 ∧ State.reset.powerReg 0x18 = 0x320032 ∧
  State.reset.mailboxReg 0x50 = 0 ∧ (∀ n, State.reset.entry n = Entry.free)

/-- R178: the nine counters of each die hold every ACLK cycle since READY exactly once, whatever the module does. -/
def Obligations.CyclesBalanced : Prop :=
  ∀ s t : State, s.clock.Balanced → step s = .next t → t.clock.Balanced

/-- The balance holds at reset. -/
def Obligations.CyclesBalancedAtReset : Prop := State.reset.clock.Balanced

/-- R404 and log 1: outside READY, no command acts but those that start-up, resets, stops, the function and the management
path have there; the plate, the rings, the ports, the engines, the ledgers and memory stand still. -/
def Obligations.NothingElseActsEarly : Prop :=
  ∀ (c : Instr) (s : State), actsEarly c = false → s.isReady = false → exec c s = .next s

/-! ### Start-up, resets and stops -/

/-- R376, R399, R402 steps 1 and 2: at power-on, or at the rising edge of MOD_RESET#, the straps are sampled and the boot ROM starts
the Gyton image it chooses; step 3 is then in progress. A refused pending slot is cleared on the way, with a module reset
by Gyton. Where no slot is accepted, the ROM holds the module in recovery with ALERT# low. -/
def Obligations.StartOfGyton : Prop :=
  (∀ (s : State) (tray : BitVec 2) (slot : BitVec 4) (k : Nat) (i : ImageInfo), s.life.phase = .off → s.Chooses 1 k i →
    ∃ t, exec (.powerOn tray slot) s = .next t ∧ t.life.phase = .starting ∧ t.life.stage = 2 ∧ t.life.tray = tray ∧
      t.life.slot = slot ∧ t.life.pwrgd = true ∧ t.fw.gyton.running = some i ∧ t.clock = Clock.reset ∧
      t.mem = Memory.reset ∧ t.fuses = s.fuses) ∧
  (∀ (s : State) (tray : BitVec 2) (slot : BitVec 4) (k : Nat) (i : ImageInfo), s.life.phase = .inReset → s.Chooses 1 k i →
    ∃ t, exec (.modResetRelease tray slot) s = .next t ∧ t.life.phase = .starting ∧ t.life.stage = 2 ∧ t.life.tray = tray ∧
      t.life.slot = slot ∧ t.life.jtag = .bypass ∧ t.fw.gyton.running = some i ∧ t.fuses = s.fuses ∧
      (s.fw.gyton.pending = none → k = s.fw.gyton.active → t.clock = s.clock ∧ t.mem = s.mem ∧ t.outbox = s.outbox)) ∧
  (∀ (s : State) (tray : BitVec 2) (slot : BitVec 4), s.life.phase = .off → s.ChoosesNone 1 →
    ∃ t, exec (.powerOn tray slot) s = .next t ∧ t.life.phase = .recovery ∧ t.life.stage = 1 ∧ t.alert = true ∧
      t.fw.gyton.running = none ∧ t.Reports 9 2 1) ∧
  (∀ (s : State) (tray : BitVec 2) (slot : BitVec 4), s.life.phase = .inReset → s.ChoosesNone 1 →
    ∃ t, exec (.modResetRelease tray slot) s = .next t ∧ t.life.phase = .recovery ∧ t.life.stage = 1 ∧ t.alert = true ∧
      t.fw.gyton.running = none ∧ t.Reports 9 2 1) ∧
  (∀ (s : State) (tray : BitVec 2) (slot : BitVec 4) (p : Nat) (e : Nat), (s.life.phase = .off ∨ s.life.phase = .inReset) →
    s.fw.gyton.pending = some p → s.fw.gyton.tried = false → s.imageIn 1 p = .error e →
    ∃ t u, exec (.powerOn tray slot) { s with life := { s.life with phase := .off } } = .next t ∧
      exec (.modResetRelease tray slot) { s with life := { s.life with phase := .inReset } } = .next u ∧
      t.fw.gyton.pending = none ∧ t.fw.fellBack = true ∧ t.life.resetCause = 3 ∧ t.mem = Memory.reset ∧
      u.fw.gyton.pending = none ∧ u.fw.fellBack = true ∧ u.life.resetCause = 3 ∧ u.mem = Memory.reset) ∧
  (∀ (s : State) (tray : BitVec 2) (slot : BitVec 4), s.life.phase ≠ .off → exec (.powerOn tray slot) s = .next s) ∧
  (∀ (s : State) (tray : BitVec 2) (slot : BitVec 4), s.life.phase ≠ .inReset →
    exec (.modResetRelease tray slot) s = .next s)

/-- R402 steps 3 to 9: when every step passes and a Rolrohan image is accepted, READY is reached with stage 8, MODULE_TIME
and the figures that start-up measured, the firewall is set, the boot generation rises by one, and BOOTED is reported; a pending
slot on its one try becomes the active slot (R376). -/
def StartReachesReady : Prop :=
  ∀ (s : State) (run : StartRun) (k : Nat) (i : ImageInfo), s.life.phase = .starting → s.life.stage = 2 → run.fail = none →
    s.Chooses 2 k i → (∀ p, s.freshSlot 2 p → p = k) →
    ∃ t, exec (.rootPllLock run) s = .next t ∧ t.isReady = true ∧ t.life.stage = 8 ∧ t.life.rootLocked = true ∧
      t.life.oscillator = false ∧ t.clock = { Clock.reset with time := run.readyTime.toNat } ∧
      t.life.readyMs = run.readyMs ∧ t.life.lanesRepaired = run.lanesRepaired ∧ t.life.rowsRepaired = run.rowsRepaired ∧
      t.life.sramRemaps = run.sramRemaps ∧ t.power.l85 = run.l85 ∧ t.fw.rolrohan.running = some i ∧ t.fw.firewall = true ∧
      t.fw.bootGen = (s.fw.bootGen + 1) % 2 ^ 32 ∧ t.mem.ram = s.mem.ram ∧ t.Reports 9 1 0 ∧
      t.fw.rolrohan.pending = none ∧ (s.freshSlot 2 k → t.fw.rolrohan.active = k) ∧
      ((∀ p, ¬ s.freshSlot 2 p) → t.fw.rolrohan.active = s.fw.rolrohan.active)

/-- R376, R403: a step of start-up that cannot finish holds the module in it, with START_FAILED, the code and unit of the table, a
FAULT event and ALERT#; where no Rolrohan slot is accepted Gyton holds the module in recovery, reporting the refusals. -/
def StartHoldsWhere : Prop :=
  (∀ s : State, s.life.phase = .starting → s.life.stage = 2 →
    ∃ t, exec .refclkStartTimeout s = .next t ∧ t.life.phase = .held ∧ t.life.stage = 2 ∧ t.life.startFailed = true ∧
      t.life.startFault = 0x10 ∧ t.life.startUnit = 0 ∧ t.alert = true ∧ t.Reports 1 0x10 0) ∧
  (∀ (s : State) (run : StartRun), s.life.phase = .starting → s.life.stage = 2 → run.fail = some .pll →
    ∃ t, exec (.rootPllLock run) s = .next t ∧ t.life.phase = .held ∧ t.life.stage = 2 ∧ t.life.startFailed = true ∧
      t.life.startFault = 0x10 ∧ t.life.startUnit = 0 ∧ t.alert = true ∧ t.Reports 1 0x10 0) ∧
  (∀ (s : State) (run : StartRun) (l : Fin 3), s.life.phase = .starting → s.life.stage = 2 → run.fail = some (.link l) →
    ∃ t, exec (.rootPllLock run) s = .next t ∧ t.life.phase = .held ∧ t.life.stage = 3 ∧ t.life.startFailed = true ∧
      t.life.startFault = 0xF ∧ t.life.startUnit = BitVec.ofNat 16 l.val ∧ t.alert = true ∧ t.Reports 1 0xF l.val) ∧
  (∀ (s : State) (run : StartRun) (m : BitVec 8), s.life.phase = .starting → s.life.stage = 2 → run.fail = some (.sram m) →
    ∃ t, exec (.rootPllLock run) s = .next t ∧ t.life.phase = .held ∧ t.life.stage = 4 ∧ t.life.startFailed = true ∧
      t.life.startFault = 8 ∧ t.life.startUnit = BitVec.ofNat 16 m.toNat ∧ t.alert = true ∧ t.Reports 1 8 m.toNat) ∧
  (∀ (s : State) (run : StartRun) (h : Fin 20) (k : Nat) (i : ImageInfo), s.life.phase = .starting → s.life.stage = 2 →
    run.fail = some (.stack h) → s.Chooses 2 k i → (∀ p, s.freshSlot 2 p → p = k) →
    ∃ t, exec (.rootPllLock run) s = .next t ∧ t.life.phase = .held ∧ t.life.stage = 6 ∧ t.life.startFailed = true ∧
      t.life.startFault = 8 ∧ t.life.startUnit = BitVec.ofNat 16 (1 + 256 * h.val) ∧ t.alert = true ∧
      t.Reports 1 8 (1 + 256 * h.val)) ∧
  (∀ (s : State) (run : StartRun), s.life.phase = .starting → s.life.stage = 2 →
    (run.fail = none ∨ ∃ h, run.fail = some (.stack h)) → s.ChoosesNone 2 → (∀ p, ¬ s.freshSlot 2 p) →
    ∃ t, exec (.rootPllLock run) s = .next t ∧ t.life.phase = .recovery ∧ t.life.stage = 5 ∧ t.alert = true ∧
      t.fw.rolrohan.running = none ∧ t.Reports 9 2 2)

/-- R376: a refused pending Rolrohan slot, or an image on trial that misses its time, is cleared and Gyton resets the module, which
starts on the Gyton image that the reset then chooses, or holds in recovery where there is none. -/
def StartFallsBack : Prop :=
  (∀ (s : State) (run : StartRun) (p e k : Nat) (i : ImageInfo), s.life.phase = .starting → s.life.stage = 2 →
    (run.fail = none ∨ ∃ h, run.fail = some (.stack h)) → s.freshSlot 2 p → s.imageIn 2 p = .error e → s.Chooses 1 k i →
    ∃ t, exec (.rootPllLock run) s = .next t ∧ t.life.phase = .starting ∧ t.life.stage = 2 ∧ t.life.resetCause = 3 ∧
      t.fw.rolrohan.pending = none ∧ t.fw.gyton.running = some i ∧ t.fw.fellBack = true ∧ t.life.tray = s.life.tray ∧
      t.life.slot = s.life.slot ∧ t.mem = Memory.reset) ∧
  (∀ (s : State) (k : Nat) (i : ImageInfo), s.trialOpen = true → s.trialEnded.Chooses 1 k i →
    ∃ t, exec .imageTrialTimeout s = .next t ∧ t.life.phase = .starting ∧ t.life.stage = 2 ∧ t.life.resetCause = 3 ∧
      t.fw.rolrohan.pending = s.trialEnded.fw.rolrohan.pending ∧ t.fw.gyton.running = some i ∧ t.fw.fellBack = true ∧
      t.life.tray = s.life.tray ∧ t.life.slot = s.life.slot ∧ t.mem = Memory.reset) ∧
  (∀ s : State, s.trialOpen = true → s.trialEnded.ChoosesNone 1 →
    ∃ t, exec .imageTrialTimeout s = .next t ∧ t.life.phase = .recovery ∧ t.life.stage = 1 ∧ t.alert = true ∧
      t.life.resetCause = 3) ∧
  (∀ s : State, s.trialOpen = false → exec .imageTrialTimeout s = .next s) ∧
  (∀ (s : State) (run : StartRun), (s.life.phase ≠ .starting ∨ s.life.stage ≠ 2) →
    exec (.rootPllLock run) s = .next s ∧ exec .refclkStartTimeout s = .next s)

/-- R376, R402, R403: start-up reaches READY, holds the module where a step of it cannot finish, or falls back to another image. -/
def Obligations.StartUp : Prop := StartReachesReady ∧ StartHoldsWhere ∧ StartFallsBack

/-- R400, R401: a loss of supply and a module reset keep the fuses, the images in flash, and Gyton's record of repairs; no
memory, no ring, no key and no queue pair is retained. MOD_RESET# keeps START_TESTS and does not end a thermal trip. -/
def Obligations.ResetsClear : Prop :=
  (∀ s : State, s.life.phase ≠ .off →
    ∃ t, exec .supplyLoss s = .next t ∧ t.life.phase = .off ∧ t.life.pwrgd = false ∧ t.pcie = Pcie.reset ∧
      t.mem = Memory.reset ∧ t.host = HostSide.reset ∧ t.vec = Vectors.reset ∧ t.net = Net.reset ∧
      t.proof = Proof.reset ∧ t.power = Power.reset ∧ t.numerics = Numerics.reset ∧ t.seq = Seq.reset ∧ t.clock = Clock.reset ∧
      t.fuses = s.fuses ∧ t.fw.gyton.a = s.fw.gyton.a ∧
      t.fw.gyton.b = s.fw.gyton.b ∧ t.fw.rolrohan.a = s.fw.rolrohan.a ∧ t.fw.rolrohan.b = s.fw.rolrohan.b ∧
      t.fw.secrets = [] ∧ t.fw.repairs = s.fw.repairs) ∧
  (∀ s : State, s.life.phase = .off → exec .supplyLoss s = .next s) ∧
  (∀ s : State, s.life.phase ≠ .off → s.life.thermtrip = false →
    ∃ t, exec .moduleReset s = .next t ∧ t.life.phase = .inReset ∧ t.life.pwrgd = true ∧ t.life.resetCause = 2 ∧
      t.life.extended = s.life.extended ∧ t.pcie = Pcie.reset ∧ t.mem = Memory.reset ∧ t.host = HostSide.reset ∧
      t.vec = Vectors.reset ∧ t.net = Net.reset ∧ t.proof = Proof.reset ∧ t.power = Power.reset ∧
      t.numerics = Numerics.reset ∧ t.seq = Seq.reset ∧ t.clock = Clock.reset ∧ t.fuses = s.fuses ∧
      t.fw.gyton.a = s.fw.gyton.a ∧ t.fw.gyton.b = s.fw.gyton.b ∧ t.fw.rolrohan.a = s.fw.rolrohan.a ∧
      t.fw.rolrohan.b = s.fw.rolrohan.b ∧ t.fw.secrets = [] ∧ t.fw.repairs = s.fw.repairs) ∧
  (∀ s : State, (s.life.phase = .off ∨ s.life.thermtrip = true) → exec .moduleReset s = .next s)

/-- R183, R401, R405: FLR returns the RINGS block to its reset values, the events in the buffer apart, and resets every queue pair;
nothing else of a module with nothing to abort changes but D3hot, and READY stays up. A conventional reset takes the link and
its keys too, and raises READY once more behind the events the buffer holds. -/
def Obligations.FunctionResets : Prop :=
  (∀ s : State, s.functionRuns = true →
    ∃ t, exec .flr s = .next t ∧ (∃ b n, t.host = { HostSide.reset with buffer := b, droppedNew := n }) ∧ t.pcie.d3hot = false ∧
      t.net.qps = [] ∧ t.isReady = s.isReady) ∧
  (∀ s : State, s.functionRuns = true → s.Quiet → s.net.qps = [] →
    ∃ t, exec .flr s = .next t ∧
      t.host = { HostSide.reset with buffer := s.host.buffer, droppedNew := s.host.droppedNew } ∧ t.mem = s.mem ∧
      t.numerics = { s.numerics with chains := [] } ∧ t.plate = s.plate ∧ t.power = s.power ∧ t.fw = s.fw ∧ t.vec = s.vec ∧
      t.life = s.life ∧ t.seq = s.seq ∧ t.net = { s.net with early := [] } ∧ t.pcie = { s.pcie with d3hot := false }) ∧
  (∀ s : State, s.functionRuns = true →
    ∃ t, exec .pcieConventionalReset s = .next t ∧ t.pcie.linkUp = false ∧ t.pcie.cfgReady = false ∧ t.pcie.ide = .off ∧
      t.pcie.ideKeyRx = 0 ∧ t.pcie.ideKeyTx = 0 ∧ t.pcie.d3hot = false ∧ t.fw.spdmDoe = Spdm.reset ∧ t.isReady = s.isReady) ∧
  (∀ s : State, s.isReady = true →
    ∃ t, exec .pcieConventionalReset s = .next t ∧ t.host.rings = [] ∧ t.host.cqs = [] ∧ t.host.msix = [] ∧
      t.host.eqEnable = false ∧ t.net.qps = []) ∧
  (∀ s : State, s.isReady = true → s.Quiet → s.net.qps = [] → s.host.buffer.length < 256 →
    ∃ t e, exec .pcieConventionalReset s = .next t ∧ t.mem = s.mem ∧ t.plate = s.plate ∧ t.power = s.power ∧
      t.host.buffer = s.host.buffer ++ [e] ∧ e.kind = 10 ∧ e.code = 1) ∧
  (∀ s : State, s.functionRuns = true → s.isReady = false →
    ∃ t, exec .pcieConventionalReset s = .next t ∧ t.host = s.host ∧ t.mem = s.mem) ∧
  (∀ s : State, s.functionRuns = false → exec .flr s = .next s ∧ exec .pcieConventionalReset s = .next s)

/-- R184, R405, R409, R413: the link trains, D3hot and D0, the follower's role, and the boundary-scan instruction. -/
def LinkAndScanHold : Prop :=
  (∀ s : State, (s.life.phase = .starting ∨ s.life.phase = .held ∨ s.life.phase = .ready) → s.life.rootLocked = true →
    s.pcie.loopActive = false →
    ∃ t, exec .pcieLinkTraining s = .next t ∧ t.pcie = { s.pcie with linkUp := true, cfgReady := true, follower := false } ∧
      t.mem = s.mem ∧ t.seq = s.seq ∧ (s.pcie.d3hot = false → t.host.held = [])) ∧
  (∀ s : State, (s.pcie.loopActive = true ∨ s.life.rootLocked = false ∨
      (s.life.phase ≠ .starting ∧ s.life.phase ≠ .held ∧ s.life.phase ≠ .ready)) → exec .pcieLinkTraining s = .next s) ∧
  (∀ s : State, s.functionRuns = true →
    exec .powerStateD3hot s = .next { s with pcie := { s.pcie with d3hot := true } }) ∧
  (∀ s : State, s.functionRuns = true →
    ∃ t, exec .powerStateD0 s = .next t ∧ t.pcie = { s.pcie with d3hot := false } ∧ t.mem = s.mem ∧ t.seq = s.seq ∧
      (s.pcie.linkUp = true → s.pcie.cfgReady = true → s.pcie.loopActive = false → s.pcie.follower = false → t.host.held = [])) ∧
  (∀ s : State, s.functionRuns = true → s.pcie.linkUp = true → s.pcie.loopActive = false →
    exec .loopbackFollower s = .next { s with pcie := { s.pcie with follower := true, linkUp := false } }) ∧
  (∀ s : State, (s.functionRuns = false ∨ s.pcie.linkUp = false ∨ s.pcie.loopActive = true) →
    exec .loopbackFollower s = .next s) ∧
  (∀ s : State, s.functionRuns = false → exec .powerStateD3hot s = .next s ∧ exec .powerStateD0 s = .next s) ∧
  (∀ s : State, s.life.phase ≠ .off →
    exec (.jtagInstruction .idcode) s = .next { s with
      life := { s.life with jtag := .idcode }
      outbox := s.outbox ++ [.tdo (BitVec.ofNat 32 (1 + s.fuses.jedecId.toNat * 2 + 0x3220 * 2 ^ 12 +
        s.fuses.stepping.toNat / 16 * 2 ^ 28))] } ∧
    exec (.jtagInstruction .bypass) s = .next { s with life := { s.life with jtag := .bypass } } ∧
    exec (.jtagInstruction .samplePreload) s = .next { s with life := { s.life with jtag := .samplePreload } } ∧
    ∀ n, exec (.jtagInstruction (.other n)) s = .next { s with life := { s.life with jtag := .bypass } }) ∧
  (∀ (s : State) (i : JtagInstr), s.life.phase ≠ .off →
    (i = .extest ∨ i = .extestPulse ∨ i = .extestTrain ∨ i = .clamp ∨ i = .highz) →
    exec (.jtagInstruction i) s = .next { s with life := { s.life with
      jtag := if s.life.phase = .inReset then i else .bypass } }) ∧
  (∀ (s : State) (i : JtagInstr), s.life.phase = .off → exec (.jtagInstruction i) s = .next s)

/-- R11, R310, R312: the watchdog, with the commands its core served, and the retirement of a core whose second expiry within a day
it is or that fails to restart; a failed in-package link, told once, which ends the commands in flight with ABORTED. -/
def CoresAndLinksHold : Prop :=
  (∀ (s : State) (core : Fin 8), s.isReady = true → s.expiries core.val = 0 →
    ∃ t, exec (.watchdog core [] false) s = .next t ∧ t.mem = s.mem ∧ t.Reports 1 0x0D core.val ∧ t.Reports 9 5 core.val ∧
      t.plate = { s.plate with watchTimes := s.plate.watchTimes ++ [(core.val, s.clock.time)] }) ∧
  (∀ (s : State) (core : Fin 8) (retire : Bool), s.isReady = true → s.proof.steps ≠ [] → (retire = true ∨ 1 ≤ s.expiries core.val) →
    ∃ t, exec (.watchdog core [] retire) s = .next t ∧ t.mem = s.mem ∧ t.Reports 1 0x0D core.val ∧
      t.plate.coresScheduled = s.plate.coresScheduled ++ [core.val]) ∧
  (∀ (s : State) (core : Fin 8) (retire : Bool), s.isReady = true → s.proof.steps = [] → (retire = true ∨ 1 ≤ s.expiries core.val) →
    s.plate.coresScheduled = [] →
    ∃ t, exec (.watchdog core [] retire) s = .next t ∧ t.plate.coreRetired = some core.val ∧ t.plate.coresScheduled = []) ∧
  (∀ (s : State) (core : Fin 8) (ring : Nat) (c : FetchedCmd), s.isReady = true → s.expiries core.val = 0 → s.OnlyCommand ring c →
    ∃ t, exec (.watchdog core [c.id] false) s = .next t ∧ s.Finished t ring c 0x70 false 0 ∧ t.Reports 1 0x0D core.val ∧
      t.Reports 9 5 core.val) ∧
  (∀ (s : State) (link : Fin 3), s.isReady = true → link.val ∈ s.life.failedLinks → exec (.packageLinkFailed link) s = .next s) ∧
  (∀ (s : State) (link : Fin 3), s.isReady = true → link.val ∉ s.life.failedLinks →
    ∃ t, exec (.packageLinkFailed link) s = .next t ∧ t.life.failedLinks = s.life.failedLinks ++ [link.val] ∧
      t.Reports 1 0x0F link.val ∧ (s.Quiet → s.commands = [] → t.mem = s.mem)) ∧
  (∀ (s : State) (link : Fin 3) (ring : Nat) (c : FetchedCmd), s.isReady = true → link.val ∉ s.life.failedLinks →
    s.OnlyCommand ring c →
    ∃ t, exec (.packageLinkFailed link) s = .next t ∧
      (if c.typ = cmdEvacuate ∨ c.typ = cmdHandover then (t.ring ring).cmds = (s.ring ring).cmds
       else s.Finished t ring c 0x60 false 0))

/-- R306, R307, R309, R317, R318: a scrub read of a memory that a pass covers counts a corrected error, or poisons the block of an
uncorrectable one, and reports it; a clean one leaves memory as it is. The pass goes on, and ends with the last block,
where SCRUB_PASSES counts (log 80 says which block that is); a memory that no pass covers is not read. -/
def ScrubsHold : Prop :=
  (∀ (s : State) (mem : BitVec 8) (addr a : Nat), s.isReady = true → s.Sound → s.scrubTarget mem addr = some a →
    s.scrubs mem.toNat = true →
    (∃ t, exec (.scrubRead mem addr .clean) s = .next t ∧ t.mem = s.mem ∧ t.fw = s.fw ∧ t.host = s.host ∧
      (a / 64 ≠ s.lastBlock mem.toNat → t.plate.scrubbing.contains mem.toNat = true ∧ t.tele = s.tele) ∧
      (a / 64 = s.lastBlock mem.toNat → t.plate.scrubbing.contains mem.toNat = false ∧
        (mem = 1 → t.tele_ 0x584 = (s.tele_ 0x584 + 1) % 2 ^ 32) ∧
        (mem ≠ 1 → 8 ≤ (s.plate.scrubbed.filter (· != mem.toNat)).length → t.tele_ 0x580 = (s.tele_ 0x580 + 1) % 2 ^ 32))) ∧
    (∃ t, exec (.scrubRead mem addr .correctable) s = .next t ∧ t.mem.ram = s.mem.ram ∧ t.mem.poison = s.mem.poison ∧
      t.tele_ (0x480 + 8 * memoryId a) = (s.tele_ (0x480 + 8 * memoryId a) + 1) % 2 ^ 64 ∧
      (s.mem.corrTime.get none (memoryId a) = none → s.mem.corrAddr.get none (memoryId a) = none → t.Reports 1 7 (memoryUnit a))) ∧
    ∃ t, exec (.scrubRead mem addr .uncorrectable) s = .next t ∧ t.mem.poison.get false (a / 64) = true ∧ t.mem.ram = s.mem.ram ∧
      t.tele_ (0x500 + 8 * memoryId a) = (s.tele_ (0x500 + 8 * memoryId a) + 1) % 2 ^ 64 ∧ t.Reports 1 8 (memoryUnit a)) ∧
  (∀ (s : State) (mem : BitVec 8) (addr : Nat) (f : ScrubFind), s.isReady = true →
    (s.scrubTarget mem addr = none ∨ s.scrubs mem.toNat = false) → exec (.scrubRead mem addr f) s = .next s)

/-- R11, R184, R306, R307, R310, R312, R317, R318, R405, R409, R413: the link, the boundary scan, and what the module does of itself to
stay well. -/
def Obligations.LinkScanAndMaintenance : Prop := LinkAndScanHold ∧ CoresAndLinksHold ∧ ScrubsHold

/-- R17, R310, R360: the loss of the reference, a divergence of the management pair and a thermal trip stop the module: the
clocks stop, SCLK moves to the internal oscillator, the PCIe link goes down, ALERT# is low, and the cause is reported: by
the fixed-function sender, again and again, where the pair has stopped. -/
def Obligations.ModuleStops : Prop :=
  (∀ s : State, s.clocksRun = true →
    ∃ t, exec .refclkLoss s = .next t ∧ t.life.phase = .stopped .clockLost ∧ t.clocksRun = false ∧
      t.life.oscillator = true ∧ t.pcie.linkUp = false ∧ t.alert = true ∧ t.Reports 1 0x10 0) ∧
  (∀ s : State, s.clocksRun = false → exec .refclkLoss s = .next s) ∧
  (∀ s : State, s.gytonRuns = true →
    ∃ t m, exec .lockstep s = .next t ∧ t.life.phase = .stopped .lockstep ∧ t.clocksRun = false ∧ t.gytonRuns = false ∧
      t.pcie.linkUp = false ∧ t.alert = true ∧ t.outbox = s.outbox ++ .fixedReport 0x0E :: m ∧ (s.fw.collector = none → m = [])) ∧
  (∀ s : State, s.gytonRuns = false → exec .lockstep s = .next s) ∧
  (∀ (s : State) (part : Fin 36) (temp : BitVec 16), s.life.phase ≠ .off → s.life.thermtrip = false →
    (part.val < 3 ∨ 16 ≤ part.val) →
    ∃ t, exec (.thermtrip part temp) s = .next t ∧ t.life.thermtrip = true ∧
      (s.life.phase ≠ .stopped .lockstep → t.life.phase = .stopped .thermtrip) ∧
      t.clocksRun = false ∧ t.life.oscillator = true ∧ t.pcie.linkUp = false ∧ t.alert = true ∧
      (s.gytonRuns = true → t.Reports 8 6 part.val)) ∧
  (∀ (s : State) (part : Fin 36) (temp : BitVec 16), (s.life.phase = .off ∨ s.life.thermtrip = true ∨ (3 ≤ part.val ∧ part.val < 16)) →
    exec (.thermtrip part temp) s = .next s) ∧
  (∀ s : State, s.life.phase = .stopped .lockstep →
    ∃ m, exec .lockstepReportRepeat s = .next { s with outbox := s.outbox ++ .fixedReport 0x0E :: m } ∧
      (s.fw.collector = none → m = [])) ∧
  (∀ s : State, s.life.phase ≠ .stopped .lockstep → exec .lockstepReportRepeat s = .next s)

/-! ### Power, heat and franking -/

/-- R358, R359: a reading of the sensors is stored whole; a thermal hold begins at 100 °C on the hottest die and ends at 98 °C,
and a stack refuses from 95 °C to 93 °C. Temperatures are in 1/16 °C. -/
def SensorsHold : Prop :=
  ∀ (s : State) (r : SensorReading), s.isReady = true →
    ∃ t, exec (.sensorSample r) s = .next t ∧ t.power.dieMax = r.dieMax ∧ t.power.dieAvg = r.dieAvg ∧
      t.power.dieIdx = r.dieIdx ∧ t.power.hbmTemp = r.hbm ∧ t.power.inlet = r.inlet ∧
      t.power.hold = (if s.power.hold then decide (98 * 16 < (hottest r.dieMax).2) else decide (100 * 16 ≤ (hottest r.dieMax).2)) ∧
      (∀ (i : Nat) (x : Int), r.hbm[i]? = some x →
        t.power.stacksRefuse.contains i =
          (if s.power.stacksRefuse.contains i then decide (93 * 16 < x) else decide (95 * 16 ≤ x))) ∧
      t.power.held = s.power.held ∧ t.mem = s.mem ∧ t.seq = s.seq ∧ t.plate = s.plate

/-- R348, R357, R358, R364, R365: the other periodic updates of the ledgers and the governor. -/
def PowerUpkeepHold : Prop :=
  (∀ (s : State) (c0 c1 x : Nat), s.isReady = true →
    ∃ a b d, exec (.thetaCorrection c0 c1 x) s = .next { s with power := { s.power with theta := [a, b, d] } } ∧
      60000 ≤ a ∧ a ≤ 93750 ∧ 60000 ≤ b ∧ b ≤ 93750 ∧ 72000 ≤ d ∧ d ≤ 112500 ∧
      (60000 ≤ c0 ∧ c0 ≤ 93750 → a = c0) ∧ (60000 ≤ c1 ∧ c1 ≤ 93750 → b = c1) ∧ (72000 ≤ x ∧ x ≤ 112500 → d = x)) ∧
  (∀ s : State, s.isReady = true →
    exec .standingLoadUpdate s = .next { s with power := { s.power with standingMw := s.standing } }) ∧
  (∀ s : State, s.isReady = true →
    exec .clampRelease s = .next { s with power := { s.power with
      clampMs := s.power.clampMs && decide (1000 * min s.power.limitRequest s.power.boardCap < s.average 1000)
      clampUs := s.power.clampUs && decide (s.fastMw < s.average 10) } }) ∧
  (∀ s : State, s.isReady = true → s.anyStreams = false → s.plate.warm = true →
    exec .plateCool s = .next { s with plate := { s.plate with warm := false, cooling := some s.clock.aclk } }) ∧
  (∀ s : State, s.isReady = true → (s.anyStreams = true ∨ s.plate.warm = false) → exec .plateCool s = .next s) ∧
  (∀ (s : State) (a : RegAccess), s.isReady = true → 1000 ≤ bits (accessValue a s.power.limitRequest) 11 0 →
    bits (accessValue a s.power.limitRequest) 11 0 ≤ 2400 →
    ∃ t, exec (.powerLimitWrite a) s = .next t ∧ t.limit = min (bits (accessValue a s.power.limitRequest) 11 0) s.power.boardCap ∧
      t.power = { s.power with limitRequest := bits (accessValue a s.power.limitRequest) 11 0 }) ∧
  (∀ (s : State) (a : RegAccess), s.isReady = true → (bits (accessValue a s.power.limitRequest) 11 0 < 1000 ∨
    2400 < bits (accessValue a s.power.limitRequest) 11 0) → exec (.powerLimitWrite a) s = .next s)

/-- R348, R357 to R359, R364, R365: sensors, holds and the upkeep of the ledgers. -/
def Obligations.SensorsAndUpkeep : Prop := SensorsHold ∧ PowerUpkeepHold


/-- R362, R363: a sample joins the newest thousand; the twentieth in a row above P_charged begins a drift with the stretch at its
greatest; the governor then raises the stretch by 4 while samples stay above, lowers it by 1 otherwise, and ends the
drift when it reaches 0 or when the top-ups have been granted. -/
def Obligations.DriftAndStretch : Prop :=
  (∀ (s : State) (mw : Nat) (vin iin : BitVec 16), s.isReady = true →
    ∃ t, exec (.powerSample mw vin iin) s = .next t ∧ t.power.samples = (mw :: s.power.samples).take 1000 ∧
      t.power.vinMv = vin ∧ t.power.iin10ma = iin ∧
      t.power.drift = (s.power.drift || (decide (s.chargedMw < mw) && decide (19 ≤ s.power.overs.length))) ∧
      t.power.stretch = (if s.power.drift = false ∧ s.chargedMw < mw ∧ 19 ≤ s.power.overs.length then 16 else s.power.stretch) ∧
      (mw ≤ s.chargedMw → t.power.overs = []) ∧
      t.mem = s.mem) ∧
  (∀ s : State, s.isReady = true → s.power.drift = false → exec .stretchAdjust s = .next s) ∧
  (∀ s : State, s.isReady = true → s.power.drift = true → s.power.driftTopUp = true →
    s.power.requests.any (fun f => f.use_ == .topUp) = false →
    exec .stretchAdjust s = .next { s with power := { s.power with drift := false, driftTopUp := false, stretch := 0 } }) ∧
  (∀ s : State, s.isReady = true → s.power.drift = true →
    (s.power.driftTopUp = false ∨ s.power.requests.any (fun f => f.use_ == .topUp) = true) →
    s.chargedMw < s.power.samples.headD 0 →
    exec .stretchAdjust s = .next { s with power := { s.power with stretch := min 16 (s.power.stretch + 4), drift := true } }) ∧
  (∀ s : State, s.isReady = true → s.power.drift = true →
    (s.power.driftTopUp = false ∨ s.power.requests.any (fun f => f.use_ == .topUp) = true) →
    s.power.samples.headD 0 ≤ s.chargedMw →
    exec .stretchAdjust s = .next { s with power := { s.power with
      stretch := s.power.stretch - 1, drift := s.power.stretch - 1 != 0 } })

/-- R352, R353, R355, R356, R368, R369: the request due is granted: it leaves the requests and is held from now on; a retry marks
the requests that do not fit as denied, counting each denial once, and grants the one due; the oldest denied request ages
after its AGE_US; one denied and TIMEOUT_MS old ends its op with FRANK_TIMEOUT and leaves no frank behind. -/
def Obligations.Franks : Prop :=
  (∀ (s : State) (f : Frank), s.isReady = true → s.nextGrant = some f → f.use_ ≠ .topUp →
    ∃ t, exec (.frankGrant f.id) s = .next t ∧ t.power.held = s.power.held ++ [{ f with since := s.clock.time, denied := false }] ∧
      t.power.requests = s.power.requests.filter (fun r => r.id != f.id) ∧ t.tele_ 0x238 = (s.tele_ 0x238 + 1) % 2 ^ 64) ∧
  (∀ (s : State) (f : Frank), s.isReady = true → s.nextGrant = some f → f.use_ = .topUp →
    ∃ t, exec (.frankGrant f.id) s = .next t ∧ t.power.held = s.power.held.map (fun (h : Frank) =>
        if h.id = f.parent then { h with watts := h.watts + f.watts } else h) ∧
      t.power.requests = s.power.requests.filter (fun r => r.id != f.id)) ∧
  (∀ (s : State) (q : Nat), s.isReady = true → (∀ f, s.nextGrant = some f → f.id ≠ q) → exec (.frankGrant q) s = .next s) ∧
  (∀ (s : State), s.isReady = true → s.retryMarks.nextGrant = none →
    ∃ t, exec .frankRetry s = .next t ∧ t.power.held = s.power.held ∧
      t.power.requests = s.power.requests.map (fun (f : Frank) =>
        { f with denied := s.denies f, counted := f.counted || s.denies f
                 deniedAt := if f.denied then f.deniedAt else s.clock.time, thermalOnly := s.deniedByHeat f }) ∧
      t.tele_ 0x240 = (s.tele_ 0x240 + (s.power.requests.filter (fun f => !f.counted && s.denies f)).length) % 2 ^ 64) ∧
  (∀ (s : State) (f : Frank), s.isReady = true → s.retryMarks.nextGrant = some f → f.use_ ≠ .topUp →
    ∃ t, exec .frankRetry s = .next t ∧ t.power.held = s.power.held ++ [{ f with since := s.clock.time, denied := false }] ∧
      t.power.requests = s.retryMarks.power.requests.filter (fun r => r.id != f.id)) ∧
  (∀ (s : State) (f : Frank), s.isReady = true → s.retryMarks.nextGrant = some f → f.use_ = .topUp →
    ∃ t, exec .frankRetry s = .next t ∧ t.power.held = s.power.held.map (fun (h : Frank) =>
        if h.id = f.parent then { h with watts := h.watts + f.watts } else h) ∧
      t.power.requests = s.retryMarks.power.requests.filter (fun r => r.id != f.id)) ∧
  (∀ (s : State) (f : Frank), s.isReady = true →
    (s.power.requests.filter (fun f => f.use_ != .topUp)).find? (·.denied) = some f →
    (s.power.requests.filter (fun f => f.use_ != .topUp)).any (·.aged) = false → f.deniedAt + 1000 * f.ageUs ≤ s.clock.time →
    exec (.frankAged f.id) s = .next { s with power := { s.power with requests := s.power.requests.map (fun r =>
      if r.id = f.id then { r with aged := true } else r) } }) ∧
  (∀ (s : State) (q : Nat), s.isReady = true →
    (∀ f, (s.power.requests.filter (fun f => f.use_ != .topUp)).find? (·.denied) = some f →
      f.id ≠ q ∨ (s.power.requests.filter (fun f => f.use_ != .topUp)).any (·.aged) = true ∨
        s.clock.time < f.deniedAt + 1000 * f.ageUs) → exec (.frankAged q) s = .next s) ∧
  (∀ (s : State) (f : Frank) (o : Op), s.isReady = true → s.power.requests.find? (fun r => r.id == f.id) = some f →
    f.use_ = .run → f.denied = true → f.since + 1000000 * f.timeoutMs ≤ s.clock.time → s.op f.op = some o → o.id = f.op →
    o.resultAddr = 0 →
    ∃ t, exec (.frankTimeout f.id) s = .next t ∧ t.op f.op = none ∧ (∀ r ∈ t.power.requests, r.op ≠ f.op) ∧
      t.power.held = s.power.held.filter (fun h => h.op != f.op) ∧ t.power.classes = s.power.classes) ∧
  (∀ (s : State) (q : Nat), s.isReady = true →
    (∀ f, s.power.requests.find? (fun r => r.id == q) = some f →
      f.use_ ≠ .run ∨ f.denied = false ∨ s.clock.time < f.since + 1000000 * f.timeoutMs) → exec (.frankTimeout q) s = .next s)

/-- R352: no grant takes the charged power above the fast ledger's limit. -/
def Obligations.GrantsFitFastLedger : Prop :=
  ∀ (s t : State) (q : Nat), (s.power.held.map (·.id)).Nodup → exec (.frankGrant q) s = .next t →
    t.power.held ≠ s.power.held → t.power.standingMw + 1000 * t.heldW ≤ t.fastMw

/-! ### Management: firmware update, reports, attestation -/

/-- R377, R378, R380: each firmware operation, heard and with the lock free or its own, has its effect and is answered with its
result, or with the result that refuses it; without the lock it is answered LOCKED and changes nothing else. -/
def Obligations.FirmwareOperations : Prop :=
  (∀ (s : State) (r : FwReq) (ok : Bool), s.hears r = true → s.lockedOut r = false → (s.fwArg r 0 = 1 ∨ s.fwArg r 0 = 2) →
    ∃ t, exec (.fwBegin r ok) s = .next t ∧ t.fw.lock = some (fwPath r) ∧ t.fw.stagedKind = s.fwArg r 0 ∧ t.fw.verified = false ∧
      (t.stagedSlot (s.fwArg r 0)).factory = none ∧ t.Answered r (if ok then 0 else 6)) ∧
  (∀ (s : State) (r : FwReq) (ok : Bool), s.hears r = true → s.lockedOut r = false → s.fwArg r 0 ≠ 1 → s.fwArg r 0 ≠ 2 →
    ∃ t, exec (.fwBegin r ok) s = .next t ∧ t.fw.lock = s.fw.lock ∧ t.fw.gyton = s.fw.gyton ∧ t.fw.rolrohan = s.fw.rolrohan ∧
      t.Answered r 2) ∧
  (∀ (s s1 : State) (r : FwReq) (bs : List Byte), s.hears r = true → s.lockedOut r = false → s.staging r = true →
    s.fwArg r 2 + s.fwArg r 1 ≤ slotBytes s.fw.stagedKind → s.fwData r = (s1, .ok bs) →
    (∃ t, exec (.fwWrite r true) s = .next t ∧ t.stagedSlot s.fw.stagedKind =
        { s1.stagedSlot s.fw.stagedKind with bytes := (s1.stagedSlot s.fw.stagedKind).bytes.write (s.fwArg r 2) bs } ∧
      t.fw.verified = false ∧ t.Answered r 0) ∧
    ∃ t, exec (.fwWrite r false) s = .next t ∧ t.fw.verified = false ∧ t.Answered r 6 ∧
      (∀ a, (a < s.fwArg r 2 ∨ s.fwArg r 2 + bs.length ≤ a) →
        (t.stagedSlot s.fw.stagedKind).bytes.get a = (s1.stagedSlot s.fw.stagedKind).bytes.get a)) ∧
  (∀ (s s1 : State) (r : FwReq) (ok : Bool) (e : Nat), s.hears r = true → s.lockedOut r = false → s.staging r = true →
    s.fwArg r 2 + s.fwArg r 1 ≤ slotBytes s.fw.stagedKind → s.fwData r = (s1, .error e) → e < 256 →
    ∃ t, exec (.fwWrite r ok) s = .next t ∧ t.fw.gyton = s1.fw.gyton ∧ t.fw.rolrohan = s1.fw.rolrohan ∧ t.Answered r e) ∧
  (∀ (s : State) (r : FwReq) (ok : Bool), s.hears r = true → s.lockedOut r = false → s.staging r = true →
    slotBytes s.fw.stagedKind < s.fwArg r 2 + s.fwArg r 1 →
    ∃ t, exec (.fwWrite r ok) s = .next t ∧ t.fw.gyton = s.fw.gyton ∧ t.fw.rolrohan = s.fw.rolrohan ∧ t.Answered r 3) ∧
  (∀ (s : State) (r : FwReq) (i : ImageInfo), s.hears r = true → s.lockedOut r = false → s.staging r = true →
    checkImage s.fw.stagedKind s.fuses.fuseCount (s.stagedSlot s.fw.stagedKind) = .ok i →
    ∃ t, exec (.fwVerify r) s = .next t ∧ t.fw.verified = true ∧ t.Answered r 0) ∧
  (∀ (s : State) (r : FwReq) (e : Nat), s.hears r = true → s.lockedOut r = false → s.staging r = true →
    checkImage s.fw.stagedKind s.fuses.fuseCount (s.stagedSlot s.fw.stagedKind) = .error e →
    ∃ t, exec (.fwVerify r) s = .next t ∧ t.fw.verified = false ∧ t.Answered r e) ∧
  (∀ (s : State) (r : FwReq), s.hears r = true → s.lockedOut r = false → s.staging r = true → s.fw.verified = true →
    (∃ t, exec (.fwActivate r true) s = .next t ∧ (t.bank s.fw.stagedKind).pending = some (1 - (s.bank s.fw.stagedKind).active) ∧
      t.fw.lock = none ∧ t.fw.bootGen = (s.fw.bootGen + 1) % 2 ^ 32 ∧ t.Answered r 0 ∧ t.Reports 9 3 s.fw.stagedKind) ∧
    ∃ t, exec (.fwActivate r false) s = .next t ∧ t.fw.gyton = s.fw.gyton ∧ t.fw.rolrohan = s.fw.rolrohan ∧
      t.fw.lock = s.fw.lock ∧ t.Answered r 6) ∧
  (∀ (s : State) (r : FwReq), s.hears r = true → s.lockedOut r = false → s.staging r = true →
    ∃ t, exec (.fwAbort r) s = .next t ∧ t.fw.lock = none ∧ t.fw.stagedKind = 0 ∧ t.fw.verified = false ∧ t.Answered r 0) ∧
  (∀ (s : State) (r : FwReq) (ok : Bool), s.hears r = true → s.lockedOut r = false → s.staging r = false →
    ∃ t, t.Answered r 2 ∧ t.mem = s.mem ∧ t.fw.gyton = s.fw.gyton ∧ t.fw.rolrohan = s.fw.rolrohan ∧ t.fw.lock = s.fw.lock ∧
      exec (.fwWrite r ok) s = .next t ∧ exec (.fwVerify r) s = .next t ∧ exec (.fwActivate r ok) s = .next t ∧
      exec (.fwAbort r) s = .next t) ∧
  (∀ (s : State) (r : FwReq) (ok : Bool), s.hears r = true → s.lockedOut r = false → s.staging r = true → s.fw.verified = false →
    ∃ t, t.Answered r 2 ∧ t.fw.gyton = s.fw.gyton ∧ t.fw.rolrohan = s.fw.rolrohan ∧ exec (.fwActivate r ok) s = .next t) ∧
  (∀ (s : State) (r : FwReq), s.hears r = true → s.lockedOut r = false → s.fuses.fuseCount < s.fwArg r 0 →
    s.fwArg r 0 ≤ s.activeVersion 1 → s.fwArg r 0 ≤ s.activeVersion 2 → s.fwArg r 0 ≤ 64 →
    ∃ t, exec (.fwCommit r) s = .next t ∧ t.fuses = { s.fuses with fuseCount := s.fwArg r 0 } ∧ t.Answered r 0 ∧ t.Reports 9 4 0) ∧
  (∀ (s : State) (r : FwReq), s.hears r = true → s.lockedOut r = false → (s.fwArg r 0 ≤ s.fuses.fuseCount ∨
    s.activeVersion 1 < s.fwArg r 0 ∨ s.activeVersion 2 < s.fwArg r 0 ∨ 64 < s.fwArg r 0) →
    ∃ t, exec (.fwCommit r) s = .next t ∧ t.fuses = s.fuses ∧ t.Answered r 7) ∧
  (∀ s : State, s.gytonRuns = true → s.fw.lock.isSome = true →
    exec .fwLockTimeout s = .next { s with fw := { s.fw with lock := none, stagedKind := 0, verified := false } }) ∧
  (∀ s : State, (s.gytonRuns = false ∨ s.fw.lock = none) → exec .fwLockTimeout s = .next s) ∧
  (∀ (s : State) (r : FwReq) (ok : Bool), s.hears r = true → s.lockedOut r = true →
    ∃ t, t.Answered r 1 ∧ t.mem = s.mem ∧ t.fuses = s.fuses ∧ t.fw.gyton = s.fw.gyton ∧ t.fw.rolrohan = s.fw.rolrohan ∧
      t.fw.lock = s.fw.lock ∧ exec (.fwBegin r ok) s = .next t ∧ exec (.fwWrite r ok) s = .next t ∧
      exec (.fwVerify r) s = .next t ∧ exec (.fwActivate r ok) s = .next t ∧ exec (.fwAbort r) s = .next t ∧
      exec (.fwCommit r) s = .next t) ∧
  (∀ (s : State) (r : FwReq) (ok : Bool), s.hears r = false →
    exec (.fwBegin r ok) s = .next s ∧ exec (.fwWrite r ok) s = .next s ∧ exec (.fwVerify r) s = .next s ∧
      exec (.fwActivate r ok) s = .next s ∧ exec (.fwAbort r) s = .next s ∧ exec (.fwCommit r) s = .next s)

/-- R365, R376, R385 to R388, R390: the management path's messages: the endpoint, the interface, reports with their queue of 1,024 and
their acknowledgement, the board's cap, the status, and the collector. In recovery only the endpoint, the interface, the reports
that go out and the status are served. -/
def Obligations.ManagementMessages : Prop :=
  (∀ (s : State) (q e : BitVec 8), s.gytonRuns = true →
    ∃ t, exec (.setEndpointId q e) s = .next t ∧ t.fw = { s.fw with eid := e, requester := q } ∧
      (e = 0 → t.outbox = s.outbox) ∧ (e ≠ 0 → s.fw.collector = none →
        t.outbox = s.outbox ++ s.fw.queue.map (fun r => .mgmt 1 false (r.seq % 2 ^ 16) (s.reportBody r)))) ∧
  (∀ (s : State) (a : BitVec 7), s.gytonRuns = true →
    exec (.i3cAddressAssign a) s = .next { s with fw := { s.fw with i3c := some a } }) ∧
  (∀ (s : State) (e : EventRec) (n : Option Nat) (rest : List (EventRec × Option Nat)), s.gytonRuns = true →
    s.fw.bound = (e, n) :: rest → s.fw.queue.length < 1024 →
    ∃ t, exec .faultReport s = .next t ∧ t.fw.bound = rest ∧
      t.fw.queue = s.fw.queue ++ [{ seq := s.fw.nextSeq, event := e, evSeq := n, dropped := s.fw.droppedSince }] ∧
      t.fw.droppedSince = 0 ∧ t.fw.nextSeq = (s.fw.nextSeq + 1) % 0xFFFFFFFF ∧ t.alert = true) ∧
  (∀ (s : State) (e : EventRec) (n : Option Nat) (rest : List (EventRec × Option Nat)), s.gytonRuns = true →
    s.fw.bound = (e, n) :: rest → 1024 ≤ s.fw.queue.length → (e.kind ≠ 1 ∨ ∀ r ∈ s.fw.queue, r.event.kind = 1) →
    exec .faultReport s = .next { s with fw := { s.fw with bound := rest, mgmtDropped := min (s.fw.mgmtDropped + 1) (2 ^ 32 - 1)
                                                           droppedSince := min (s.fw.droppedSince + 1) (2 ^ 32 - 1) } }) ∧
  (∀ (s : State) (e : EventRec) (n : Option Nat) (rest : List (EventRec × Option Nat)) (old : Report), s.gytonRuns = true →
    s.fw.bound = (e, n) :: rest → 1024 ≤ s.fw.queue.length → e.kind = 1 → s.fw.queue.find? (fun r => r.event.kind != 1) = some old →
    ∃ t, exec .faultReport s = .next t ∧ t.fw.bound = rest ∧ t.fw.mgmtDropped = min (s.fw.mgmtDropped + 1) (2 ^ 32 - 1) ∧
      t.fw.queue = s.fw.queue.erase old ++ [{ seq := s.fw.nextSeq, event := e, evSeq := n
                                              dropped := min (s.fw.droppedSince + 1) (2 ^ 32 - 1) }]) ∧
  (∀ s : State, (s.gytonRuns = false ∨ s.fw.bound = []) → exec .faultReport s = .next s) ∧
  (∀ (s : State) (r : Report) (rest : List Report), s.gytonRuns = true → s.fw.queue = r :: rest →
    exec .reportResend s = .next { s with outbox := s.outbox ++
      ((if s.fw.eid = 0 then [] else [.mgmt 1 false (r.seq % 2 ^ 16) (s.reportBody r)]) ++
        (match s.fw.collector with | some c => [.collector c.1 c.2 (s.reportBody r)] | none => [])) }) ∧
  (∀ s : State, (s.gytonRuns = false ∨ s.fw.queue = []) → exec .reportResend s = .next s) ∧
  (∀ (s : State) (q : BitVec 32), s.mgmtServed = true →
    ∃ t, exec (.reportAck q) s = .next t ∧ ∀ r, r ∈ t.fw.queue ↔ r ∈ s.fw.queue ∧ 2 ^ 31 ≤ (q.toNat + 2 ^ 32 - r.seq) % 2 ^ 32) ∧
  (∀ (s : State) (q w : BitVec 16), s.mgmtServed = true → 1000 ≤ w.toNat → w.toNat ≤ 2400 →
    ∃ t, exec (.setBoardCap q w) s = .next t ∧ t.power = { s.power with boardCap := w.toNat } ∧
      t.limit = min s.power.limitRequest w.toNat ∧ t.outbox.getLast? = some (.mgmt 3 true q.toNat (leBytes 1 0))) ∧
  (∀ (s : State) (q w : BitVec 16), s.mgmtServed = true → (w.toNat < 1000 ∨ 2400 < w.toNat) →
    exec (.setBoardCap q w) s = .next { s with outbox := s.outbox ++ [.mgmt 3 true q.toNat (leBytes 1 2)] }) ∧
  (∀ (s : State) (q : BitVec 16), s.gytonRuns = true →
    exec (.getStatus q) s = .next { s with outbox := s.outbox ++ [.mgmt 4 true q.toNat s.statusBody] }) ∧
  (∀ (s : State) (q : BitVec 16) (ip : BitVec 128) (u : BitVec 16) (f : BitVec 8), s.mgmtServed = true → f.toNat ≤ 1 →
    exec (.setCollector q ip u f) s = .next { s with
      fw := { s.fw with collector := if ip = 0 then none else some (ip, u), collIface := f }
      outbox := s.outbox ++ [.mgmt 5 true q.toNat (leBytes 1 0)] }) ∧
  (∀ (s : State) (q : BitVec 16) (ip : BitVec 128) (u : BitVec 16) (f : BitVec 8), s.mgmtServed = true → 1 < f.toNat →
    exec (.setCollector q ip u f) s = .next { s with outbox := s.outbox ++ [.mgmt 5 true q.toNat (leBytes 1 2)] }) ∧
  (∀ (s : State) (q w : BitVec 16) (a : BitVec 32) (ip : BitVec 128) (f : BitVec 8), s.mgmtServed = false →
    exec (.reportAck a) s = .next s ∧ exec (.setBoardCap q w) s = .next s ∧ exec (.setCollector q ip w f) s = .next s) ∧
  (∀ (s : State) (q e : BitVec 8) (a : BitVec 7) (n : BitVec 16), s.gytonRuns = false →
    exec (.setEndpointId q e) s = .next s ∧ exec (.i3cAddressAssign a) s = .next s ∧ exec (.getStatus n) s = .next s)

/-- R381, R382, R383: the SPDM responder's answers in the order of a connection, from GET_VERSION to NEGOTIATE_ALGORITHMS and the
requests that follow, signed where a signature is asked for; a request out of that order or with a slot, offset, index or
offer that the module has not is answered with an ERROR, any other request with UnsupportedRequest. -/
def Obligations.AttestationAnswers : Prop :=
  (∀ (s : State) (p : SpdmPath), s.spdmServed p = true →
    exec (.getVersion p) s = .next ((s.setSpdm p { s.spdm p with version := true, caps := false, algs := false }).send
      (.spdm p 0x04 [0, 1, 0x00, 0x12]))) ∧
  (∀ (s : State) (p : SpdmPath), s.spdmServed p = true → (s.spdm p).version = true →
    exec (.getCapabilities p) s = .next ((s.setSpdm p { s.spdm p with caps := true }).send (.spdm p 0x61 (leBytes 4 0x62F6)))) ∧
  (∀ (s : State) (p : SpdmPath), s.spdmServed p = true → (s.spdm p).caps = true →
    exec (.negotiateAlgorithms p 0xF) s = .next ((s.setSpdm p { s.spdm p with algs := true }).send (.spdm p 0x63 (leBytes 1 0xF))) ∧
    ∀ f : BitVec 4, f ≠ 0xF → exec (.negotiateAlgorithms p f) s = .next (s.send (.spdm p 0x7F (leBytes 1 1)))) ∧
  (∀ (s : State) (p : SpdmPath), s.spdmServed p = true → (s.spdm p).algs = true →
    exec (.getDigests p) s = .next (s.send (.spdm p 0x01
      (leBytes 1 1 ++ leBytes 64 (Config.sha512 (Config.certificateChain s.fuses.serial)).toNat)))) ∧
  (∀ (s : State) (p : SpdmPath) (off len : BitVec 16), s.spdmServed p = true → (s.spdm p).algs = true →
    off.toNat < (Config.certificateChain s.fuses.serial).length →
    exec (.getCertificate p 0 off len) s = .next (s.send (.spdm p 0x02
      (leBytes 2 (((Config.certificateChain s.fuses.serial).drop off.toNat).take len.toNat).length ++
        leBytes 2 ((Config.certificateChain s.fuses.serial).length - off.toNat -
          (((Config.certificateChain s.fuses.serial).drop off.toNat).take len.toNat).length) ++
        ((Config.certificateChain s.fuses.serial).drop off.toNat).take len.toNat)))) ∧
  (∀ (s : State) (p : SpdmPath) (slot : BitVec 4) (off len : BitVec 16), s.spdmServed p = true → (s.spdm p).algs = true →
    (slot ≠ 0 ∨ (Config.certificateChain s.fuses.serial).length ≤ off.toNat) →
    exec (.getCertificate p slot off len) s = .next (s.send (.spdm p 0x7F (leBytes 1 1)))) ∧
  (∀ (s : State) (p : SpdmPath) (n : BitVec 256), s.spdmServed p = true → (s.spdm p).algs = true →
    (∃ sig, exec (.challenge p 0 n) s = .next { s with freeGen := s.freeGen + 1, outbox := s.outbox ++
      [.spdm p 0x03 (leBytes 64 (Config.sha512 (Config.certificateChain s.fuses.serial)).toNat ++ sig)] } ∧ sig.length = 512) ∧
    ∀ slot : BitVec 4, slot ≠ 0 → exec (.challenge p slot n) s = .next (s.send (.spdm p 0x7F (leBytes 1 1)))) ∧
  (∀ (s : State) (p : SpdmPath) (n : BitVec 256), s.spdmServed p = true → (s.spdm p).algs = true →
    exec (.getMeasurements p 0 false n) s = .next (s.send (.spdm p 0x60 (leBytes 1 7))) ∧
    exec (.getMeasurements p 2 false n) s = .next (s.send (.spdm p 0x60
      (leBytes 1 2 ++ leBytes 2 64 ++ digestOf s.fw.gyton.running))) ∧
    exec (.getMeasurements p 3 false n) s = .next (s.send (.spdm p 0x60
      (leBytes 1 3 ++ leBytes 2 64 ++ digestOf s.fw.rolrohan.running))) ∧
    (∀ i : BitVec 8, 1 ≤ i.toNat → i.toNat ≤ 7 →
      exec (.getMeasurements p i false n) s = .next (s.send (.spdm p 0x60 (s.measurementBlock i.toNat)))) ∧
    exec (.getMeasurements p 0xFF false n) s =
      .next (s.send (.spdm p 0x60 ([1, 2, 3, 4, 5, 6, 7].flatMap s.measurementBlock))) ∧
    (∀ (i : BitVec 8) (signed : Bool), 7 < i.toNat → i ≠ 0xFF →
      exec (.getMeasurements p i signed n) s = .next (s.send (.spdm p 0x7F (leBytes 1 1)))) ∧
    ∀ i : BitVec 8, (i.toNat ≤ 7 ∨ i = 0xFF) →
      ∃ body sig, exec (.getMeasurements p i false n) s = .next (s.send (.spdm p 0x60 body)) ∧
        exec (.getMeasurements p i true n) s = .next { s with freeGen := s.freeGen + 1, outbox := s.outbox ++
          [.spdm p 0x60 (body ++ sig)] } ∧ sig.length = 512) ∧
  (∀ (s : State) (p : SpdmPath) (slot offered : BitVec 4) (off len : BitVec 16) (i : BitVec 8) (signed : Bool) (n : BitVec 256),
    s.spdmServed p = true →
    ((s.spdm p).version = false → exec (.getCapabilities p) s = .next (s.send (.spdm p 0x7F (leBytes 1 4)))) ∧
    ((s.spdm p).caps = false → exec (.negotiateAlgorithms p offered) s = .next (s.send (.spdm p 0x7F (leBytes 1 4)))) ∧
    ((s.spdm p).algs = false →
      exec (.getDigests p) s = .next (s.send (.spdm p 0x7F (leBytes 1 4))) ∧
      exec (.getCertificate p slot off len) s = .next (s.send (.spdm p 0x7F (leBytes 1 4))) ∧
      exec (.challenge p slot n) s = .next (s.send (.spdm p 0x7F (leBytes 1 4))) ∧
      exec (.getMeasurements p i signed n) s = .next (s.send (.spdm p 0x7F (leBytes 1 4))))) ∧
  (∀ (s : State) (p : SpdmPath) (c : BitVec 8), s.spdmServed p = true →
    exec (.spdmUnsupportedRequest p c) s = .next (s.send (.spdm p 0x7F (leBytes 1 7)))) ∧
  (∀ (s : State) (p : SpdmPath) (slot offered : BitVec 4) (off len : BitVec 16) (i c : BitVec 8) (signed : Bool) (n : BitVec 256),
    s.spdmServed p = false →
    exec (.getVersion p) s = .next s ∧ exec (.getCapabilities p) s = .next s ∧ exec (.negotiateAlgorithms p offered) s = .next s ∧
      exec (.getDigests p) s = .next s ∧ exec (.getCertificate p slot off len) s = .next s ∧ exec (.challenge p slot n) s = .next s ∧
      exec (.getMeasurements p i signed n) s = .next s ∧ exec (.spdmUnsupportedRequest p c) s = .next s)

/-- R382, R384, R391, R396: one session at a time opens with a secret, is established by a FINISH that verifies and ended by one that
does not, carries heartbeats and key updates and ends; IDE keys come over the session of DOE, and a failed check makes a secure
stream insecure, which is reported. Out of that order a request is answered with an ERROR. -/
def Obligations.SessionsAndIde : Prop :=
  (∀ (s : State) (p : SpdmPath) (b : List Byte), s.spdmServed p = true → (s.spdm p).algs = true → (s.spdm p).session = none →
    ∃ t k, exec (.keyExchange p b) s = .next t ∧ (t.spdm p).session = some k ∧ (t.spdm p).established = false ∧
      t.fw.secrets = s.fw.secrets ++ [k]) ∧
  (∀ (s : State) (p : SpdmPath) (b : List Byte), s.spdmServed p = true →
    ((s.spdm p).algs = false → exec (.keyExchange p b) s = .next (s.send (.spdm p 0x7F (leBytes 1 4)))) ∧
    ((s.spdm p).algs = true → (s.spdm p).session ≠ none →
      exec (.keyExchange p b) s = .next (s.send (.spdm p 0x7F (leBytes 1 0x0A)))) ∧
    (((s.spdm p).session = none ∨ (s.spdm p).established = true) →
      exec (.finish p b) s = .next (s.send (.spdm p 0x7F (leBytes 1 4))))) ∧
  (∀ (s : State) (p : SpdmPath) (b : List Byte) (k : BitVec 512), s.spdmServed p = true → (s.spdm p).session = some k →
    (s.spdm p).established = false → Config.finishVerifies k b = true →
    ∃ t, exec (.finish p b) s = .next t ∧ (t.spdm p).established = true ∧ (t.spdm p).session = some k ∧
      t.Reports 9 9 (spdmSubject p)) ∧
  (∀ (s : State) (p : SpdmPath) (b : List Byte) (k : BitVec 512), s.spdmServed p = true → (s.spdm p).session = some k →
    (s.spdm p).established = false → Config.finishVerifies k b = false →
    ∃ t, exec (.finish p b) s = .next t ∧ (t.spdm p).session = none) ∧
  (∀ (s : State) (p : SpdmPath), s.spdmServed p = true → (s.spdm p).established = true →
    (∃ t, exec (.endSession p) s = .next t ∧ (t.spdm p).session = none ∧ (t.spdm p).established = false ∧
      t.Reports 9 9 (spdmSubject p)) ∧
    exec (.heartbeat p) s = .next (s.send (.spdm p 0x68 [])) ∧
    exec (.keyUpdate p) s = .next ((s.setSpdm p { s.spdm p with keyGen := (s.spdm p).keyGen + 1 }).send (.spdm p 0x69 []))) ∧
  (∀ (s : State) (p : SpdmPath), s.spdmServed p = true → (s.spdm p).established = false →
    exec (.endSession p) s = .next (s.send (.spdm p 0x7F (leBytes 1 4))) ∧
    exec (.heartbeat p) s = .next (s.send (.spdm p 0x7F (leBytes 1 4))) ∧
    exec (.keyUpdate p) s = .next (s.send (.spdm p 0x7F (leBytes 1 4)))) ∧
  (∀ s : State, s.spdmServed .doe = true → s.fw.spdmDoe.established = true →
    exec (.ideKm .query) s = .next (s.send (.spdm .doe 0x7E [1])) ∧
    (∃ t, exec (.ideKm .setStop) s = .next t ∧ t.pcie.ide = .off) ∧
    (∀ k, ∃ t, exec (.ideKm (.keyProg true k)) s = .next t ∧ t.pcie.ideKeyRx = k ∧ t.pcie.ideKeyTx = s.pcie.ideKeyTx ∧
      t.pcie.ide = (if s.pcie.ide = .off then .keyed else s.pcie.ide)) ∧
    (∀ k, ∃ t, exec (.ideKm (.keyProg false k)) s = .next t ∧ t.pcie.ideKeyTx = k ∧ t.pcie.ideKeyRx = s.pcie.ideKeyRx ∧
      t.pcie.ide = (if s.pcie.ide = .off then .keyed else s.pcie.ide)) ∧
    (∃ t, exec (.ideKm .setGo) s = .next t ∧ t.pcie.ide = (if s.pcie.ide = .keyed then .secure else s.pcie.ide))) ∧
  (∀ (s : State) (k : IdeRequest), s.spdmServed .doe = true → s.fw.spdmDoe.established = false →
    exec (.ideKm k) s = .next (s.send (.spdm .doe 0x7F (leBytes 1 4)))) ∧
  (∀ s : State, s.functionRuns = true → s.pcie.ide = .secure →
    ∃ t, exec .ideFailed s = .next t ∧ t.pcie.ide = .insecure ∧ t.Reports 9 8 0) ∧
  (∀ s : State, (s.functionRuns = false ∨ s.pcie.ide ≠ .secure) → exec .ideFailed s = .next s) ∧
  (∀ (s : State) (p : SpdmPath) (b : List Byte), s.spdmServed p = false →
    exec (.keyExchange p b) s = .next s ∧ exec (.finish p b) s = .next s ∧ exec (.endSession p) s = .next s ∧
      exec (.heartbeat p) s = .next s ∧ exec (.keyUpdate p) s = .next s) ∧
  (∀ (s : State) (k : IdeRequest), s.spdmServed .doe = false → exec (.ideKm k) s = .next s)

/-! ### Host side -/

/-- R189 to R192, R222: a poll or a nudge asks for the doorbell page once; a page that arrives tells each enabled ring that is not
stopped its producer, or stops it with cause 1 when the claim goes beyond the ring's size; a failed poll is counted, and told
from the sixteenth on. -/
def DoorbellHold : Prop :=
  (∀ s : State, s.isReady = true → s.host.pageEnable = true → s.mayRequest = true → s.host.polling = false →
    exec .doorbellPoll s = .next { s with host := { s.host with polling := true }
                                          outbox := s.outbox ++ [.hostRead s.host.pageAddr.toNat 1024] }) ∧
  (∀ s : State, s.isReady = true → (s.host.pageEnable = false ∨ s.mayRequest = false ∨ s.host.polling = true) →
    exec .doorbellPoll s = .next s) ∧
  (∀ (s : State) (v : BitVec 32), exec (.nudge v) s = exec .doorbellPoll s) ∧
  (∀ (s : State) (r : HostRead), s.isReady = true → s.host.polling = false → exec (.doorbellPollDone r) s = .next s) ∧
  (∀ (s : State) (page : List Byte), s.isReady = true → s.host.polling = true → s.commands.all (fun c => knownType c.typ) = true →
    ∃ t, exec (.doorbellPollDone (.data page)) s = .next t ∧ t.host.polling = false ∧ t.host.failedPolls = 0 ∧
      (∀ n p, n < 64 → doorbellWord (word64 page (8 * n)) = some p → (s.ring n).enable = true → (s.ring n).stopped = false →
        (p + 2 ^ 32 - (s.ring n).fetched) % 2 ^ 32 ≤ 2 ^ (s.ring n).log2 → t.ring n = { s.ring n with producer := p }) ∧
      (∀ n p, n < 64 → doorbellWord (word64 page (8 * n)) = some p → (s.ring n).enable = true → (s.ring n).stopped = false →
        2 ^ (s.ring n).log2 < (p + 2 ^ 32 - (s.ring n).fetched) % 2 ^ 32 →
        t.ring n = { s.ring n with stopped := true, cause := 1 }) ∧
      (∀ n, n < 64 → (doorbellWord (word64 page (8 * n)) = none ∨ (s.ring n).enable = false ∨ (s.ring n).stopped = true) →
        t.ring n = s.ring n) ∧
      (∀ c, doorbellWord (word64 page 0x200) = some c → t.host.eqConsumed = c)) ∧
  (∀ (s : State) (how : HostFail), s.isReady = true → s.host.polling = true →
    ∃ t, exec (.doorbellPollDone (.failed how)) s = .next t ∧ t.host.polling = false ∧
      t.host.failedPolls = min (s.host.failedPolls + 1) (2 ^ 32 - 1) ∧ (∀ n, t.ring n = s.ring n) ∧
      (15 ≤ s.host.failedPolls → s.host.faultTime = none → s.host.buffer.length < 256 →
        t.host.faultTime = some s.clock.time) ∧
      (s.host.failedPolls < 15 → t.host.faultTime = s.host.faultTime))

/-- R11, R192 to R194, R197, R200, R307: the next descriptor of a ring with room is read from its place and kept behind the ring's
others; a read that fails stops the ring with cause 2; a reserved CMD_TYPE whose turn has come completes with BAD_DESCRIPTOR,
a type that a failed in-package link bars with ABORTED, a descriptor that meets poison with MEMORY_UNCORRECTABLE. -/
def FetchingHold : Prop :=
  (∀ (s : State) (n : Fin 64) (bs : List Byte), s.Fetches n.val → s.Sound → s.life.failedLinks = [] →
    s.commands.all (fun c => knownType c.typ) = true →
    (knownType (field (padTo 64 bs) 0 1) = true ∨ (s.ring n.val).waiting ≠ none) →
    ∃ t, exec (.commandFetch n (.data bs)) s = .next t ∧ t.ring n.val = s.fetchedRing n.val bs ∧
      t.outbox = s.outbox ++ [s.fetchRead n.val] ∧ (∀ m, m ≠ n.val → t.ring m = s.ring m)) ∧
  (∀ (s : State) (n : Fin 64) (how : HostFail), s.Fetches n.val →
    ∃ t, exec (.commandFetch n (.failed how)) s = .next t ∧ t.ring n.val = { s.ring n.val with stopped := true, cause := 2 }) ∧
  (∀ (s : State) (n : Fin 64) (bs : List Byte), s.Fetches n.val → s.Sound → s.life.failedLinks = [] →
    s.commands.all (fun c => knownType c.typ) = true → knownType (field (padTo 64 bs) 0 1) = false →
    (s.ring n.val).waiting = none → (s.ring n.val).cmd s.nextId = none →
    (s.fetchedState n.val bs).mayStart n.val (s.fetchedCmd n.val bs) = true →
    ∃ t, exec (.commandFetch n (.data bs)) s = .next t ∧
      s.Recorded t n.val (s.ring n.val).cq (s.fetchedCmd n.val bs) 0x20 false 0 ∧ (t.ring n.val).cmds = (s.ring n.val).cmds) ∧
  (∀ (s : State) (n : Fin 64) (bs : List Byte) (l : Nat) (ls : List Nat), s.Fetches n.val → s.Sound → s.life.failedLinks = l :: ls →
    s.commands.all (fun c => knownType c.typ) = true → heavyType (field (padTo 64 bs) 0 1) = true →
    (s.ring n.val).cmd s.nextId = none →
    ∃ t, exec (.commandFetch n (.data bs)) s = .next t ∧
      s.Recorded t n.val (s.ring n.val).cq (s.fetchedCmd n.val bs) 0x60 false l ∧ (t.ring n.val).cmds = (s.ring n.val).cmds) ∧
  (∀ (s : State) (n : Fin 64) (bs : List Byte) (l : Nat) (ls : List Nat), s.Fetches n.val → s.Sound → s.life.failedLinks = l :: ls →
    s.commands.all (fun c => knownType c.typ) = true → knownType (field (padTo 64 bs) 0 1) = true →
    heavyType (field (padTo 64 bs) 0 1) = false →
    ∃ t, exec (.commandFetch n (.data bs)) s = .next t ∧ t.ring n.val = s.fetchedRing n.val bs) ∧
  (∀ (s : State) (n : Fin 64) (bs : List Byte), s.Fetches n.val → s.commands.all (fun c => knownType c.typ) = true →
    ((s.fetchedState n.val bs).meetHidden 0x0A s.nextId).2 = true → (s.ring n.val).cmd s.nextId = none →
    ∃ t, exec (.commandFetch n (.data bs)) s = .next t ∧
      s.Recorded t n.val (s.ring n.val).cq (s.fetchedCmd n.val bs) 0x31 false 0) ∧
  (∀ (s : State) (n : Fin 64) (r : HostRead), s.isReady = true → ((s.ring n.val).enable = false ∨ (s.ring n.val).stopped = true ∨
    s.mayRequest = false ∨ (s.ring n.val).fetched = (s.ring n.val).producer ∨ 64 ≤ (s.ring n.val).cmds.length) →
    exec (.commandFetch n r) s = .next s)

/-- R11, R189 to R194, R197, R200, R222, R307: the doorbell page, and the fetching of commands. -/
def Obligations.DoorbellAndFetching : Prop := DoorbellHold ∧ FetchingHold

/-- R195, R211, R218: a write to a ring's or a queue's size register, or to the event queue's base, while it is disabled takes the fields
and may enable it with its counts at 0; while it is enabled it keeps its size. One out of range, one that enables a ring whose
queue is disabled, and one that disables a queue in use have no effect. -/
def QueueEnablesHold : Prop :=
  (∀ (s : State) (n : Fin 64) (a : RegAccess), s.isReady = true → (s.ring n.val).enable = false → (s.ring n.val).cmds = [] →
    4 ≤ bits (accessValue a (sqSizeReg (s.ring n.val))) 4 0 → bits (accessValue a (sqSizeReg (s.ring n.val))) 4 0 ≤ 16 →
    (bit (accessValue a (sqSizeReg (s.ring n.val))) 16 = true →
      (s.cq (bits (accessValue a (sqSizeReg (s.ring n.val))) 13 8)).enable = true →
      ∃ t, exec (.ringEnable n a) s = .next t ∧ t.ring n.val = { s.ring n.val with
        log2 := bits (accessValue a (sqSizeReg (s.ring n.val))) 4 0, cq := bits (accessValue a (sqSizeReg (s.ring n.val))) 13 8
        enable := true, fetched := 0, producer := 0, stopped := false, cause := 0 }) ∧
    (bit (accessValue a (sqSizeReg (s.ring n.val))) 16 = false →
      ∃ t, exec (.ringEnable n a) s = .next t ∧ t.ring n.val = { s.ring n.val with
        log2 := bits (accessValue a (sqSizeReg (s.ring n.val))) 4 0, cq := bits (accessValue a (sqSizeReg (s.ring n.val))) 13 8 }) ∧
    (bit (accessValue a (sqSizeReg (s.ring n.val))) 16 = true →
      (s.cq (bits (accessValue a (sqSizeReg (s.ring n.val))) 13 8)).enable = false → exec (.ringEnable n a) s = .next s)) ∧
  (∀ (s : State) (n : Fin 64) (a : RegAccess), s.isReady = true → (s.ring n.val).enable = false → (s.ring n.val).cmds ≠ [] →
    4 ≤ (s.ring n.val).log2 → (s.ring n.val).log2 ≤ 16 → (s.cq (s.ring n.val).cq).enable = true →
    ∃ t, exec (.ringEnable n a) s = .next t ∧ t.ring n.val =
      (if bit (accessValue a (sqSizeReg (s.ring n.val))) 16 = true then
        { s.ring n.val with enable := true, fetched := 0, producer := 0, stopped := false, cause := 0 } else s.ring n.val)) ∧
  (∀ (s : State) (n : Fin 64) (a : RegAccess), s.isReady = true → (s.ring n.val).enable = false → (s.ring n.val).cmds = [] →
    (bits (accessValue a (sqSizeReg (s.ring n.val))) 4 0 < 4 ∨ 16 < bits (accessValue a (sqSizeReg (s.ring n.val))) 4 0) →
    exec (.ringEnable n a) s = .next s) ∧
  (∀ (s : State) (n : Fin 64) (a : RegAccess), s.isReady = true → (s.ring n.val).enable = true → 4 ≤ (s.ring n.val).log2 →
    (s.ring n.val).log2 ≤ 16 →
    ∃ t, exec (.ringEnable n a) s = .next t ∧
      t.ring n.val = { s.ring n.val with enable := bit (accessValue a (sqSizeReg (s.ring n.val))) 16 }) ∧
  (∀ (s : State) (q : Fin 64) (a : RegAccess), s.isReady = true → (s.cq q.val).enable = false →
    4 ≤ bits (accessValue a (cqSizeReg (s.cq q.val))) 4 0 → bits (accessValue a (cqSizeReg (s.cq q.val))) 4 0 ≤ 16 →
    ∃ t, exec (.cqEnable q a) s = .next t ∧ t.cq q.val = { s.cq q.val with
      log2 := bits (accessValue a (cqSizeReg (s.cq q.val))) 4 0, enable := bit (accessValue a (cqSizeReg (s.cq q.val))) 8
      irqEnable := bit (accessValue a (cqSizeReg (s.cq q.val))) 9
      irqCount := bits (accessValue a (cqSizeReg (s.cq q.val))) 23 16
      irqTimeUs := bits (accessValue a (cqSizeReg (s.cq q.val))) 47 32
      written := if bit (accessValue a (cqSizeReg (s.cq q.val))) 8 then 0 else (s.cq q.val).written
      uncovered := if bit (accessValue a (cqSizeReg (s.cq q.val))) 8 then 0 else (s.cq q.val).uncovered }) ∧
  (∀ (s : State) (q : Fin 64) (a : RegAccess), s.isReady = true → (s.cq q.val).enable = false →
    (bits (accessValue a (cqSizeReg (s.cq q.val))) 4 0 < 4 ∨ 16 < bits (accessValue a (cqSizeReg (s.cq q.val))) 4 0) →
    exec (.cqEnable q a) s = .next s) ∧
  (∀ (s : State) (q : Fin 64) (a : RegAccess), s.isReady = true → (s.cq q.val).enable = true →
    (bit (accessValue a (cqSizeReg (s.cq q.val))) 8 = false → s.queueUsed q.val = true → exec (.cqEnable q a) s = .next s) ∧
    ((bit (accessValue a (cqSizeReg (s.cq q.val))) 8 = true ∨ s.queueUsed q.val = false) →
      ∃ t, exec (.cqEnable q a) s = .next t ∧ t.cq q.val = { s.cq q.val with
        enable := bit (accessValue a (cqSizeReg (s.cq q.val))) 8, irqEnable := bit (accessValue a (cqSizeReg (s.cq q.val))) 9
        irqCount := bits (accessValue a (cqSizeReg (s.cq q.val))) 23 16
        irqTimeUs := bits (accessValue a (cqSizeReg (s.cq q.val))) 47 32
        uncovered := if bit (accessValue a (cqSizeReg (s.cq q.val))) 9 = true ∧
          max 1 (bits (accessValue a (cqSizeReg (s.cq q.val))) 23 16) ≤ (s.cq q.val).uncovered then 0 else (s.cq q.val).uncovered })) ∧
  (∀ (s : State) (a : RegAccess), s.isReady = true → s.host.eqEnable = false →
    ∃ t, exec (.eventQueueEnable a) s = .next t ∧
      t.host.eqEnable = bit (accessValue a (bitOf s.host.eqEnable + s.host.eqBase.toNat)) 0 ∧
      t.host.eqBase = BitVec.ofNat 64 (bits (accessValue a (bitOf s.host.eqEnable + s.host.eqBase.toNat)) 63 12 * 2 ^ 12) ∧
      (t.host.eqEnable = true → s.host.buffer = [] → t.host.eqWritten = 0 ∧ t.host.eqConsumed = 0)) ∧
  (∀ (s : State) (a : RegAccess), s.isReady = true → s.host.eqEnable = true →
    exec (.eventQueueEnable a) s = .next { s with host := { s.host with
      eqEnable := bit (accessValue a (bitOf s.host.eqEnable + s.host.eqBase.toNat)) 0 } })

/-- R186, R212: the interrupt of a queue is sent, or stays pending while its vector is masked; unmasking a vector, or the function,
sends what is pending. -/
def InterruptsHold : Prop :=
  (∀ (s : State) (q : Fin 64), s.isReady = true → (s.cq q.val).irqEnable = true → (s.cq q.val).irqTimeUs ≠ 0 →
    (s.cq q.val).uncovered ≠ 0 →
    ∃ t, exec (.cqIrqTimer q) s = .next t ∧ t.cq q.val = { s.cq q.val with uncovered := 0 } ∧
      (s.vectorMasked q.val = true → t.host.msixPend.get false q.val = true ∧ t.outbox = s.outbox) ∧
      (s.vectorMasked q.val = false → s.mayRequest = true → s.host.held = [] → t.outbox = s.outbox ++ [.msix q.val])) ∧
  (∀ (s : State) (q : Fin 64), s.isReady = true →
    ((s.cq q.val).irqEnable = false ∨ (s.cq q.val).irqTimeUs = 0 ∨ (s.cq q.val).uncovered = 0) →
    exec (.cqIrqTimer q) s = .next s) ∧
  (∀ (s : State) (v : Fin 128), s.functionRuns = true →
    ∃ t, exec (.msixUnmask (some v)) s = .next t ∧ (t.host.msix.get MsixEntry.reset v.val).mask = false ∧
      (s.host.msixFnMask = false → s.host.msixEnable = true → s.host.msixPend.get false v.val = true →
        t.host.msixPend.get false v.val = false ∧ t.Asked (.msix v.val) ∧
        (s.mayRequest = true → s.host.held = [] → t.outbox = s.outbox ++ [.msix v.val])) ∧
      ((s.host.msixFnMask = true ∨ s.host.msixEnable = false ∨ s.host.msixPend.get false v.val = false) →
        t.host.msixPend = s.host.msixPend ∧ t.outbox = s.outbox)) ∧
  (∀ s : State, s.functionRuns = true →
    ∃ t, exec (.msixUnmask none) s = .next t ∧ t.host.msixFnMask = false ∧ t.host.msixEnable = true ∧ t.host.msix = s.host.msix ∧
      ∀ v, v < 128 → s.host.msixPend.get false v = true →
        ((s.host.msix.get MsixEntry.reset v).mask = false → t.host.msixPend.get false v = false ∧ t.Asked (.msix v)) ∧
        ((s.host.msix.get MsixEntry.reset v).mask = true → t.host.msixPend.get false v = true)) ∧
  (∀ (s : State) (v : Option (Fin 128)), s.functionRuns = false → exec (.msixUnmask v) s = .next s)

/-- R186, R195, R211, R212, R218: rings, queues and their interrupts. -/
def Obligations.QueuesAndInterrupts : Prop := QueueEnablesHold ∧ InterruptsHold

/-- R187, R188, R216, R307: BAR2 reads return what device memory holds, but for a byte of an output whose record is not valid yet, which is
open (log 10); ones where the address faults, and a poisoned completion where a block is; a write lands where it is addressed and
nowhere else, and nowhere where the address faults. -/
def Obligations.Bar2Window : Prop :=
  (∀ (s s1 : State) (off n : Nat) (bs : List Byte), s.isReady = true → off + n ≤ 2 ^ 36 →
    s.bar2Target (s.host.bar2Base.toNat + off) = true → s.readPhys allowOwn (s.host.bar2Base.toNat + off) n = (s1, .ok bs) →
    ∃ t out, exec (.bar2Read off n) s = .next t ∧ t.outbox = s1.outbox ++ [.barData out] ∧ t.mem = s1.mem ∧
      out.length = bs.length ∧
      ∀ i, i < bs.length → (∀ r ∈ s1.pendingOutputs, s.host.bar2Base.toNat + off + i < r.1 ∨ r.1 + r.2 ≤ s.host.bar2Base.toNat + off + i) →
        out.getD i 0 = bs.getD i 0) ∧
  (∀ (s : State) (off n : Nat), s.isReady = true → off + n ≤ 2 ^ 36 → s.bar2Target (s.host.bar2Base.toNat + off) = false →
    ∃ t, exec (.bar2Read off n) s = .next t ∧ t.outbox.getLast? = some (.barData (List.replicate n 255)) ∧ t.mem = s.mem) ∧
  (∀ (s s1 : State) (off n b : Nat), s.isReady = true → off + n ≤ 2 ^ 36 → s.bar2Target (s.host.bar2Base.toNat + off) = true →
    s.readPhys allowOwn (s.host.bar2Base.toNat + off) n = (s1, .error (.bad b)) →
    ∃ t, exec (.bar2Read off n) s = .next t ∧ t.outbox = s1.outbox ++ [.barPoison b] ∧ t.mem = s1.mem) ∧
  (∀ (s s1 : State) (off n d : Nat), s.isReady = true → off + n ≤ 2 ^ 36 → s.bar2Target (s.host.bar2Base.toNat + off) = true →
    s.readPhys allowOwn (s.host.bar2Base.toNat + off) n = (s1, .error (.addr d)) →
    ∃ t, exec (.bar2Read off n) s = .next t ∧ t.outbox.getLast? = some (.barData (List.replicate n 255)) ∧ t.mem = s1.mem) ∧
  (∀ (s : State) (off : Nat) (bytes : List Byte) (z : Zone) (l : Nat), s.isReady = true → off + bytes.length ≤ 2 ^ 36 → bytes ≠ [] →
    s.bar2Target (s.host.bar2Base.toNat + off) = true →
    s.check allowOwn (s.host.bar2Base.toNat + off) bytes.length = .ok (z, l) →
    (z = .hbm → s.refusesWrite l bytes.length = false) →
    ∃ t, exec (.bar2Write off bytes) s = .next t ∧
      (∀ i, i < bytes.length → noSlot (l + i) = false → t.mem.ram.get (l + i) = bytes.getD i 0) ∧
      (∀ a, (a < l ∨ l + bytes.length ≤ a) → t.mem.ram.get a = s.mem.ram.get a)) ∧
  (∀ (s s1 : State) (off : Nat) (bytes : List Byte) (e : MemErr), s.isReady = true → off + bytes.length ≤ 2 ^ 36 →
    s.bar2Target (s.host.bar2Base.toNat + off) = true →
    s.writePhys allowOwn (s.host.bar2Base.toNat + off) bytes = (s1, .error e) →
    ∃ t, exec (.bar2Write off bytes) s = .next t ∧ t.mem = s1.mem) ∧
  (∀ (s : State) (off : Nat) (bytes : List Byte), s.isReady = true → off + bytes.length ≤ 2 ^ 36 →
    s.bar2Target (s.host.bar2Base.toNat + off) = false → ∃ t, exec (.bar2Write off bytes) s = .next t ∧ t.mem = s.mem) ∧
  (∀ (s : State) (off n : Nat) (bytes : List Byte), s.isReady = true →
    (2 ^ 36 < off + n → exec (.bar2Read off n) s = .next s) ∧
    (2 ^ 36 < off + bytes.length → exec (.bar2Write off bytes) s = .next s))

/-- R203, R205, R206: a write sets a semaphore, a write to the add window adds to it modulo 2^32, the other semaphores stay; with an
8-byte access the next one follows, and one that is not aligned has no effect. A WAIT on the semaphore is tested: it completes
where its condition holds, having taken its target away if it consumes. -/
def SemaphoreWritesHold : Prop :=
  (∀ (s : State) (i : BitVec 16) (v : BitVec 32), s.isReady = true → s.Unwatched →
    (∃ t, exec (.semValueWrite i v none) s = .next t ∧ t.sem i.toNat = v ∧ (∀ j, j ≠ i.toNat → t.sem j = s.sem j) ∧ t.mem = s.mem) ∧
    (∃ t, exec (.semAddWindowWrite i v none) s = .next t ∧ t.sem i.toNat = s.sem i.toNat + v ∧
      (∀ j, j ≠ i.toNat → t.sem j = s.sem j) ∧ t.mem = s.mem)) ∧
  (∀ (s : State) (i : BitVec 16) (v w : BitVec 32), s.isReady = true → i.toNat % 2 = 0 → s.Unwatched →
    (∃ t, exec (.semValueWrite i v (some w)) s = .next t ∧ t.sem i.toNat = v ∧ t.sem (i.toNat + 1) = w ∧
      ∀ j, j ≠ i.toNat → j ≠ i.toNat + 1 → t.sem j = s.sem j) ∧
    ∃ t, exec (.semAddWindowWrite i v (some w)) s = .next t ∧ t.sem i.toNat = s.sem i.toNat + v ∧
      t.sem (i.toNat + 1) = s.sem (i.toNat + 1) + w ∧ ∀ j, j ≠ i.toNat → j ≠ i.toNat + 1 → t.sem j = s.sem j) ∧
  (∀ (s : State) (i : BitVec 16) (v w : BitVec 32), s.isReady = true → i.toNat % 2 = 1 →
    exec (.semValueWrite i v (some w)) s = .next s ∧ exec (.semAddWindowWrite i v (some w)) s = .next s) ∧
  (∀ (s : State) (i : BitVec 16) (v x : BitVec 32) (o : Op), s.isReady = true → s.seq.window = [o] → o.kind = opWait →
    o.phase = .issued → o.semIndex = i.toNat → o.resultAddr = 0 → (x = v ∨ x = s.sem i.toNat + v) →
    ∃ t, exec (if x = v then .semValueWrite i v none else .semAddWindowWrite i v none) s = .next t ∧
      (o.condHolds x = true → t.op o.id = none ∧ t.sem i.toNat = if o.consumes then x - o.waitTarget else x) ∧
      (o.condHolds x = false → t.op o.id = some o ∧ t.sem i.toNat = x))

/-- R28, R96, R261: the seed is set by an 8-byte write alone; an invalidation discards every cached translation when it completes. A walk
that meets a table pointer with WRITE = 1, which R25 forbids, faults the access: the model's choice (log 69). -/
def SeedAndTranslationsHold : Prop :=
  (∀ (s : State) (v : Word), s.isReady = true →
    exec (.jobSeedWrite (.wide v)) s = .next { s with numerics := { s.numerics with seed := v, seedValid := true } }) ∧
  (∀ (s : State) (v : BitVec 32), s.isReady = true →
    exec (.jobSeedWrite (.low v)) s = .next s ∧ exec (.jobSeedWrite (.high v)) s = .next s) ∧
  (∀ (s : State) (a : RegAccess), s.isReady = true →
    (bit (accessValue a 0) 0 = true → exec (.ptInvalidate a) s = .next { s with mem := { s.mem with invBusy := true } }) ∧
    (bit (accessValue a 0) 0 = false → exec (.ptInvalidate a) s = .next s)) ∧
  (∀ s : State, s.isReady = true → s.mem.invBusy = true →
    exec .ptInvalidateDone s = .next { s with mem := { s.mem with invBusy := false, tlb := [] } }) ∧
  (∀ s : State, s.isReady = true → s.mem.invBusy = false → exec .ptInvalidateDone s = .next s) ∧
  (∀ (s : State) (root : Word) (allow : Allow) (va n : Nat), s.Sound → va < 2 ^ 48 → 0 < n →
    (∀ e ∈ s.mem.tlb, e.1 ≠ (root.toNat, va / 0x10000)) → s.walkMeets root va pointerWrites →
    ∃ t, s.readVirt root allow va n = (t, .error (.addr (virtDetail va))) ∧ t.mem.ram = s.mem.ram)

/-- R28, R96, R203, R206, R261: single registers that software writes: semaphores, the seed and the invalidation. -/
def Obligations.SemaphoreAndSeedWrites : Prop := SemaphoreWritesHold ∧ SeedAndTranslationsHold


/-- R61, R130, R229, R263, R317, R347, R368, R412: a setup register holds what was written to it, with 4 bytes or 8, when the value is in
range, and is left alone by one that is not; the other blocks stay. -/
def SetupWritesHold : Prop :=
  ∀ (s : State) (a : RegAccess), s.isReady = true →
    (250 ≤ bits (accessValue a (s.ringsReg 8)) 16 0 → bits (accessValue a (s.ringsReg 8)) 16 0 ≤ 100000 →
      exec (.registerWrite 0x10008 a) s = .next { s with host := { s.host with pollNs := bits (accessValue a (s.ringsReg 8)) 16 0 } }) ∧
    ((bits (accessValue a (s.ringsReg 8)) 16 0 < 250 ∨ 100000 < bits (accessValue a (s.ringsReg 8)) 16 0) →
      exec (.registerWrite 0x10008 a) s = .next s) ∧
    ((s.host.pageEnable = false ∨ bit (accessValue a (s.ringsReg 0)) 0 = false) →
      exec (.registerWrite 0x10000 a) s = .next { s with host := { s.host with
        pageEnable := bit (accessValue a (s.ringsReg 0)) 0
        pageAddr := BitVec.ofNat 64 (bits (accessValue a (s.ringsReg 0)) 63 12 * 2 ^ 12) } }) ∧
    (s.host.eqEnable = false → 6 ≤ bits (accessValue a (s.ringsReg 0x18)) 4 0 → bits (accessValue a (s.ringsReg 0x18)) 4 0 ≤ 16 →
      exec (.registerWrite 0x10018 a) s = .next { s with host := { s.host with eqLog2 := bits (accessValue a (s.ringsReg 0x18)) 4 0 } }) ∧
    (s.host.eqEnable = true → exec (.registerWrite 0x10018 a) s = .next s) ∧
    exec (.registerWrite 0x10028 a) s = .next { s with host := { s.host with
      bar2Base := BitVec.ofNat 64 (bits (accessValue a (s.ringsReg 0x28)) 47 30 * 2 ^ 30) } } ∧
    exec (.registerWrite 0x20000 a) s = .next { s with mem := { s.mem with
      ptRoot := BitVec.ofNat 64 (bits (accessValue a s.mem.ptRoot.toNat) 0 0 + bits (accessValue a s.mem.ptRoot.toNat) 47 17 * 2 ^ 17) } } ∧
    (bits (accessValue a (s.plateReg 0)) 1 0 ≠ 0 → exec (.registerWrite 0x30000 a) s = .next { s with plate := { s.plate with
      checkDefault := BitVec.ofNat 2 (bits (accessValue a (s.plateReg 0)) 1 0) } }) ∧
    (bits (accessValue a (s.plateReg 0)) 1 0 = 0 → exec (.registerWrite 0x30000 a) s = .next s) ∧
    exec (.registerWrite 0x30008 a) s = .next { s with plate := { s.plate with duet := bit (accessValue a (s.plateReg 8)) 0 } } ∧
    (10 ≤ bits (accessValue a (s.plateReg 0x30)) 15 8 → bits (accessValue a (s.plateReg 0x30)) 15 8 ≤ 60 →
      1 ≤ bits (accessValue a (s.plateReg 0x30)) 23 16 → bits (accessValue a (s.plateReg 0x30)) 23 16 ≤ 24 →
      exec (.registerWrite 0x30030 a) s = .next { s with plate := { s.plate with
        scrubSram := bit (accessValue a (s.plateReg 0x30)) 0, scrubHbm := bit (accessValue a (s.plateReg 0x30)) 1
        sramMin := bits (accessValue a (s.plateReg 0x30)) 15 8, hbmHours := bits (accessValue a (s.plateReg 0x30)) 23 16 } }) ∧
    ((bits (accessValue a (s.plateReg 0x30)) 15 8 < 10 ∨ 60 < bits (accessValue a (s.plateReg 0x30)) 15 8 ∨
        bits (accessValue a (s.plateReg 0x30)) 23 16 < 1 ∨ 24 < bits (accessValue a (s.plateReg 0x30)) 23 16) →
      exec (.registerWrite 0x30030 a) s = .next s) ∧
    (1 ≤ bits (accessValue a (s.numericsReg 0x10)) 6 0 → bits (accessValue a (s.numericsReg 0x10)) 6 0 ≤ 64 →
      exec (.registerWrite 0x40010 a) s = .next { s with numerics := { s.numerics with
        histLen := bits (accessValue a (s.numericsReg 0x10)) 6 0, marginExp := bits (accessValue a (s.numericsReg 0x10)) 11 8 } }) ∧
    (1 ≤ bits (accessValue a (s.numericsReg 0x18)) 4 0 → bits (accessValue a (s.numericsReg 0x18)) 4 0 ≤ 24 →
      exec (.registerWrite 0x40018 a) s = .next { s with numerics := { s.numerics with
        flushLog2 := bits (accessValue a (s.numericsReg 0x18)) 4 0 } }) ∧
    exec (.registerWrite 0x40020 a) s = .next { s with numerics := { s.numerics with
      runLength := bits (accessValue a (s.numericsReg 0x20)) 15 0 } } ∧
    (1000 ≤ bits (accessValue a (s.netReg 0x18)) 31 0 → bits (accessValue a (s.netReg 0x18)) 31 0 ≤ 60000000 →
      exec (.registerWrite 0x50018 a) s = .next { s with net := { s.net with collTimeout := bits (accessValue a (s.netReg 0x18)) 31 0 } }) ∧
    (bits (accessValue a (s.netReg 8)) 47 0 % 64 = 0 → s.inHbm (bits (accessValue a (s.netReg 8)) 47 0) 64 = true →
      exec (.registerWrite 0x50008 a) s = .next { s with net := { s.net with
        topoBase := BitVec.ofNat 64 (bits (accessValue a (s.netReg 8)) 47 0) } }) ∧
    ((bits (accessValue a (s.netReg 8)) 47 0 % 64 ≠ 0 ∨ s.inHbm (bits (accessValue a (s.netReg 8)) 47 0) 64 = false) →
      exec (.registerWrite 0x50008 a) s = .next s) ∧
    (bits (accessValue a (s.netReg 0x70)) 47 0 % 65536 = 0 → s.inHbm (bits (accessValue a (s.netReg 0x70)) 47 0) 65536 = true →
      exec (.registerWrite 0x50070 a) s = .next { s with net := { s.net with
        qpBaseReg := BitVec.ofNat 64 (bits (accessValue a (s.netReg 0x70)) 47 0) } }) ∧
    exec (.registerWrite 0x60000 a) s = .next { s with proof := { s.proof with
      depth := bits (accessValue a (s.proofReg 0)) 1 0, group := bits (accessValue a (s.proofReg 0)) 12 8 } } ∧
    exec (.registerWrite 0x60008 a) s = .next { s with proof := { s.proof with
      keptBase := BitVec.ofNat 64 (bits (accessValue a (s.proofReg 8)) 47 0), keptWritten := true, keptDirty := true } } ∧
    (s.proof.steps ≠ [] → exec (.registerWrite 0x60010 a) s = .next s ∧ exec (.registerWrite 0x60018 a) s = .next s) ∧
    (1 ≤ bits (accessValue a (s.proofReg 0x20)) 6 0 → bits (accessValue a (s.proofReg 0x20)) 6 0 ≤ 50 →
      exec (.registerWrite 0x60020 a) s = .next { s with proof := { s.proof with mirrorCap := bits (accessValue a (s.proofReg 0x20)) 6 0 } }) ∧
    exec (.registerWrite 0x60028 a) s = .next { s with proof := { s.proof with nextSlot := bits (accessValue a (s.proofReg 0x28)) 0 0 } } ∧
    (1 ≤ bits (accessValue a (s.powerReg 0x18)) 15 0 → bits (accessValue a (s.powerReg 0x18)) 15 0 ≤ 1000 →
      10 ≤ bits (accessValue a (s.powerReg 0x18)) 31 16 → bits (accessValue a (s.powerReg 0x18)) 31 16 ≤ 1000 →
      exec (.registerWrite 0x70018 a) s = .next { s with power := { s.power with
        timeoutMs := bits (accessValue a (s.powerReg 0x18)) 15 0, ageUs := bits (accessValue a (s.powerReg 0x18)) 31 16 } }) ∧
    exec (.registerWrite 0xA0420 a) s = .next { s with life := { s.life with
      extended := bit (accessValue a (bitOf s.life.extended)) 0 } }

/-- R5, R185, R186, R371, R379, R404: the other writes: the mailbox's arguments and an unknown operation; a vector's table entry; what is
misaligned, or falls before READY outside these two, has no effect; one that reaches for Gyton's domain is discarded and told. -/
def OtherWritesHold : Prop :=
  (∀ (s : State) (i : Fin 4) (a : RegAccess), s.powered = true →
    exec (.registerWrite (0x80008 + 8 * i.val) a) s = .next { s with fw := { s.fw with
      mboxArgs := s.fw.mboxArgs.set 0 i.val (BitVec.ofNat 64 (accessValue a (s.fw.mboxArgs.get 0 i.val).toNat)) } }) ∧
  (∀ (s : State) (a : RegAccess), s.isReady = true → (bits (accessValue a 0) 7 0 = 0 ∨ 6 < bits (accessValue a 0) 7 0) →
    exec (.registerWrite 0x80000 a) s = .next { s with fw := { s.fw with
      mboxResult := 2, mboxTag := BitVec.ofNat 16 (accessValue a 0 / 2 ^ 16), mboxDetail := 0 } }) ∧
  (∀ (s : State) (v : Fin 128) (a : RegAccess), s.powered = true →
    (∃ t, exec (.registerWrite (0xF00000 + 16 * v.val) a) s = .next t ∧
      (t.host.msix.get MsixEntry.reset v.val).addr = BitVec.ofNat 64 (accessValue a (s.host.msix.get MsixEntry.reset v.val).addr.toNat)) ∧
    ∃ t, exec (.registerWrite (0xF00008 + 16 * v.val) a) s = .next t ∧
      (t.host.msix.get MsixEntry.reset v.val).data = BitVec.ofNat 32 (accessValue a (s.msixReg (16 * v.val + 8))) ∧
      (t.host.msix.get MsixEntry.reset v.val).mask = bit (accessValue a (s.msixReg (16 * v.val + 8))) 32 ∧
      (t.host.msix.get MsixEntry.reset v.val).addr = (s.host.msix.get MsixEntry.reset v.val).addr) ∧
  (∀ (s : State) (off : Nat) (a : RegAccess), off % 8 ≠ 0 → exec (.registerWrite off a) s = .next s) ∧
  (∀ (s : State) (off : Nat) (a : RegAccess), s.isReady = false → off / 0x10000 ≠ 8 → off / 0x10000 ≠ 0xF0 → gytonOwned off = false →
    exec (.registerWrite off a) s = .next s) ∧
  (∀ (s : State) (off : Nat) (a : RegAccess), s.powered = true → s.fw.firewall = true → gytonOwned off = true → off % 8 = 0 →
    ∃ t, exec (.registerWrite off a) s = .next t ∧ t.Reports 9 7 10 ∧ t.mem = s.mem ∧ t.life = s.life ∧ t.fuses = s.fuses ∧
      t.plate = s.plate ∧ t.power = s.power ∧ t.net = s.net ∧ t.proof = s.proof)

/-- R5, R61, R130, R185, R229, R263, R317, R347, R368, R371, R379, R412: writes of registers that have no command of their own. -/
def Obligations.RegisterWrites : Prop := SetupWritesHold ∧ OtherWritesHold

/-- R408 to R410, R412: loop-backs and the HBM test start when they may, and end with their results; the tested stack reads as zeros. A
value that names no loop or test has no effect, a test that may not start is refused, a loop that runs goes on. What a pattern
or frame generator counts is open (log 32). -/
def Obligations.LoopsAndTests : Prop :=
  (∀ (s : State) (v : Nat) (a : RegAccess), s.isReady = true →
    v = accessValue a (s.pcie.loopMode.toNat + s.pcie.loopMs.toNat * 2 ^ 4) →
    (bits v 1 0 = 0 ∨ bits v 19 4 ≠ 0) →
    exec (.pcieLoopWrite a) s = .next { s with pcie := { s.pcie with
      loopMode := BitVec.ofNat 2 (bits v 1 0), loopMs := BitVec.ofNat 16 (bits v 19 4)
      loopActive := s.pcie.loopActive || bits v 1 0 != 0
      linkUp := s.pcie.linkUp && (s.pcie.loopActive || bits v 1 0 == 0) } }) ∧
  (∀ (s : State) (v : Nat) (a : RegAccess), s.isReady = true →
    v = accessValue a (s.pcie.loopMode.toNat + s.pcie.loopMs.toNat * 2 ^ 4) → bits v 1 0 ≠ 0 → bits v 19 4 = 0 →
    exec (.pcieLoopWrite a) s = .next s) ∧
  (∀ (s : State) (e : BitVec 32) (l : BitVec 16), s.isReady = true → s.pcie.loopActive = true →
    exec (.pcieLoopEnd e l) s = .next { s with pcie := { s.pcie with loopActive := false, loopErrors := e, loopLanes := l } }) ∧
  (∀ (s : State) (e : BitVec 32) (l : BitVec 16), s.isReady = true → s.pcie.loopActive = false →
    exec (.pcieLoopEnd e l) s = .next s) ∧
  (∀ (s : State) (v : Nat) (a : RegAccess), s.isReady = true →
    v = accessValue a (s.hbmTest.stack + s.hbmTest.mode * 2 ^ 5) → bits v 4 0 < 20 → (bits v 6 5 = 1 ∨ bits v 6 5 = 2) →
    bit v 7 = true → s.openStep = none → s.commands.any (fun c => hbmTestBars c.typ) = false → s.hbmTest.busy = false →
    exec (.hbmTestStart a) s = .next { s with hbmTest := { s.hbmTest with
      stack := bits v 4 0, mode := bits v 6 5, busy := true, refused := false } }) ∧
  (∀ (s : State) (v : Nat) (a : RegAccess), s.isReady = true →
    v = accessValue a (s.hbmTest.stack + s.hbmTest.mode * 2 ^ 5) → bits v 4 0 < 20 → (bits v 6 5 = 1 ∨ bits v 6 5 = 2) →
    bit v 7 = true → (s.openStep.isSome || s.commands.any (fun c => hbmTestBars c.typ) || s.hbmTest.busy) = true →
    exec (.hbmTestStart a) s = .next { s with hbmTest := { s.hbmTest with refused := true } }) ∧
  (∀ (s : State) (v : Nat) (a : RegAccess), s.isReady = true →
    v = accessValue a (s.hbmTest.stack + s.hbmTest.mode * 2 ^ 5) → bits v 4 0 < 20 → bit v 7 = false →
    exec (.hbmTestStart a) s = .next { s with hbmTest := { s.hbmTest with
      stack := bits v 4 0, mode := bits v 6 5 } }) ∧
  (∀ (s : State) (v : Nat) (a : RegAccess), s.isReady = true →
    v = accessValue a (s.hbmTest.stack + s.hbmTest.mode * 2 ^ 5) →
    (20 ≤ bits v 4 0 ∨ (bit v 7 = true ∧ (bits v 6 5 = 0 ∨ bits v 6 5 = 3))) →
    exec (.hbmTestStart a) s = .next s) ∧
  (∀ (s : State) (pass : Bool) (fails row : BitVec 32) (a : Nat), s.isReady = true → s.hbmTest.busy = true →
    memoryId (a / 4096 * 4096) = 1 → hbmStack (a / 4096 * 4096) = s.hbmTest.stack →
    ∃ t, exec (.hbmTestDone pass fails row) s = .next t ∧ t.hbmTest = { s.hbmTest with
      busy := false, pass := pass, fails := fails, firstRow := row } ∧ t.mem.ram.get a = 0) ∧
  (∀ (s : State) (pass : Bool) (fails row : BitVec 32), s.isReady = true → s.hbmTest.busy = false →
    exec (.hbmTestDone pass fails row) s = .next s) ∧
  (∀ (s : State) (p : Fin 24) (v : Nat) (a : RegAccess), s.isReady = true →
    v = accessValue a ((s.port p.val).loopMode + (s.port p.val).loopPattern * 2 ^ 3) → bits v 2 0 ≤ 5 → bits v 5 3 ≤ 3 →
    (bits v 5 3 = 0 ∨ bits v 2 0 = 0 ∨ bits v 2 0 = 3) →
    (s.Still p.val ∨ bits v 2 0 = (s.port p.val).loopMode) →
    ∃ t, exec (.ethLoopWrite p a) s = .next t ∧ (t.port p.val).loopMode = bits v 2 0 ∧
      (t.port p.val).loopPattern = bits v 5 3 ∧ (bits v 5 3 = 0 → (t.port p.val).laneErrors = 0) ∧
      (bits v 2 0 = 3 ∨ bits v 2 0 = 4 ∨ bits v 2 0 = 0 →
        (t.port p.val).sent = 0 ∧ (t.port p.val).good = 0) ∧
      (bits v 2 0 ≠ (s.port p.val).loopMode →
        (t.port p.val).state = portDown ∨ (t.port p.val).state = portTraining)) ∧
  (∀ (s : State) (p : Fin 24) (v : Nat) (a : RegAccess), s.isReady = true →
    v = accessValue a ((s.port p.val).loopMode + (s.port p.val).loopPattern * 2 ^ 3) → (5 < bits v 2 0 ∨ 3 < bits v 5 3 ∨
      (bits v 5 3 ≠ 0 ∧ bits v 2 0 ≠ 0 ∧ bits v 2 0 ≠ 3)) →
    exec (.ethLoopWrite p a) s = .next s)

/-! ### Ports, tray, NPT and RoCE -/

/-- R236, R244: a write that changes a port's configuration is taken, with LINK_DOWN, and the port is DOWN or trains; one that changes
nothing, holds a value that is none, or asks for a tray role that is not permitted has no effect. -/
def PortSetupHold : Prop :=
  (∀ (s : State) (p : Fin 24) (a : RegAccess), s.isReady = true → bits (accessValue a (portCfgReg (s.port p.val))) 2 1 ≠ 0 →
    bits (accessValue a (portCfgReg (s.port p.val))) 4 3 ≠ 3 →
    (bits (accessValue a (portCfgReg (s.port p.val))) 5 5 = 1 →
      s.trayAllowed p.val (bits (accessValue a (portCfgReg (s.port p.val))) 2 1) = true) →
    (bits (accessValue a (portCfgReg (s.port p.val))) 0 0 ≠ (s.port p.val).enable ∨
      bits (accessValue a (portCfgReg (s.port p.val))) 2 1 ≠ (s.port p.val).gen ∨
      bits (accessValue a (portCfgReg (s.port p.val))) 4 3 ≠ (s.port p.val).medium ∨
      bits (accessValue a (portCfgReg (s.port p.val))) 5 5 ≠ (s.port p.val).role) →
    ∃ t, exec (.portCfgWrite p a) s = .next t ∧
      (t.port p.val).enable = bits (accessValue a (portCfgReg (s.port p.val))) 0 0 ∧
      (t.port p.val).gen = bits (accessValue a (portCfgReg (s.port p.val))) 2 1 ∧
      (t.port p.val).medium = bits (accessValue a (portCfgReg (s.port p.val))) 4 3 ∧
      (t.port p.val).role = bits (accessValue a (portCfgReg (s.port p.val))) 5 5 ∧
      ((t.port p.val).state = portDown ∨ (t.port p.val).state = portTraining) ∧
      (s.Still p.val → t.Reports 6 2 p.val ∧ t.mem = s.mem ∧
        ((t.port p.val).state = portTraining ↔ bits (accessValue a (portCfgReg (s.port p.val))) 0 0 = 1 ∧
          (s.topoEntry p.val).kind ≠ 0 ∧ ((s.port p.val).loopMode = 0 ∨ (s.port p.val).loopMode = 4)))) ∧
  (∀ (s : State) (p : Fin 24) (a : RegAccess), s.isReady = true →
    (bits (accessValue a (portCfgReg (s.port p.val))) 2 1 = 0 ∨ bits (accessValue a (portCfgReg (s.port p.val))) 4 3 = 3 ∨
      (bits (accessValue a (portCfgReg (s.port p.val))) 5 5 = 1 ∧
        s.trayAllowed p.val (bits (accessValue a (portCfgReg (s.port p.val))) 2 1) = false) ∨
      (bits (accessValue a (portCfgReg (s.port p.val))) 0 0 = (s.port p.val).enable ∧
        bits (accessValue a (portCfgReg (s.port p.val))) 2 1 = (s.port p.val).gen ∧
        bits (accessValue a (portCfgReg (s.port p.val))) 4 3 = (s.port p.val).medium ∧
        bits (accessValue a (portCfgReg (s.port p.val))) 5 5 = (s.port p.val).role)) →
    exec (.portCfgWrite p a) s = .next s)

/-- R236, R263, R264: a new NODE_ID closes every session; a common register that changes takes every enabled port it affects to DOWN,
from where it trains again if it may; one that does not change, or is out of range, has no effect. -/
def NetSetupHold : Prop :=
  (∀ (s : State) (a : RegAccess), s.isReady = true →
    ∃ t, exec (.nodeIdWrite a) s = .next t ∧ t.net.nodeId = BitVec.ofNat 17 (accessValue a (s.netReg 0)) ∧
      t.net.nodeValid = bit (accessValue a (s.netReg 0)) 31 ∧ t.net.sessions = [] ∧ t.mem = s.mem) ∧
  (∀ (s : State) (a : RegAccess), s.isReady = true → bits (accessValue a (s.netReg 0x20)) 3 2 ≠ s.net.group →
    (∀ p ∈ s.portsOf 1, s.Still p) →
    ∃ t, exec (.netConfigWrite .trayCfg a) s = .next t ∧ t.net.group = bits (accessValue a (s.netReg 0x20)) 3 2 ∧
      (∀ p ∈ s.portsOf 1, t.port p = s.fallen p (s.port p)) ∧ (∀ p, p ∉ s.portsOf 1 → t.port p = s.port p)) ∧
  (∀ (s : State) (a : RegAccess), s.isReady = true → BitVec.ofNat 64 (accessValue a (s.netReg 0x40)) ≠ s.net.prefix6 →
    (∀ p ∈ s.portsOf 0, s.Still p) →
    ∃ t, exec (.netConfigWrite .ipv6Prefix a) s = .next t ∧ t.net.prefix6 = BitVec.ofNat 64 (accessValue a (s.netReg 0x40)) ∧
      (∀ p ∈ s.portsOf 0, t.port p = s.fallen p (s.port p)) ∧ (∀ p, p ∉ s.portsOf 0 → t.port p = s.port p)) ∧
  (∀ (s : State) (a : RegAccess), s.isReady = true → 1024 ≤ bits (accessValue a (s.netReg 0x38)) 15 0 →
    12 ≤ bits (accessValue a (s.netReg 0x38)) 26 22 → bits (accessValue a (s.netReg 0x38)) 26 22 ≤ 20 →
    (bits (accessValue a (s.netReg 0x38)) 15 0 ≠ s.net.udpPort ∨ bits (accessValue a (s.netReg 0x38)) 21 16 ≠ s.net.dscp ∨
      bits (accessValue a (s.netReg 0x38)) 26 22 ≠ s.net.chunkLog2) → (∀ p ∈ s.portsOf 0, s.Still p) →
    ∃ t, exec (.netConfigWrite .nptCfg a) s = .next t ∧ t.net.udpPort = bits (accessValue a (s.netReg 0x38)) 15 0 ∧
      t.net.dscp = bits (accessValue a (s.netReg 0x38)) 21 16 ∧ t.net.chunkLog2 = bits (accessValue a (s.netReg 0x38)) 26 22 ∧
      (∀ p ∈ s.portsOf 0, t.port p = s.fallen p (s.port p)) ∧ (∀ p, p ∉ s.portsOf 0 → t.port p = s.port p)) ∧
  (∀ (s : State) (a : RegAccess), s.isReady = true →
    (bits (accessValue a (s.netReg 0x20)) 3 2 = s.net.group → exec (.netConfigWrite .trayCfg a) s = .next s) ∧
    (BitVec.ofNat 64 (accessValue a (s.netReg 0x40)) = s.net.prefix6 → exec (.netConfigWrite .ipv6Prefix a) s = .next s) ∧
    ((bits (accessValue a (s.netReg 0x38)) 15 0 < 1024 ∨ bits (accessValue a (s.netReg 0x38)) 26 22 < 12 ∨
        20 < bits (accessValue a (s.netReg 0x38)) 26 22 ∨
        (bits (accessValue a (s.netReg 0x38)) 15 0 = s.net.udpPort ∧ bits (accessValue a (s.netReg 0x38)) 21 16 = s.net.dscp ∧
          bits (accessValue a (s.netReg 0x38)) 26 22 = s.net.chunkLog2)) →
      exec (.netConfigWrite .nptCfg a) s = .next s))

/-- R239, R240, R262: TOPOLOGY_GEN takes a table whose entries are all well formed, and the ports that are DOWN or train follow it; a
table with a bad entry, or one that cannot be read, is rejected as a whole. -/
def TopologyHold : Prop :=
  (∀ (s s1 : State) (a : RegAccess) (bs : List Byte), s.isReady = true → s.net.topoBase.toNat % 64 = 0 →
    s.readPhys allowHbm s.net.topoBase.toNat 768 = (s1, .ok bs) → s1.firstBadTopo 0 (records 32 24 bs) = none →
    (∀ p, (s1.port p).state = portDown ∨ (s1.port p).state = portTraining) →
    ∃ t, exec (.topologyGenWrite a) s = .next t ∧ t.net.topoGen = BitVec.ofNat 32 (accessValue a s.net.topoGen.toNat) ∧
      t.net.topo = tableOf 0 (records 32 24 bs) ∧
      ∀ p, p < 24 → (((tableOf 0 (records 32 24 bs)).get TopoEntry.unused p).kind = 0 → (t.port p).state = portDown) ∧
        (((tableOf 0 (records 32 24 bs)).get TopoEntry.unused p).kind ≠ 0 → (s1.port p).enable = 1 → (s1.port p).loopMode = 0 →
          (t.port p).state = portTraining)) ∧
  (∀ (s s1 : State) (a : RegAccess) (bs : List Byte) (i : Nat), s.isReady = true → s.net.topoBase.toNat % 64 = 0 →
    s.readPhys allowHbm s.net.topoBase.toNat 768 = (s1, .ok bs) → s1.firstBadTopo 0 (records 32 24 bs) = some i →
    ∃ t, exec (.topologyGenWrite a) s = .next t ∧ t.net.topoGen = s1.net.topoGen ∧ t.net.topo = s1.net.topo ∧ t.Reports 6 7 0) ∧
  (∀ (s s1 : State) (a : RegAccess) (e : MemErr), s.isReady = true → s.net.topoBase.toNat % 64 = 0 →
    s.readPhys allowHbm s.net.topoBase.toNat 768 = (s1, .error e) →
    ∃ t, exec (.topologyGenWrite a) s = .next t ∧ t.net.topoGen = s1.net.topoGen ∧ t.net.topo = s1.net.topo ∧ t.Reports 6 7 0) ∧
  (∀ (s : State) (a : RegAccess), s.isReady = true → s.net.topoBase.toNat % 64 ≠ 0 →
    ∃ t, exec (.topologyGenWrite a) s = .next t ∧ t.net = s.net ∧ t.Reports 6 7 0)

/-- R236, R239, R240, R244, R263, R264: the configuration writes of the network side. -/
def Obligations.NetworkSetup : Prop := PortSetupHold ∧ NetSetupHold ∧ TopologyHold

/-- R234, R237: PCS alignment takes a training port to LABEL_WAIT; a loss of its link takes a port to DOWN, from where it trains
again if it may, with the codewords counted and LINK_DOWN written; a port out of these states stays. -/
def LinksHold : Prop :=
  (∀ (s : State) (p : Fin 24), s.isReady = true → (s.port p.val).state = portTraining → (s.port p.val).loopMode = 0 →
    ∃ t, exec (.linkUp p) s = .next t ∧ t.port p.val = { s.port p.val with state := portLabelWait } ∧
      (∀ q, q ≠ p.val → t.port q = s.port q) ∧ t.Reports 6 1 p.val ∧ (∃ body, t.outbox.getLast? = some (.frame p.val lldpMac body))) ∧
  (∀ (s : State) (p : Fin 24), s.isReady = true → ((s.port p.val).state ≠ portTraining ∨ (s.port p.val).loopMode ≠ 0) →
    exec (.linkUp p) s = .next s) ∧
  (∀ (s : State) (p : Fin 24) (f : LinkFall), s.isReady = true → 2 ≤ (s.port p.val).state → s.Still p.val →
    ∃ t, exec (.linkDown p f) s = .next t ∧ t.port p.val = s.fallen p.val { s.port p.val with
      fecCorrected := ((s.port p.val).fecCorrected + f.fec.corrected) % 2 ^ 64
      fecUncorrected := ((s.port p.val).fecUncorrected + f.fec.uncorrectable) % 2 ^ 64 } ∧
      (∀ q, q ≠ p.val → t.port q = s.port q) ∧ t.Reports 6 2 p.val) ∧
  (∀ (s : State) (p : Fin 24) (f : LinkFall), s.isReady = true → (s.port p.val).state < 2 →
    exec (.linkDown p f) s = .next s)

/-- R237, R241, R262: labels go out on the ports whose link is up, and an LLDPDU or its absence judges a port: UP where no check fails,
DEAD_LETTER with the cause of the first that does. -/
def LabelsHold : Prop :=
  (∀ s : State, s.isReady = true →
    exec .lldpSend s = .next { s with outbox := s.outbox ++
      ((allPorts.filter (fun p => [portLabelWait, portUp, portDead].contains (s.port p).state)).map
        (fun p => .frame p lldpMac (s.lldpdu p))) }) ∧
  (∀ (s : State) (p : Fin 24) (l : Lldpdu), s.isReady = true → (s.port p.val).state < 2 →
    exec (.lldpduReceive p l) s = .next s ∧ exec (.labelTimeout p) s = .next s) ∧
  (∀ (s : State) (p : Fin 24) (l : Lldpdu) (x : Port), s.isReady = true → 2 ≤ (s.port p.val).state → s.NoTraffic p.val →
    x = (match validLabel l.label with
      | some bs => { s.port p.val with heard := some l, peerNode := BitVec.ofNat 32 (labelNode bs), numDiffers := labelNumerics bs != 1 }
      | none => { s.port p.val with heard := some l }) →
    ∃ t, exec (.lldpduReceive p l) s = .next t ∧ (t.port p.val).heard = some l ∧ (t.port p.val).peerNode = x.peerNode ∧
      (t.port p.val).numDiffers = x.numDiffers ∧
      ((s.setPort p.val x).judge p.val = 0 → (t.port p.val).state = portUp) ∧
      ((s.setPort p.val x).judge p.val ≠ 0 → (t.port p.val).state = portDead ∧
        (t.port p.val).dead = (s.setPort p.val x).judge p.val ∧ ((s.port p.val).state ≠ portDead → t.Reports 6 3 p.val))) ∧
  (∀ (s : State) (p : Fin 24) (x : Port), s.isReady = true → 2 ≤ (s.port p.val).state → s.NoTraffic p.val →
    x = { s.port p.val with heard := none } →
    ∃ t, exec (.labelTimeout p) s = .next t ∧ (t.port p.val).heard = none ∧
      ((s.setPort p.val x).judge p.val = 0 → (t.port p.val).state = portUp) ∧
      ((s.setPort p.val x).judge p.val ≠ 0 → (t.port p.val).state = portDead ∧
        (t.port p.val).dead = (s.setPort p.val x).judge p.val ∧ ((s.port p.val).state ≠ portDead → t.Reports 6 3 p.val))) ∧
  (∀ (s : State) (p : Nat) (l : List Byte), s.net.nodeValid = true →
    ((s.topoEntry p).kind = 1 → validLabel ((s.port p).heard.bind (·.label)) = none → s.judge p = 1) ∧
    ((s.topoEntry p).kind = 1 → validLabel ((s.port p).heard.bind (·.label)) = some l →
      labelNode l ≠ 2 ^ 31 + (s.topoEntry p).peerNode → (s.topoEntry p).peerNode < 2 ^ 31 → s.judge p = 2) ∧
    ((s.topoEntry p).kind ≠ 1 → validLabel ((s.port p).heard.bind (·.label)) = some l → s.judge p = 6)) ∧
  (∀ (s : State) (p : Nat), s.net.nodeValid = false → s.judge p = 8)

/-- R253, R390: a solicitation for the module's address is answered on an UP port of Ethernet role, and for the management port's own
once a collector is set; a router advertisement sets a port's next hop. -/
def NeighboursHold : Prop :=
  (∀ (s : State) (p : Fin 24) (mac : BitVec 48), s.isReady = true → (s.port p.val).role = 0 → (s.port p.val).state = portUp →
    (exec (.neighborSolicitation (some p) s.ip6 mac) s = .next (s.send (.advert (some p.val) mac s.ip6))) ∧
    (∃ t, exec (.routerAdvertisement p mac) s = .next t ∧ t.port p.val = { s.port p.val with nextHop := some mac } ∧
      ∀ q, q ≠ p.val → t.port q = s.port q)) ∧
  (∀ (s : State) (p : Fin 24) (ip : BitVec 128) (mac : BitVec 48), s.isReady = true →
    ((s.port p.val).role ≠ 0 ∨ (s.port p.val).state ≠ portUp ∨ ip ≠ s.ip6) →
    exec (.neighborSolicitation (some p) ip mac) s = .next s) ∧
  (∀ (s : State) (p : Fin 24) (mac : BitVec 48), s.isReady = true → ((s.port p.val).role ≠ 0 ∨ (s.port p.val).state ≠ portUp) →
    exec (.routerAdvertisement p mac) s = .next s) ∧
  (∀ (s : State) (mac : BitVec 48), s.mgmtServed = true → s.fw.collector.isSome = true →
    exec (.neighborSolicitation none s.mgmtIp mac) s = .next (s.send (.advert none mac s.mgmtIp))) ∧
  (∀ (s : State) (ip : BitVec 128) (mac : BitVec 48), (s.mgmtServed = false ∨ s.fw.collector = none ∨ ip ≠ s.mgmtIp) →
    exec (.neighborSolicitation none ip mac) s = .next s)

/-- R234, R237, R241, R253, R262, R390: a port's link, its labels and its neighbours; the address of R253 is as log 67 reads it. -/
def Obligations.PortEvents : Prop := LinksHold ∧ LabelsHold ∧ NeighboursHold

/-! ### The vector engine -/

/-- R142: a scalar arithmetic word, its opcode, and what S[SD] becomes. -/
def scalarResult : Instr → Option (Die × ScalarIssue × Nat × (Engine → Nat))
  | .smovi d w => some (d, w, 0x02, fun _ => sextImm w.word)
  | .smovhi d w => some (d, w, 0x03, fun e => wordImm w.word * 2 ^ 32 + e.sreg (wordSD w.word) % 2 ^ 32)
  | .smov d w => some (d, w, 0x04, fun e => e.sreg (wordSA w.word))
  | .sadd d w => some (d, w, 0x05, fun e => e.sreg (wordSA w.word) + e.sreg (wordSB w.word))
  | .saddi d w => some (d, w, 0x06, fun e => e.sreg (wordSA w.word) + sextImm w.word)
  | .ssub d w => some (d, w, 0x07, fun e => e.sreg (wordSA w.word) + (2 ^ 64 - e.sreg (wordSB w.word)))
  | .smul d w => some (d, w, 0x08, fun e => e.sreg (wordSA w.word) * e.sreg (wordSB w.word))
  | .sand d w => some (d, w, 0x09, fun e => e.sreg (wordSA w.word) &&& e.sreg (wordSB w.word))
  | .sor d w => some (d, w, 0x0A, fun e => e.sreg (wordSA w.word) ||| e.sreg (wordSB w.word))
  | .sxor d w => some (d, w, 0x0B, fun e => e.sreg (wordSA w.word) ^^^ e.sreg (wordSB w.word))
  | .sshl d w => some (d, w, 0x0C, fun e => e.sreg (wordSA w.word) <<< (e.sreg (wordSB w.word) % 64))
  | .sshr d w => some (d, w, 0x0D, fun e => e.sreg (wordSA w.word) >>> (e.sreg (wordSB w.word) % 64))
  | _ => none

/-- R142, R297: a scalar word, with what its duplicates found, and its opcode. -/
def scalarForm : Instr → Option (Die × ScalarIssue × Nat)
  | .snop d w => some (d, w, 0x00)
  | .send d w => some (d, w, 0x01)
  | .sloop d w => some (d, w, 0x0E)
  | .sjump d w => some (d, w, 0x0F)
  | c => (scalarResult c).map (fun x => (x.1, x.2.1, x.2.2.1))

/-- R142: SMOVI to SSHR write their 64-bit result to S[SD] and nothing else, and the next word follows. -/
def ScalarWordsHold : Prop :=
  ∀ (c : Instr) (die : Die) (w : ScalarIssue) (op : Nat) (f : Engine → Nat) (s : State) (r : VecRun),
    scalarResult c = some (die, w, op, f) → s.ScalarDue die w op r →
    ∃ t, exec c s = .next t ∧ s.RanWord t die r (r.pc + 1) ∧ t.mem = s.mem ∧
      (t.engine (dieIndex die)).sreg (wordSD w.word) = f (s.engine (dieIndex die)) % 2 ^ 64 ∧
      (∀ n, n ≠ wordSD w.word → (t.engine (dieIndex die)).sreg n = (s.engine (dieIndex die)).sreg n) ∧
      { t.engine (dieIndex die) with s := (s.engine (dieIndex die)).s, run := (s.engine (dieIndex die)).run } =
        s.engine (dieIndex die)

/-- R139, R142: SNOP does nothing, SEND ends the program, SLOOP goes back while its counter exceeds 1, and SJUMP goes to its
target when its condition holds. -/
def ControlWordsHold : Prop :=
  (∀ (die : Die) (w : ScalarIssue) (s : State) (r : VecRun), s.ScalarDue die w 0x00 r →
    ∃ t, exec (.snop die w) s = .next t ∧ s.RanWord t die r (r.pc + 1) ∧ t.mem = s.mem ∧
      { t.engine (dieIndex die) with run := (s.engine (dieIndex die)).run } = s.engine (dieIndex die)) ∧
  (∀ (die : Die) (w : ScalarIssue) (s : State) (r : VecRun), s.ScalarDue die w 0x01 r →
    ∃ t, exec (.send die w) s = .next t ∧ s.RanWord t die r r.prog.length ∧ t.mem = s.mem ∧
      { t.engine (dieIndex die) with run := (s.engine (dieIndex die)).run } = s.engine (dieIndex die)) ∧
  (∀ (die : Die) (w : ScalarIssue) (s : State) (r : VecRun), s.ScalarDue die w 0x0E r →
    ∃ t, exec (.sloop die w) s = .next t ∧ t.mem = s.mem ∧
      (1 < (s.engine (dieIndex die)).sreg (wordSD w.word) → s.RanWord t die r (wordImm w.word) ∧
        (t.engine (dieIndex die)).sreg (wordSD w.word) = (s.engine (dieIndex die)).sreg (wordSD w.word) - 1) ∧
      ((s.engine (dieIndex die)).sreg (wordSD w.word) ≤ 1 → s.RanWord t die r (r.pc + 1) ∧
        (t.engine (dieIndex die)).sreg (wordSD w.word) = 0) ∧
      ∀ n, n ≠ wordSD w.word → (t.engine (dieIndex die)).sreg n = (s.engine (dieIndex die)).sreg n) ∧
  (∀ (die : Die) (w : ScalarIssue) (s : State) (r : VecRun), s.ScalarDue die w 0x0F r →
    ∃ t, exec (.sjump die w) s = .next t ∧ t.mem = s.mem ∧
      { t.engine (dieIndex die) with run := (s.engine (dieIndex die)).run } = s.engine (dieIndex die) ∧
      (wordSD w.word % 4 = 0 → s.RanWord t die r (wordImm w.word)) ∧
      (wordSD w.word % 4 = 1 →
        s.RanWord t die r (if (s.engine (dieIndex die)).sreg (wordSA w.word) = 0 then wordImm w.word else r.pc + 1)) ∧
      (wordSD w.word % 4 = 2 →
        s.RanWord t die r (if (s.engine (dieIndex die)).sreg (wordSA w.word) ≠ 0 then wordImm w.word else r.pc + 1)) ∧
      (wordSD w.word % 4 = 3 →
        s.RanWord t die r (if (BitVec.ofNat 64 ((s.engine (dieIndex die)).sreg (wordSA w.word))).slt
          (BitVec.ofNat 64 ((s.engine (dieIndex die)).sreg (wordSB w.word))) then wordImm w.word else r.pc + 1)))

/-- R142: a field that the table does not name for a scalar word: SD, SA, SB and IMM, and the bits that the format reserves. -/
def strayField (w : Word) : Prop :=
  let op := wordOp w
  (bit w.toNat 13 = true ∨ bit w.toNat 19 = true ∨ bits w.toNat 31 25 ≠ 0) ∨
  (wordSD w ≠ 0 ∧ op ∈ [0x00, 0x01]) ∨
  (wordSA w ≠ 0 ∧ op ∈ [0x00, 0x01, 0x02, 0x03, 0x0E]) ∨
  (wordSB w ≠ 0 ∧ op ∈ [0x00, 0x01, 0x02, 0x03, 0x04, 0x06, 0x0E]) ∨
  (wordImm w ≠ 0 ∧ op ∈ [0x00, 0x01, 0x04, 0x05, 0x07, 0x08, 0x09, 0x0A, 0x0B, 0x0C, 0x0D]) ∨
  (3 < wordSD w ∧ op = 0x0F)

/-- R138, R142: a program with a scalar word that has one set may not run. -/
def StrayFieldsRefused : Prop :=
  ∀ (ws : List Word) (w : Word) (valid : List Bool) (entries : List Entry) (both seedValid : Bool),
    w ∈ ws → wordOp w ≤ 0x0F → strayField w → programBad ws valid entries both seedValid = true

/-- R142: the words of the scalar set, and what a word of it may not hold. -/
def Obligations.ScalarAndControlWords : Prop := ScalarWordsHold ∧ ControlWordsHold ∧ StrayFieldsRefused


/-- R144, R145: an arithmetic word, its opcode, its exact float result and its integer result; none where the manual states no
result (log 50). -/
def arithResult : Instr → Option (Die × Word × UnitVote × Nat × FloatFn × IntFn)
  | .vadd d w v => some (d, w, v, 0x10, fun a b _ => some (a.add b), fun t a b _ => some (satInt t (a + b)))
  | .vsub d w v => some (d, w, v, 0x11, fun a b _ => some (a.sub b), fun t a b _ => some (satInt t (a - b)))
  | .vmul d w v => some (d, w, v, 0x12, fun a b _ => some (a.mul b), fun t a b _ => some (satInt t (a * b)))
  | .vfma d w v => some (d, w, v, 0x13, fun a b c => some ((a.mul b).add c), fun t a b c => some (satInt t (a * b + c)))
  | .vfms d w v => some (d, w, v, 0x14, fun a b c => some ((a.mul b).sub c), fun t a b c => some (satInt t (a * b - c)))
  | .vnfma d w v => some (d, w, v, 0x15, fun a b c => some ((a.mul b).neg.add c), fun t a b c => some (satInt t (c - a * b)))
  | .vdiv d w v => some (d, w, v, 0x16, fun a b _ => some (a.div b), fun t a b _ =>
      if b = 0 then some (if a < 0 then etMin t else etMax t) else inRange t (a.tdiv b))
  | .vsqrt d w v => some (d, w, v, 0x17, fun a _ _ => some a.sqrt, fun _ _ _ _ => none)
  | .vrsqrt d w v => some (d, w, v, 0x18, fun a _ _ => some a.rsqrt, fun _ _ _ _ => none)
  | .vrcp d w v => some (d, w, v, 0x19, fun a _ _ => some ((Val.pow2 0).div a), fun _ _ _ _ => none)
  | .vsqr d w v => some (d, w, v, 0x1A, fun a _ _ => some (a.mul a), fun t a _ _ => some (satInt t (a * a)))
  | .vmin d w v => some (d, w, v, 0x1B, fun a b _ => some (minVal a b), fun _ a b _ => some (min a b))
  | .vmax d w v => some (d, w, v, 0x1C, fun a b _ => some (maxVal a b), fun _ a b _ => some (max a b))
  | .vminabs d w v => some (d, w, v, 0x1D, fun a b _ => some (minAbs a b), fun _ a b _ =>
      some (if a.natAbs < b.natAbs then a else if b.natAbs < a.natAbs then b else min a b))
  | .vmaxabs d w v => some (d, w, v, 0x1E, fun a b _ => some (maxAbs a b), fun _ a b _ =>
      some (if b.natAbs < a.natAbs then a else if a.natAbs < b.natAbs then b else max a b))
  | .vabs d w v => some (d, w, v, 0x1F, fun a _ _ => some a.abs, fun t a _ _ => some (satInt t a.natAbs))
  | .vneg d w v => some (d, w, v, 0x20, fun a _ _ => some a.neg, fun t a _ _ => inRange t (-a))
  | .vabsdiff d w v => some (d, w, v, 0x21, fun a b _ => some (a.sub b).abs, fun t a b _ => some (satInt t (a - b).natAbs))
  | .vsign d w v => some (d, w, v, 0x22, fun a _ _ => some (signVal a), fun _ a _ _ => some a.sign)
  | .vcopysign d w v => some (d, w, v, 0x23, fun a b _ => some (copySign a b), fun t a b _ =>
      inRange t (if b < 0 then -(a.natAbs : Int) else a.natAbs))
  | .vscaleb d w v => some (d, w, v, 0x24, fun a b _ => scaleVal a b, fun t a b _ => some (scaleInt t a b))
  | .vavg d w v => some (d, w, v, 0x25, fun a b _ => some ((a.add b).scale (-1)), fun _ a b _ =>
      if (a + b) % 2 = 0 then some ((a + b) / 2) else none)
  | .vlerp d w v => some (d, w, v, 0x26, fun a b c => some (a.add (c.mul (b.sub a))), fun t a b c =>
      some (satInt t (a + c * (b - a))))
  | .vclamp d w v => some (d, w, v, 0x27, fun a b c => clampVal a b c, fun _ a b c =>
      if c < b then none else some (max b (min a c)))
  | .vand d w v => some (d, w, v, 0x28, fun _ _ _ => none, fun t a b _ =>
      some ((natOfInt (etBits t) a &&& natOfInt (etBits t) b : Nat) : Int))
  | .vor d w v => some (d, w, v, 0x29, fun _ _ _ => none, fun t a b _ =>
      some ((natOfInt (etBits t) a ||| natOfInt (etBits t) b : Nat) : Int))
  | .vxor d w v => some (d, w, v, 0x2A, fun _ _ _ => none, fun t a b _ =>
      some ((natOfInt (etBits t) a ^^^ natOfInt (etBits t) b : Nat) : Int))
  | .vnot d w v => some (d, w, v, 0x2B, fun _ _ _ => none, fun _ a _ _ => some (-a - 1))
  | .vshl d w v => some (d, w, v, 0x2C, fun _ _ _ => none, fun t a b _ =>
      if 0 ≤ b ∧ b < etBits t then some (a * 2 ^ b.toNat) else none)
  | .vshr d w v => some (d, w, v, 0x2D, fun _ _ _ => none, fun t a b _ =>
      if 0 ≤ b ∧ b < etBits t then some ((natOfInt (etBits t) a >>> b.toNat : Nat) : Int) else none)
  | .vsra d w v => some (d, w, v, 0x2E, fun _ _ _ => none, fun t a b _ =>
      if 0 ≤ b ∧ b < etBits t then some (a >>> b.toNat) else none)
  | .vpopc d w v => some (d, w, v, 0x2F, fun _ _ _ => none, fun t a _ _ =>
      some (((List.range (etBits t)).filter (fun i => (natOfInt (etBits t) a).testBit i)).length : Int))
  | .vclz d w v => some (d, w, v, 0x30, fun _ _ _ => none, fun t a _ _ =>
      some (etBits t - bitLength (natOfInt (etBits t) a) : Nat))
  | .vmov d w v => some (d, w, v, 0x31, fun a _ _ => some a, fun _ a _ _ => some a)
  | .vmovs d w v => some (d, w, v, 0x32, fun _ b _ => some b, fun t _ b _ => inRange t b)
  | _ => none

/-- R133, R140, R143 to R145: every arithmetic word writes the result, rounded once, to each element its mask takes, and to no other
register; VIOTA, of an integer type, writes S[VB[4:0]] plus the element number. Results at INT16 out of an operand beyond its range,
the copies of VMOVS and the direction RND = 2 takes beyond the largest number are the model's reading (log 79). -/
def Obligations.ArithmeticWords : Prop :=
  (∀ (c : Instr) (die : Die) (w : Word) (v : UnitVote) (op : Nat) (ff : FloatFn) (fi : IntFn) (s : State) (r : VecRun),
    arithResult c = some (die, w, v, op, ff, fi) → s.WordDue die w op v r →
    ∃ t, exec c s = .next t ∧ s.RanWord t die r (r.pc + 1) ∧ t.mem = s.mem ∧ t.numerics = s.numerics ∧
      (s.engine (dieIndex die)).Wrote (t.engine (dieIndex die)) (wordEtype w) (wordVD w) (wordCount w)
        ((s.engine (dieIndex die)).Gives w (fun j => laneResult ff fi (wordEtype w) (rndOf w)
          ((s.engine (dieIndex die)).laneA w j) ((s.engine (dieIndex die)).laneB w j) ((s.engine (dieIndex die)).laneC w j)))) ∧
  (∀ (die : Die) (w : Word) (v : UnitVote) (s : State) (r : VecRun), isInt (wordEtype w) = true → s.WordDue die w 0x33 v r →
    ∃ t, exec (.viota die w v) s = .next t ∧ s.RanWord t die r (r.pc + 1) ∧ t.mem = s.mem ∧ t.numerics = s.numerics ∧
      (s.engine (dieIndex die)).Wrote (t.engine (dieIndex die)) (wordEtype w) (wordVD w) (wordCount w)
        ((s.engine (dieIndex die)).Gives w (fun j => some (natOfInt (etBits (wordEtype w))
          (satInt (wordEtype w) (sintOf 64 ((s.engine (dieIndex die)).sreg (wordVB w % 32)) + j))))))

/-- R144: a compare, its opcode, and when it holds. -/
def compareResult : Instr → Option (Die × Word × UnitVote × Nat × (Val → Val → Bool) × (Int → Int → Bool))
  | .vcmpeq d w v => some (d, w, v, 0x40, fun a b => a.eqv b, fun a b => decide (a = b))
  | .vcmpne d w v => some (d, w, v, 0x41, fun a b => !a.eqv b, fun a b => decide (a ≠ b))
  | .vcmplt d w v => some (d, w, v, 0x42, fun a b => a.lt b, fun a b => decide (a < b))
  | .vcmple d w v => some (d, w, v, 0x43, fun a b => a.le b, fun a b => decide (a ≤ b))
  | .vcmpgt d w v => some (d, w, v, 0x44, fun a b => b.lt a, fun a b => decide (b < a))
  | .vcmpge d w v => some (d, w, v, 0x45, fun a b => b.le a, fun a b => decide (b ≤ a))
  | .vcmpun d w v => some (d, w, v, 0x46, fun a b => a.isNan || b.isNan, fun _ _ => false)
  | _ => none

/-- R144: a predicate word, its opcode, and its result of P[VA[2:0]] and P[VB[2:0]] (log 50). -/
def predicateResult : Instr → Option (Die × Word × UnitVote × Nat × (Bool → Bool → Bool))
  | .pand d w v => some (d, w, v, 0x49, fun a b => a && b)
  | .por d w v => some (d, w, v, 0x4A, fun a b => a || b)
  | .pxor d w v => some (d, w, v, 0x4B, fun a b => xor a b)
  | .pnot d w v => some (d, w, v, 0x4C, fun a _ => !a)
  | .pset d w v => some (d, w, v, 0x4D, fun _ _ => true)
  | .pclr d w v => some (d, w, v, 0x4E, fun _ _ => false)
  | .pmov d w v => some (d, w, v, 0x4F, fun a _ => a)
  | _ => none

/-- R143, R144, R158: compares, VCLASS, the predicate words and VDROP write predicate VD[2:0] under the mask and nothing else. Which
predicates a predicate word names, the order of VCLASS, and compares with a NaN are the model's reading (log 50). -/
def Obligations.PredicateWords : Prop :=
  (∀ (c : Instr) (die : Die) (w : Word) (v : UnitVote) (op : Nat) (ff : Val → Val → Bool) (fi : Int → Int → Bool) (s : State)
    (r : VecRun), compareResult c = some (die, w, v, op, ff, fi) → s.WordDue die w op v r →
    ∃ t, exec c s = .next t ∧ s.RanWord t die r (r.pc + 1) ∧ t.mem = s.mem ∧ t.numerics = s.numerics ∧
      (s.engine (dieIndex die)).WrotePred (t.engine (dieIndex die)) (wordVD w % 8) (wordCount w)
        ((s.engine (dieIndex die)).GivesBit w (fun j =>
          if isInt (wordEtype w) then fi ((s.engine (dieIndex die)).laneA w j).2 ((s.engine (dieIndex die)).laneB w j).2
          else ff ((s.engine (dieIndex die)).laneA w j).1 ((s.engine (dieIndex die)).laneB w j).1))) ∧
  (∀ (die : Die) (w : Word) (v : UnitVote) (s : State) (r : VecRun), s.WordDue die w 0x47 v r →
    ∃ t, exec (.vclass die w v) s = .next t ∧ s.RanWord t die r (r.pc + 1) ∧ t.mem = s.mem ∧ t.numerics = s.numerics ∧
      (s.engine (dieIndex die)).WrotePred (t.engine (dieIndex die)) (wordVD w % 8) (wordCount w)
        ((s.engine (dieIndex die)).GivesBit w (fun j =>
          bit (wordVB w) (classOf (wordEtype w) ((s.engine (dieIndex die)).rawAt (wordEtype w) (wordVA w) j))))) ∧
  (∀ (c : Instr) (die : Die) (w : Word) (v : UnitVote) (op : Nat) (f : Bool → Bool → Bool) (s : State) (r : VecRun),
    predicateResult c = some (die, w, v, op, f) → s.WordDue die w op v r →
    ∃ t, exec c s = .next t ∧ s.RanWord t die r (r.pc + 1) ∧ t.mem = s.mem ∧ t.numerics = s.numerics ∧
      (s.engine (dieIndex die)).WrotePred (t.engine (dieIndex die)) (wordVD w % 8) (wordCount w)
        ((s.engine (dieIndex die)).GivesBit w (fun j =>
          f ((s.engine (dieIndex die)).predAt (wordVA w % 8) j) ((s.engine (dieIndex die)).predAt (wordVB w % 8) j)))) ∧
  (∀ (die : Die) (w : Word) (v : UnitVote) (s : State) (r : VecRun), s.WordDue die w 0x80 v r →
    ∃ t, exec (.vdrop die w v) s = .next t ∧ s.RanWord t die r (r.pc + 1) ∧ t.mem = s.mem ∧ t.numerics = s.numerics ∧
      (s.engine (dieIndex die)).WrotePred (t.engine (dieIndex die)) (wordVD w % 8) (wordCount w)
        ((s.engine (dieIndex die)).GivesBit w (fun j =>
          decide ((s.engine (dieIndex die)).sreg (4 * wordBlock w) % 2 ^ 32 ≤
            (randWord r.seed (r.tids.getD (wordSlot w) 0) (r.useCtr.getD (wordSlot w) 0).toNat r.step 4
              ((s.engine (dieIndex die)).sreg (4 * wordBlock w + 2) / 2 ^ 48)
              ((s.engine (dieIndex die)).sreg (4 * wordBlock w + 2) % 2 ^ 48 + j)).toNat))))

/-- R146, R156: a conversion or rounding word, its opcode, and the pattern of element j. -/
def convertResult : Instr → Option (Die × Word × UnitVote × Nat × (Engine → VecRun → Nat → Nat))
  | .vcvt d w v => some (d, w, v, 0x50, fun e r j => convertTo (wordEtype w)
      (if wordRnd w = 1 then .stoch (drawWord e r w (if wordOpt w then 3 else 2) j) else rndOf w)
      (laneVal (wordVB w % 8) (laneOf (wordVB w % 8) (e.rawAt (wordVB w % 8) (wordVA w) j))))
  | .vrint d w v => some (d, w, v, 0x51, fun e _ j => toIntegral w (rndOf w) e j)
  | .vfloor d w v => some (d, w, v, 0x52, fun e _ j => toIntegral w .down e j)
  | .vceil d w v => some (d, w, v, 0x53, fun e _ j => toIntegral w .up e j)
  | .vtrunc d w v => some (d, w, v, 0x54, fun e _ j => toIntegral w .zero e j)
  | _ => none
where
  toIntegral (w : Word) (rm : Rnd) (e : Engine) (j : Nat) : Nat :=
    if isInt (wordEtype w) then e.rawAt (wordEtype w) (wordVA w) j
    else roundFloat (etFloat (wordEtype w)) .nearest (integral rm (e.laneA w j).1)

/-- R146: conversions round once to ETYPE, and the integral words round to a whole number of the same type. -/
def Obligations.ConversionWords : Prop :=
  ∀ (c : Instr) (die : Die) (w : Word) (v : UnitVote) (op : Nat) (f : Engine → VecRun → Nat → Nat) (s : State) (r : VecRun),
    convertResult c = some (die, w, v, op, f) → s.WordDue die w op v r →
    ∃ t, exec c s = .next t ∧ s.RanWord t die r (r.pc + 1) ∧ t.mem = s.mem ∧ t.numerics = s.numerics ∧
      (s.engine (dieIndex die)).Wrote (t.engine (dieIndex die)) (wordEtype w) (wordVD w) (wordCount w)
        ((s.engine (dieIndex die)).Gives w (fun j => some (f (s.engine (dieIndex die)) r j)))

/-- R144: the words that move elements. The direction of VSHIFTEL, the order of VUNZIP, and what no source element reaches are free
(log 52). -/
def Obligations.MovementWords : Prop :=
  ∀ (die : Die) (w : Word) (v : UnitVote) (s : State) (r : VecRun),
    (s.WordDue die w 0x48 v r →
      ∃ t, exec (.vsel die w v) s = .next t ∧ s.RanWord t die r (r.pc + 1) ∧ t.mem = s.mem ∧
        (s.engine (dieIndex die)).Wrote (t.engine (dieIndex die)) (wordEtype w) (wordVD w) (wordCount w)
          (fun j x => ∀ y, (if (s.engine (dieIndex die)).predAt (wordPred w) j != wordPneg w
              then some ((s.engine (dieIndex die)).rawAt (wordEtype w) (wordVA w) j)
              else (s.engine (dieIndex die)).patternAt w j) = some y → x = elemOf (wordEtype w) y)) ∧
    (s.WordDue die w 0x58 v r →
      ∃ t up, exec (.vshiftel die w v) s = .next t ∧ s.RanWord t die r (r.pc + 1) ∧ t.mem = s.mem ∧
        (s.engine (dieIndex die)).Wrote (t.engine (dieIndex die)) (wordEtype w) (wordVD w) (wordCount w)
          ((s.engine (dieIndex die)).Gives w (fun j =>
            let i : Int := if up = true then (j : Int) - sintOf 64 ((s.engine (dieIndex die)).sreg (wordVB w % 32))
              else j + sintOf 64 ((s.engine (dieIndex die)).sreg (wordVB w % 32))
            if 0 ≤ i ∧ i < wordCount w then some ((s.engine (dieIndex die)).rawAt (wordEtype w) (wordVA w) i.toNat) else none))) ∧
    (s.WordDue die w 0x59 v r →
      ∃ t, exec (.vrev die w v) s = .next t ∧ s.RanWord t die r (r.pc + 1) ∧ t.mem = s.mem ∧
        (s.engine (dieIndex die)).Wrote (t.engine (dieIndex die)) (wordEtype w) (wordVD w) (wordCount w)
          ((s.engine (dieIndex die)).Gives w (fun j =>
            some ((s.engine (dieIndex die)).rawAt (wordEtype w) (wordVA w) (wordCount w - 1 - j))))) ∧
    (s.WordDue die w 0x5A v r →
      ∃ t, exec (.vperm die w v) s = .next t ∧ s.RanWord t die r (r.pc + 1) ∧ t.mem = s.mem ∧
        (s.engine (dieIndex die)).Wrote (t.engine (dieIndex die)) (wordEtype w) (wordVD w) (wordCount w)
          ((s.engine (dieIndex die)).Gives w (fun j => some ((s.engine (dieIndex die)).rawAt (wordEtype w) (wordVA w)
            ((s.engine (dieIndex die)).rawAt etINT16 (wordVB w) j))))) ∧
    (s.WordDue die w 0x5B v r →
      ∃ t, exec (.vzip die w v) s = .next t ∧ s.RanWord t die r (r.pc + 1) ∧ t.mem = s.mem ∧
        (s.engine (dieIndex die)).Wrote (t.engine (dieIndex die)) (wordEtype w) (wordVD w) (wordCount w)
          ((s.engine (dieIndex die)).Gives w (fun j =>
            if j % 2 = 0 then some ((s.engine (dieIndex die)).rawAt (wordEtype w) (wordVA w) (j / 2))
            else (s.engine (dieIndex die)).patternAt w (j / 2)))) ∧
    (s.WordDue die w 0x5C v r →
      ∃ t, exec (.vunzip die w v) s = .next t ∧ s.RanWord t die r (r.pc + 1) ∧ t.mem = s.mem ∧
        (s.engine (dieIndex die)).Wrote (t.engine (dieIndex die)) (wordEtype w) (wordVD w) (wordCount w)
          (fun j x => if (s.engine (dieIndex die)).maskAt w j then
              ∃ i, i < wordCount w ∧ (x = elemOf (wordEtype w) ((s.engine (dieIndex die)).rawAt (wordEtype w) (wordVA w) i) ∨
                ∀ y, (s.engine (dieIndex die)).patternAt w i = some y → x = elemOf (wordEtype w) y)
            else x = if wordPzero w then 0 else (s.engine (dieIndex die)).rawAt (wordEtype w) (wordVD w) j)) ∧
    (s.WordDue die w 0x5D v r →
      ∃ t, exec (.vbcast die w v) s = .next t ∧ s.RanWord t die r (r.pc + 1) ∧ t.mem = s.mem ∧
        (s.engine (dieIndex die)).Wrote (t.engine (dieIndex die)) (wordEtype w) (wordVD w) (wordCount w)
          ((s.engine (dieIndex die)).Gives w (fun _ =>
            if (s.engine (dieIndex die)).sreg (wordVB w % 32) < 65536
            then some ((s.engine (dieIndex die)).rawAt (wordEtype w) (wordVA w) ((s.engine (dieIndex die)).sreg (wordVB w % 32)))
            else none))) ∧
    (s.WordDue die w 0x5E v r →
      ∃ t, exec (.vcompress die w v) s = .next t ∧ s.RanWord t die r (r.pc + 1) ∧ t.mem = s.mem ∧
        (s.engine (dieIndex die)).Wrote (t.engine (dieIndex die)) (wordEtype w) (wordVD w) (wordCount w)
          (fun j x => x = match ((s.engine (dieIndex die)).taken w)[j]? with
            | some i => elemOf (wordEtype w) ((s.engine (dieIndex die)).rawAt (wordEtype w) (wordVA w) i)
            | none => if wordPzero w then 0 else (s.engine (dieIndex die)).rawAt (wordEtype w) (wordVD w) j)) ∧
    (s.WordDue die w 0x5F v r →
      ∃ t, exec (.vexpand die w v) s = .next t ∧ s.RanWord t die r (r.pc + 1) ∧ t.mem = s.mem ∧
        (s.engine (dieIndex die)).Wrote (t.engine (dieIndex die)) (wordEtype w) (wordVD w) (wordCount w)
          ((s.engine (dieIndex die)).Gives w (fun j => some ((s.engine (dieIndex die)).rawAt (wordEtype w) (wordVA w)
            ((List.range j).filter ((s.engine (dieIndex die)).maskAt w)).length))))

/-- R147 to R152: which elements of a load are wanted: those the mask takes, or the one element of VLDB if it takes any. -/
def wantedSpots (e : Engine) (w : Word) (one : Bool) : List Bool := if one then [(e.mask w).any id] else e.mask w

/-- A load, its opcode, and whether it gives one element to all. -/
def loadResult : Instr → Option (Die × Word × UnitVote × Nat × Bool)
  | .vld d w v => some (d, w, v, 0x60, false)
  | .vldb d w v => some (d, w, v, 0x62, true)
  | .vgather d w v => some (d, w, v, 0x63, false)
  | _ => none

/-- R143, R147 to R151: a load whose elements can all be read gives each its code times the slot's scale, rounded once, and changes
no memory. An INT32 code outside an INT16 element gives no stated result (log 50). -/
def Obligations.LoadWords : Prop :=
  ∀ (c : Instr) (die : Die) (w : Word) (v : UnitVote) (op : Nat) (one : Bool) (s s1 : State) (r : VecRun) (xs : List (List Nat)),
    loadResult c = some (die, w, v, op, one) → s.WordDue die w op v r →
    s.vecElems (dieIndex die) r.root (memFmt w) (vecStride (s.engine (dieIndex die)) w) false
      (wantedSpots (s.engine (dieIndex die)) w one) (vecSpots (s.engine (dieIndex die)) w) = (s1, .ok xs) →
    ∃ t, exec c s = .next t ∧ s.RanWord t die r (r.pc + 1) ∧ t.mem = s1.mem ∧ t.mem.ram = s.mem.ram ∧ t.numerics = s.numerics ∧
      (s.engine (dieIndex die)).Wrote (t.engine (dieIndex die)) (wordEtype w) (wordVD w) (wordCount w)
        ((s.engine (dieIndex die)).Gives w (fun j =>
          let i := if one then 0 else j
          loadElem (memFmt w) (wordEtype w) (loadScale r w)
            (spotCode (memFmt w) ((vecSpots (s.engine (dieIndex die)) w).getD i 0) (s.bytesAt (xs.getD i [])))))

/-- Whether two elements of a store meet in memory: the same half byte, or a byte in common. -/
def spotsMeet (f : Nat) (hs : List Int) (xs : List (List Nat)) (j k : Nat) : Prop :=
  if memBits f = 4 then xs.getD j [] = xs.getD k [] ∧ hs.getD j 0 % 2 = hs.getD k 0 % 2
  else ∃ a, a ∈ xs.getD j [] ∧ a ∈ xs.getD k []

/-- A store and its opcode. -/
def storeResult : Instr → Option (Die × Word × UnitVote × Nat)
  | .vst d w v => some (d, w, v, 0x61)
  | .vscatter d w v => some (d, w, v, 0x64)
  | _ => none

/-- R143, R147 to R150, R152: VST and VSCATTER write the code of each element the mask takes, or 0 with PZERO = 1 where it takes none,
to the element's own bytes, the last of two elements at one place landing last; no other byte changes. -/
def StoreWordsHold : Prop :=
  ∀ (c : Instr) (die : Die) (w : Word) (v : UnitVote) (op : Nat) (s s1 : State) (r : VecRun) (xs : List (List Nat)),
    storeResult c = some (die, w, v, op) → s.WordDue die w op v r →
    s.vecElems (dieIndex die) r.root (memFmt w) (vecStride (s.engine (dieIndex die)) w) true
      (((s.engine (dieIndex die)).mask w).map (fun m => m || wordPzero w)) (vecSpots (s.engine (dieIndex die)) w) = (s1, .ok xs) →
    ∃ t, exec c s = .next t ∧ s.RanWord t die r (r.pc + 1) ∧
      { t.engine (dieIndex die) with run := (s.engine (dieIndex die)).run } = s.engine (dieIndex die) ∧
      (∃ r', (t.engine (dieIndex die)).run = some r' ∧
        r'.uses = (storeConvert (s.engine (dieIndex die)) r w ((s.engine (dieIndex die)).mask w)).2.uses) ∧
      (∀ j, j < wordCount w → ((s.engine (dieIndex die)).maskAt w j || wordPzero w) = true →
        (xs.getD j []).Nodup → (∀ a ∈ xs.getD j [], noSlot a = false) →
        (∀ k, j < k → k < wordCount w → ((s.engine (dieIndex die)).maskAt w k || wordPzero w) = true →
          ¬ spotsMeet (memFmt w) (vecSpots (s.engine (dieIndex die)) w) xs j k) →
        spotCode (memFmt w) ((vecSpots (s.engine (dieIndex die)) w).getD j 0) (t.bytesAt (xs.getD j [])) =
          if (s.engine (dieIndex die)).maskAt w j
          then (storeConvert (s.engine (dieIndex die)) r w ((s.engine (dieIndex die)).mask w)).1.getD j 0 % 2 ^ memBits (memFmt w)
          else 0) ∧
      ∀ a, (∀ x ∈ xs, a ∉ x) → t.mem.ram.get a = s.mem.ram.get a

/-- R150: VSCATADD adds each element the mask takes into its location, and with PZERO = 1 clears those of the others; no other byte
changes. -/
def ScatterAddHold : Prop :=
  ∀ (die : Die) (w : Word) (v : UnitVote) (s s1 : State) (r : VecRun) (xs : List (List Nat)),
    s.WordDue die w 0x65 v r →
    s.vecElems (dieIndex die) r.root (memFmt w) (vecStride (s.engine (dieIndex die)) w) true
      (((s.engine (dieIndex die)).mask w).map (fun m => m || wordPzero w)) (vecSpots (s.engine (dieIndex die)) w) = (s1, .ok xs) →
    ∃ t, exec (.vscatadd die w v) s = .next t ∧ s.RanWord t die r (r.pc + 1) ∧
      { t.engine (dieIndex die) with run := (s.engine (dieIndex die)).run } = s.engine (dieIndex die) ∧
      (∀ j, j < wordCount w → memBits (memFmt w) ≠ 4 → (s.engine (dieIndex die)).maskAt w j = true →
        (xs.getD j []).Nodup → (∀ a ∈ xs.getD j [], noSlot a = false) →
        (∀ k, k ≠ j → k < wordCount w → ((s.engine (dieIndex die)).maskAt w k || wordPzero w) = true →
          ¬ spotsMeet (memFmt w) (vecSpots (s.engine (dieIndex die)) w) xs j k) →
        t.bytesAt (xs.getD j []) = addCode (memFmt w) (wordEtype w) (s.bytesAt (xs.getD j []))
          ((s.engine (dieIndex die)).laneA w j) % 2 ^ (8 * memBytes (memFmt w))) ∧
      ∀ a, (∀ x ∈ xs, a ∉ x) → t.mem.ram.get a = s.mem.ram.get a

/-- R143, R147 to R150, R152: the stores, among them the scatter-add. -/
def Obligations.StoreWords : Prop := StoreWordsHold ∧ ScatterAddHold


/-- R149, R154, R155: predicates in memory, one bit to an element; the table lookups; and tables to and from their images. The bits an
image's layout ignores are free when it is written (log 54). -/
def Obligations.TableWords : Prop :=
  (∀ (die : Die) (w : Word) (v : UnitVote) (s s1 : State) (r : VecRun) (as : List Nat), s.WordDue die w 0x66 v r →
    s.vecBytes r.root (allowVec (dieIndex die) 0) false (vecBase (s.engine (dieIndex die)) w) (ceilDiv (wordCount w) 8) = (s1, .ok as) →
    ∃ t, exec (.vldp die w v) s = .next t ∧ s.RanWord t die r (r.pc + 1) ∧ t.mem = s1.mem ∧ t.mem.ram = s.mem.ram ∧
      (s.engine (dieIndex die)).WrotePred (t.engine (dieIndex die)) (wordVD w % 8) (wordCount w)
        ((s.engine (dieIndex die)).GivesBit w (fun j => (s.mem.ram.get (as.getD (j / 8) 0)).getLsbD (j % 8)))) ∧
  (∀ (die : Die) (w : Word) (v : UnitVote) (s s1 : State) (r : VecRun) (as : List Nat), s.WordDue die w 0x67 v r →
    s.vecBytes r.root (allowVec (dieIndex die) 0) true (vecBase (s.engine (dieIndex die)) w) (ceilDiv (wordCount w) 8) = (s1, .ok as) →
    as.Nodup → (∀ a ∈ as, noSlot a = false) →
    ∃ t, exec (.vstp die w v) s = .next t ∧ s.RanWord t die r (r.pc + 1) ∧
      { t.engine (dieIndex die) with run := (s.engine (dieIndex die)).run } = s.engine (dieIndex die) ∧
      (∀ j, j < 8 * as.length → (t.mem.ram.get (as.getD (j / 8) 0)).getLsbD (j % 8) =
        if j < wordCount w ∧ (s.engine (dieIndex die)).maskAt w j = true then (s.engine (dieIndex die)).predAt (wordVA w % 8) j
        else if j < wordCount w ∧ wordPzero w = true then false
        else (s.mem.ram.get (as.getD (j / 8) 0)).getLsbD (j % 8)) ∧
      ∀ a, a ∉ as → t.mem.ram.get a = s.mem.ram.get a) ∧
  (∀ (die : Die) (w : Word) (v : UnitVote) (s : State) (r : VecRun),
    (s.WordDue die w 0x68 v r →
      ∃ t, exec (.vlut die w v) s = .next t ∧ s.RanWord t die r (r.pc + 1) ∧ t.mem = s.mem ∧
        (s.engine (dieIndex die)).Wrote (t.engine (dieIndex die)) (wordEtype w) (wordVD w) (wordCount w)
          ((s.engine (dieIndex die)).Gives w (fun j =>
            let h := (s.engine (dieIndex die)).rawAt etBF16 (wordVA w) j
            some (roundFloat (etFloat (wordEtype w)) (rndOf w)
              (lookup ((s.engine (dieIndex die)).tables.get (2 * (wordVB w % 8) * 4096 + h / 16)) h))))) ∧
    (s.WordDue die w 0x69 v r →
      ∃ t, exec (.vlutd die w v) s = .next t ∧ s.RanWord t die r (r.pc + 1) ∧ t.mem = s.mem ∧
        (s.engine (dieIndex die)).Wrote (t.engine (dieIndex die)) (wordEtype w) (wordVD w) (wordCount w)
          ((s.engine (dieIndex die)).Gives w (fun j =>
            let h := (s.engine (dieIndex die)).rawAt etBF16 (wordVA w) j
            some (roundFloat (etFloat (wordEtype w)) (rndOf w)
              (lookup ((s.engine (dieIndex die)).tables.get ((2 * (wordVB w % 8) + 1) * 4096 + h / 16)) h)))))) ∧
  (∀ (die : Die) (w : Word) (v : UnitVote) (s s1 : State) (r : VecRun) (bs : List Byte), s.WordDue die w 0x6A v r →
    vecBase (s.engine (dieIndex die)) w % 8 = 0 →
    s.readVirt r.root (allowVec (dieIndex die) 0) (vecBase (s.engine (dieIndex die)) w) 32768 = (s1, .ok bs) →
    ∃ t, exec (.vtblld die w v) s = .next t ∧ s.RanWord t die r (r.pc + 1) ∧ t.mem.ram = s.mem.ram ∧
      (∀ i, i < 4096 →
        segC0 ((t.engine (dieIndex die)).tables.get (wordVD w % 16 * 4096 + i)) =
          decodeFloat fmtA24 (leNat ((bs.drop (8 * i)).take 3)) ∧
        segC1 ((t.engine (dieIndex die)).tables.get (wordVD w % 16 * 4096 + i)) =
          decodeFloat fmtA24 (leNat ((bs.drop (8 * i + 4)).take 3))) ∧
      (∀ k, k / 4096 ≠ wordVD w % 16 → (t.engine (dieIndex die)).tables.get k = (s.engine (dieIndex die)).tables.get k) ∧
      { t.engine (dieIndex die) with tables := (s.engine (dieIndex die)).tables, run := (s.engine (dieIndex die)).run } =
        s.engine (dieIndex die)) ∧
  (∀ (die : Die) (w : Word) (v : UnitVote) (s s1 : State) (r : VecRun), s.WordDue die w 0x6B v r →
    vecBase (s.engine (dieIndex die)) w % 8 = 0 →
    s.pagesWritable r.root (allowVec (dieIndex die) 0) (pageFuel 32768) (vecBase (s.engine (dieIndex die)) w) 32768 = (s1, none) →
    ∃ t bs g r', exec (.vtblst die w v) s = .next t ∧ (t.engine (dieIndex die)).run = some r' ∧ r'.pc = r.pc + 1 ∧
      { t.engine (dieIndex die) with run := (s.engine (dieIndex die)).run } = s.engine (dieIndex die) ∧
      t.mem = (({ s1 with freeGen := g } : State).writeVirt r.root (allowVec (dieIndex die) 0)
        (vecBase (s.engine (dieIndex die)) w) bs).1.mem ∧
      bs.length = 32768 ∧
      ∀ i, i < 4096 →
        leNat ((bs.drop (8 * i)).take 3) = bits ((s.engine (dieIndex die)).tables.get (wordVD w % 16 * 4096 + i)).toNat 23 0 ∧
        leNat ((bs.drop (8 * i + 4)).take 3) = bits ((s.engine (dieIndex die)).tables.get (wordVD w % 16 * 4096 + i)).toNat 55 32)

/-- The elements a word takes, with their numbers. -/
def takenLanes (e : Engine) (w : Word) : List (Nat × Lane) := (e.taken w).map (fun j => (j, e.laneA w j))

/-- R160: an extreme, its opcode, and what wins. -/
def extremeResult : Instr → Option (Die × Word × UnitVote × Nat × (Nat → Wins))
  | .vrmax d w v => some (d, w, v, 0x72, winsMax)
  | .vrmin d w v => some (d, w, v, 0x73, winsMin)
  | .vrmaxabs d w v => some (d, w, v, 0x74, winsAbs)
  | .vrargmax d w v => some (d, w, v, 0x76, winsMax)
  | _ => none

/-- R135, R159, R160: reductions write VALUE and AUX of Q[VD[3:0]] and nothing else; with VC[0] = 1 they combine with what it holds, and
then leave it where the mask takes no element, an integer sum saturating once (log 79). AUX of VRCNT is free (log 55). -/
def ReductionWordsHold : Prop :=
  (∀ (sq : Bool) (c : Instr) (die : Die) (w : Word) (v : UnitVote) (s : State) (r : VecRun),
    c = (if sq then .vrsumsq die w v else .vrsum die w v) → s.WordDue die w (if sq then 0x71 else 0x70) v r →
    ∃ t, exec c s = .next t ∧ s.RanWord t die r (r.pc + 1) ∧ t.mem = s.mem ∧ t.numerics = s.numerics ∧
      let e := s.engine (dieIndex die)
      let xs := if sq then squares (takenLanes e w) else takenLanes e w
      let q := (e.q.get (wordVD w % 16)).toNat
      if wordVC w % 2 = 1 then
        (xs = [] → { t.engine (dieIndex die) with run := e.run } = e) ∧
        (xs ≠ [] → e.WroteQ (t.engine (dieIndex die)) (wordVD w % 16)
          (if isInt (wordEtype w) then valueInt (sintOf 32 q + intSum xs) else (fold (BitVec.ofNat 24 q) (floatSum xs)).toNat)
          (q / 2 ^ 32 + xs.length))
      else e.WroteQ (t.engine (dieIndex die)) (wordVD w % 16)
        (if isInt (wordEtype w) then valueInt (intSum xs) else (floatSum xs).toNat) xs.length) ∧
  (∀ (c : Instr) (die : Die) (w : Word) (v : UnitVote) (op : Nat) (wins : Nat → Wins) (s : State) (r : VecRun),
    extremeResult c = some (die, w, v, op, wins) → s.WordDue die w op v r →
    ∃ t, exec c s = .next t ∧ s.RanWord t die r (r.pc + 1) ∧ t.mem = s.mem ∧ t.numerics = s.numerics ∧
      let e := s.engine (dieIndex die)
      let q := (e.q.get (wordVD w % 16)).toNat
      match winner (wins (wordEtype w)) none (takenLanes e w) with
      | none =>
        (wordVC w % 2 = 1 → { t.engine (dieIndex die) with run := e.run } = e) ∧
        (wordVC w % 2 = 0 → e.WroteQ (t.engine (dieIndex die)) (wordVD w % 16) 0 0)
      | some (j, l) =>
        (wordVC w % 2 = 0 → e.WroteQ (t.engine (dieIndex die)) (wordVD w % 16) (valueOf (wordEtype w) l) j) ∧
        (wordVC w % 2 = 1 → ∃ best, winner (wins (wordEtype w)) (some (q / 2 ^ 32, laneOfQ (wordEtype w) q)) [(j, l)] = some best ∧
          e.WroteQ (t.engine (dieIndex die)) (wordVD w % 16) (valueOf (wordEtype w) best.2) best.1)) ∧
  (∀ (die : Die) (w : Word) (v : UnitVote) (s : State) (r : VecRun), s.WordDue die w 0x75 v r →
    ∃ t aux, exec (.vrcnt die w v) s = .next t ∧ s.RanWord t die r (r.pc + 1) ∧ t.mem = s.mem ∧
      let e := s.engine (dieIndex die)
      let q := (e.q.get (wordVD w % 16)).toNat
      (e.taken w = [] → wordVC w % 2 = 1 → { t.engine (dieIndex die) with run := e.run } = e) ∧
      (e.taken w = [] → wordVC w % 2 = 0 → e.WroteQ (t.engine (dieIndex die)) (wordVD w % 16) 0 0) ∧
      (e.taken w ≠ [] → e.WroteQ (t.engine (dieIndex die)) (wordVD w % 16)
        (valueInt ((e.taken w).length + (if wordVC w % 2 = 1 then sintOf 32 q else 0))) aux)) ∧
  (∀ (die : Die) (w : Word) (v : UnitVote) (s : State) (r : VecRun),
    (s.WordDue die w 0x7C v r →
      ∃ t, exec (.qclr die w v) s = .next t ∧ s.RanWord t die r (r.pc + 1) ∧ t.mem = s.mem ∧
        (s.engine (dieIndex die)).WroteQ (t.engine (dieIndex die)) (wordVD w % 16) 0 0) ∧
    (s.WordDue die w 0x7D v r →
      ∃ t, exec (.qset die w v) s = .next t ∧ s.RanWord t die r (r.pc + 1) ∧ t.mem = s.mem ∧
        (t.engine (dieIndex die)).q.get (wordVD w % 16) = (s.engine (dieIndex die)).s.get 0 (wordVA w % 32) ∧
        (∀ k, k ≠ wordVD w % 16 → (t.engine (dieIndex die)).q.get k = (s.engine (dieIndex die)).q.get k)) ∧
    (s.WordDue die w 0x7E v r →
      ∃ t, exec (.qmov die w v) s = .next t ∧ s.RanWord t die r (r.pc + 1) ∧ t.mem = s.mem ∧
        (t.engine (dieIndex die)).q.get (wordVD w % 16) = (s.engine (dieIndex die)).q.get (wordVA w % 16) ∧
        (∀ k, k ≠ wordVD w % 16 → (t.engine (dieIndex die)).q.get k = (s.engine (dieIndex die)).q.get k)))

/-- R161: a segmented reduction, its opcode, and the result of a segment's elements. -/
def segmentResult : Instr → Option (Die × Word × UnitVote × Nat × (Nat → List (Nat × Lane) → Nat))
  | .vsegsum d w v => some (d, w, v, 0x77, segSum)
  | .vsegsumsq d w v => some (d, w, v, 0x78, fun t xs => segSum t (squares xs))
  | .vsegmax d w v => some (d, w, v, 0x79, segExtreme winsMax)
  | .vsegmin d w v => some (d, w, v, 0x7A, segExtreme winsMin)
  | .vsegmaxabs d w v => some (d, w, v, 0x7B, segExtreme winsAbs)
  | _ => none

/-- R161, R165: element k of the pair VD receives the result of the k-th segment of S[VB[4:0]] elements, numbered within the segment
(log 55); GSTAT folds the sum of squares into its group's LOCAL_SQ and adds to LOCAL_UNITS. -/
def SegmentWordsHold : Prop :=
  (∀ (c : Instr) (die : Die) (w : Word) (v : UnitVote) (op : Nat) (f : Nat → List (Nat × Lane) → Nat) (s : State) (r : VecRun),
    segmentResult c = some (die, w, v, op, f) → s.WordDue die w op v r →
    ∃ t, exec c s = .next t ∧ s.RanWord t die r (r.pc + 1) ∧ t.mem = s.mem ∧ t.numerics = s.numerics ∧
      let e := s.engine (dieIndex die)
      let l := if e.sreg (wordVB w % 32) = 0 then wordCount w else min (e.sreg (wordVB w % 32)) (wordCount w)
      let out := if isInt (wordEtype w) then etINT32 else etA24
      e.Wrote (t.engine (dieIndex die)) out (wordVD w) (ceilDiv (wordCount w) l) (fun k x =>
        x = elemOf out (f (wordEtype w) (((takenLanes e w).filter (fun p => decide (k * l ≤ p.1) && decide (p.1 < (k + 1) * l))).map
          (fun p => (p.1 - k * l, p.2)))))) ∧
  (∀ (die : Die) (w : Word) (v : UnitVote) (s : State) (r : VecRun), s.WordDue die w 0x81 v r →
    ∃ t sq, exec (.gstat die w v) s = .next t ∧ s.RanWord t die r (r.pc + 1) ∧ t.mem = s.mem ∧
      let e := s.engine (dieIndex die)
      let x := e.sreg (4 * wordBlock w)
      let old := e.gstat.get (0, 0) (x % 256)
      (t.engine (dieIndex die)).gstat.get (0, 0) (x % 256) = (sq, (old.2 + x / 2 ^ 16 % 2 ^ 32) % 2 ^ 64) ∧
      (isInt (wordEtype w) = false → sq = fold old.1 (floatSum (squares (takenLanes e w)))) ∧
      (∀ k, k ≠ x % 256 → (t.engine (dieIndex die)).gstat.get (0, 0) k = e.gstat.get (0, 0) k) ∧
      { t.engine (dieIndex die) with gstat := e.gstat, run := e.run } = e)

/-- R135, R159 to R161, R165: reductions of a register, and of its segments. -/
def Obligations.ReductionWords : Prop := ReductionWordsHold ∧ SegmentWordsHold


/-- R138, R142, R213, R289, R297, R313: a checked word whose duplicates disagree ends the program with CHECK_MISMATCH and is reported;
one that a vote carried has its effect and goes on, and the vote is reported. Stated of the scalar words, which FULL checks, and of the
arithmetic words. -/
def Obligations.VotedWords : Prop :=
  (∀ (c : Instr) (die : Die) (w : Word) (op : Nat) (ff : FloatFn) (fi : IntFn) (s : State) (r : VecRun),
    s.isReady = true → s.Sound → s.atWord (dieIndex die) w op = some r → wordChecked r w = true →
    (arithResult c = some (die, w, .mismatch, op, ff, fi) →
      ∃ t r', exec c s = .next t ∧ (t.engine (dieIndex die)).run = some r' ∧ r'.ended = true ∧ r'.pc = r.pc ∧ r'.words = r.words + 1 ∧
        t.Reports 1 5 (dieIndex die) ∧ (s.otherFailed (dieIndex die) r = false → r'.failure = some (0x30, 0) ∧ r'.faultPc = some r.pc)) ∧
    (∀ (die' : Die) (lane : Nat), arithResult c = some (die, w, .masked die' lane, op, ff, fi) →
      ∃ t r', exec c s = .next t ∧ (t.engine (dieIndex die)).run = some r' ∧ r'.pc = r.pc + 1 ∧ r'.words = r.words + 1 ∧
        r'.masked = true ∧ t.Reports 1 5 (dieIndex die) ∧ t.mem = s.mem ∧
        (s.engine (dieIndex die)).Wrote (t.engine (dieIndex die)) (wordEtype w) (wordVD w) (wordCount w)
          ((s.engine (dieIndex die)).Gives w (fun j => laneResult ff fi (wordEtype w) (rndOf w)
            ((s.engine (dieIndex die)).laneA w j) ((s.engine (dieIndex die)).laneB w j) ((s.engine (dieIndex die)).laneC w j))))) ∧
  (∀ (c : Instr) (die : Die) (w : ScalarIssue) (op : Nat) (s : State) (r : VecRun), scalarForm c = some (die, w, op) →
    s.isReady = true → s.atWord (dieIndex die) w.word op = some r → r.check = 3 →
    (w.vote = .mismatch →
      ∃ t r', exec c s = .next t ∧ (t.engine (dieIndex die)).run = some r' ∧ r'.ended = true ∧ r'.pc = r.pc ∧ r'.words = r.words + 1 ∧
        t.Reports 1 5 (dieIndex die) ∧ (s.otherFailed (dieIndex die) r = false → r'.failure = some (0x30, 0) ∧ r'.faultPc = some r.pc)) ∧
    (∀ (die' : Die) (lane : Nat), w.vote = .masked die' lane →
      ∃ t r', exec c s = .next t ∧ (t.engine (dieIndex die)).run = some r' ∧ r'.words = r.words + 1 ∧ r'.masked = true ∧
        r'.failure = r.failure ∧ t.Reports 1 5 (dieIndex die) ∧ t.mem = s.mem ∧
        ∀ f, scalarResult c = some (die, w, op, f) → r'.pc = r.pc + 1 ∧
          (t.engine (dieIndex die)).sreg (wordSD w.word) = f (s.engine (dieIndex die)) % 2 ^ 64))

/-! ### The sequencer and its ops -/

/-- R137, R138, R169, R170: a VEC that passes its checks starts its engines at word 0 with S0 to S7 from the descriptor, S8 to S30 zero
and S31 the die; one whose descriptor is bad ends at once; a VEC completes when its programs have ended, and its registers stay. -/
def Obligations.VecOps : Prop :=
  (∀ (s s1 : State) (op : Nat) (o : Op) (p : Program) (bs : List Byte), s.Free op opVec o → s.program o.ring = some p →
    s.enginesFree o = true → s.entriesFree o = true → vecDescBad o = false →
    s.readVirt p.root allowProgram o.progAddr (8 * o.progLen) = (s1, .ok bs) → (∀ e ∈ s1.slotEntries o p, e.isSome = true) →
    programBad (wordsOf o.progLen bs) o.slotsUsed ((s1.slotEntries o p).map (·.getD Entry.free)) (o.engine == 3)
      s1.numerics.seedValid = false →
    ∃ t, exec (.vec op) s = .next t ∧ t.op op = some (s1.issued o) ∧ t.mem = s1.mem ∧
      ∀ d, d < 2 →
        (bit o.engine d = false → t.engine d = s1.engine d) ∧
        (bit o.engine d = true →
          (∃ r, (t.engine d).run = some r ∧ r.op = op ∧ r.pc = 0 ∧ r.ended = false ∧ r.words = 0 ∧
            r.prog = wordsOf o.progLen bs ∧ r.check = effectiveCheck o.checkField p.check) ∧
          (∀ i, i < 8 → (t.engine d).sreg i = o.w (0x40 + 8 * i) % 2 ^ 64) ∧ (∀ i, 8 ≤ i → i < 31 → (t.engine d).sreg i = 0) ∧
          (t.engine d).sreg 31 = d ∧
          { t.engine d with s := (s1.engine d).s, run := (s1.engine d).run } = s1.engine d)) ∧
  (∀ (s : State) (op : Nat) (o : Op) (p : Program), s.Free op opVec o → s.program o.ring = some p →
    s.enginesFree o = true → s.entriesFree o = true → vecDescBad o = true → o.resultAddr = 0 →
    ∃ t, exec (.vec op) s = .next t ∧ t.op op = none ∧ t.engine 0 = s.engine 0 ∧ t.engine 1 = s.engine 1 ∧ t.mem = s.mem) ∧
  (∀ (s : State) (op : Nat) (o : Op) (p : Program), s.isReady = true → s.op op = some o → o.id = op → s.program o.ring = some p →
    s.vecRuns op ≠ [] → (∀ r ∈ s.vecRuns op, r.ended = true) → o.resultAddr = 0 →
    ∃ t, exec (.vecComplete op) s = .next t ∧ s.Closed t o (vecStatus (s.vecRuns op)) ∧ t.vecRuns op = [] ∧ t.mem = s.mem ∧
      ∀ d, { t.engine d with run := (s.engine d).run } = s.engine d)

/-- R54, R106, R112, R117, R353: a MATMUL that passes its checks has its scales and asks for its frank; one whose entries, chain,
product of scales (R106) or missing seed (R98) refuse it ends at once, with nothing changed. -/
def Obligations.MatmulStarts : Prop :=
  (∀ (s s2 s3 s4 s5 : State) (op : Nat) (o : Op) (p : Program) (a b c : Entry) (x : (Scale × Option SlotUse) × (Scale × Option SlotUse)),
    s.Free op opMatmul o → s.program o.ring = some p → s.regionFree o = true → s.entriesFree o = true → s.matRun op = none →
    s.entryFor (matDesc o).aTid p.histLen p.marginExp = some a → s.entryFor (matDesc o).bTid p.histLen p.marginExp = some b →
    s.entryFor (matDesc o).outTid p.histLen p.marginExp = some c → (matDesc o).entriesBad a b c = false →
    s.chainBad (matDesc o) = false → productKnownBad (matDesc o) (s.chainOf (matDesc o)) a b = false →
    (s.needsSeed (matDesc o) = true → s.numerics.seedValid = true) →
    ((s.acting op).discardChains (matDesc o)).matReach p.root (matDesc o)
      (effectiveCheck (matDesc o).check p.check == 3 || (matDesc o).resident c.histCount c.pinned || (matDesc o).band == 0)
      ((matDesc o).resident c.histCount c.pinned) = (s2, none) →
    s2.chainRead (matDesc o) = (s3, none) → s3.meetHidden 5 op = (s4, false) →
    s4.matScales p.root (matDesc o) a b = (s5, .ok x) →
    productBad (matDesc o) (s.chainOf (matDesc o)) (startMat o p (matDesc o) a b c (s.chainOf (matDesc o)) x) = false →
    (∀ r : MatRun, s5.plateFree r = true) →
    ∃ t r, exec (.matmul op) s = .next t ∧ t.op op = some { o with phase := OpPhase.asking } ∧ t.matRun op = some r ∧
      r.pass = 0 ∧ r.aScale = x.1.1 ∧ r.bScale = x.2.1 ∧ r.check = effectiveCheck (matDesc o).check p.check ∧
      t.asksFrank op = true ∧ t.mem = s5.mem ∧
      ((matDesc o).foldKeep = true → (matDesc o).foldCont = false →
        ∃ k ∈ t.numerics.chains, k.accBase = (matDesc o).accBase ∧ k.opening = some op)) ∧
  (∀ (s : State) (op : Nat) (o : Op) (p : Program) (a b c : Entry), s.Free op opMatmul o → s.program o.ring = some p →
    s.regionFree o = true → s.entriesFree o = true → o.resultAddr = 0 →
    s.entryFor (matDesc o).aTid p.histLen p.marginExp = some a → s.entryFor (matDesc o).bTid p.histLen p.marginExp = some b →
    s.entryFor (matDesc o).outTid p.histLen p.marginExp = some c →
    ((matDesc o).entriesBad a b c = true ∨ s.chainBad (matDesc o) = true ∨
      productKnownBad (matDesc o) (s.chainOf (matDesc o)) a b = true ∨
      (s.needsSeed (matDesc o) = true ∧ s.numerics.seedValid = false)) →
    ∃ t, exec (.matmul op) s = .next t ∧ t.op op = none ∧ t.mem = s.mem ∧ t.numerics.chains = s.numerics.chains)

/-- R42, R289, R291 to R296, R299, R300: a pass whose tiles pass their checks streams, its tile sums entering at their K-tile's place in
the tree; under LIGHT the tiles with residue failures are withheld for a shifted re-run, which masks the fault or fails the op; under
FULL tiles that differ between the runs, or fail a residue, ask for a vote pass's frank; folds of which no two agree fail the op. -/
def PlatePassesHold : Prop :=
  (∀ (s s1 : State) (op : Nat) (o : Op) (r r1 : MatRun) (p : Program) (c : PassFaults) (f : DieVotes)
    (x : List (List Val) × List (List Val)), s.OnPlate op o r p → s.streams r = true → r.blockRoom = true → r.owed = [] →
    (s.acting op).passOperands p.root r = (s1, .ok x) →
    (r.check = 1 ∨ (r.check = 2 ∧ r.withheld x c.p = []) ∨ (r.check = 3 ∧ r.disputed x c = [])) →
    r1 = (if r.makesFolds then r.votes 4 f else r) →
    ((r.makesFolds = false ∨ f.lost = none) → ∃ t, exec (.platePassEnd op c f) s = .next t ∧ s1.TookPass t op o p r1 x (faultOf c.p)) ∧
    (r.makesFolds = true → f.lost ≠ none →
      ∃ t r', exec (.platePassEnd op c f) s = .next t ∧ t.matRun op = some r' ∧ r'.failure = some (0x30, none) ∧
        r'.pass = r.pass + 1 ∧ t.mem = s1.mem)) ∧
  (∀ (s s1 : State) (op : Nat) (o : Op) (r : MatRun) (p : Program) (c : PassFaults) (f : DieVotes)
    (x : List (List Val) × List (List Val)), s.OnPlate op o r p → s.streams r = true → r.blockRoom = true → r.check = 2 → r.owed = [] →
    (s.acting op).passOperands p.root r = (s1, .ok x) → r.withheld x c.p ≠ [] →
    ∃ t r', exec (.platePassEnd op c f) s = .next t ∧ t.matRun op = some r' ∧ r'.owed = r.withheld x c.p ∧ r'.first = c.p ∧
      r'.pass = r.pass ∧ r'.elems = r.elems ∧ r'.ints = r.ints ∧ r'.failure = none ∧ t.mem = s1.mem) ∧
  (∀ (s s1 : State) (op : Nat) (o : Op) (r : MatRun) (p : Program) (c : PassFaults) (f : DieVotes)
    (x : List (List Val) × List (List Val)), s.OnPlate op o r p → s.streams r = true → r.blockRoom = true → r.check = 2 → r.owed ≠ [] →
    (s.acting op).passOperands p.root r = (s1, .ok x) →
    (r.owed.any (r.tileFails x c.p) = true →
      ∃ t r', exec (.platePassEnd op c f) s = .next t ∧ t.matRun op = some r' ∧ r'.failure = some (0x30, none) ∧
        (∀ q ∈ r.residues, t.Reports 1 1 q.1) ∧ t.mem = s1.mem) ∧
    (r.owed.any (r.tileFails x c.p) = false → (r.makesFolds = false ∨ f.lost = none) →
      ∃ t r', exec (.platePassEnd op c f) s = .next t ∧ t.matRun op = some r' ∧ r'.masked = true ∧ r'.owed = [] ∧
        r'.pass = r.pass + 1 ∧ (∀ q ∈ r.residues, t.Reports 1 1 q.1) ∧
        r.Entered r' p o x (fun row col => faultOf (if r.owed.contains (row, col) then c.p else r.first) row col))) ∧
  (∀ (s s1 : State) (op : Nat) (o : Op) (r : MatRun) (p : Program) (c : PassFaults) (f : DieVotes)
    (x : List (List Val) × List (List Val)), s.OnPlate op o r p → s.streams r = true → r.blockRoom = true → r.check = 3 → r.owed = [] →
    (s.acting op).passOperands p.root r = (s1, .ok x) → r.disputed x c ≠ [] →
    ∃ t r', exec (.platePassEnd op c f) s = .next t ∧ t.matRun op = some r' ∧ r'.owed = r.disputed x c ∧ r'.first = c.p ∧
      r'.dup = c.d ∧ r'.pass = r.pass ∧ r'.elems = r.elems ∧ r'.ints = r.ints ∧ t.asksFrank op = true ∧ t.mem = s1.mem) ∧
  (∀ (s s1 : State) (op : Nat) (o : Op) (r : MatRun) (p : Program) (c : PassFaults) (f : DieVotes) (e : MemErr), s.OnPlate op o r p →
    s.streams r = true → r.blockRoom = true → (r.check = 3 → r.owed = []) →
    (s.acting op).passOperands p.root r = (s1, .error e) →
    ∃ t r', exec (.platePassEnd op c f) s = .next t ∧ t.matRun op = some r' ∧ r'.failure = some (e.status, e.word) ∧ t.mem = s1.mem)

/-- R300, R304: the vote pass takes run V's sum where it agrees with run D's, or with run P's by their signatures, names the other
run's column and masks the fault; with no majority the op fails with CHECK_MISMATCH. Each vote is reported. -/
def VotePassesHold : Prop :=
  (∀ (s s1 : State) (op : Nat) (o : Op) (r : MatRun) (p : Program) (v : VotePass) (x : List (List Val) × List (List Val)),
    s.OnPlate op o r p → r.check = 3 → s.streams r = true → r.owed ≠ [] →
    ((s.acting op).releaseUse op .vote).passOperands p.root r = (s1, .ok x) →
    ((∃ k ∈ r.owed, r.verdict x v.tiles k = none) →
      ∃ t r', exec (.fullVotePass op v) s = .next t ∧ t.matRun op = some r' ∧ r'.failure = some (0x30, none) ∧ r'.voted = true ∧
        (∀ d ∈ r.verdicts x v.tiles, t.Reports 1 2 (s1.cellOf (r.positionOf d.1 + d.2.getD 0)))) ∧
    ((∀ k ∈ r.owed, r.verdict x v.tiles k ≠ none) → (r.makesFolds = false ∨ v.folds.lost = none) →
      ∃ t r', exec (.fullVotePass op v) s = .next t ∧ t.matRun op = some r' ∧ r'.masked = true ∧ r'.voted = true ∧ r'.owed = [] ∧
        r'.pass = r.pass + 1 ∧
        (r.culprit ≠ 0xFFFF → r'.culprit = r.culprit) ∧
        (∀ d ds, r.culprit = 0xFFFF → r.verdicts x v.tiles = d :: ds → r'.culprit = s1.cellOf (r.positionOf d.1 + d.2.getD 0)) ∧
        (∀ d ∈ r.verdicts x v.tiles, t.Reports 1 2 (s1.cellOf (r.positionOf d.1 + d.2.getD 0))) ∧
        r.Entered r' p o x (fun row col => faultOf (if r.owed.contains (row, col) then v.tiles else r.first) row col))) ∧
  (∀ (r : MatRun) (x : List (List Val) × List (List Val)) (vs : List TileFault) (k : Nat × Nat),
    (r.tileIn x vs k = r.tileIn x r.dup k → r.verdict x vs k = some 0) ∧
    (r.tileIn x vs k ≠ r.tileIn x r.dup k → r.signature x vs k.2 = r.signature x r.first k.2 → r.verdict x vs k = some 1536) ∧
    (r.tileIn x vs k ≠ r.tileIn x r.dup k → r.signature x vs k.2 ≠ r.signature x r.first k.2 → r.verdict x vs k = none))

/-- R294: of a tile whose residue holds without a fault, a change of its tree integer escapes the check exactly when it is a multiple
of 255; so one bit never does. In 16-bit mode the change counts in window units. -/
def ResiduesCatch : Prop :=
  ∀ (r : MatRun) (as bs : List Val), tileChecked as bs = true → r.residueFails as bs 0 = false →
    (∀ e, r.residueFails as bs e = false ↔ (255 : Int) ∣ e) ∧
    (∀ k : Nat, r.residueFails as bs (2 ^ k) = true ∧ r.residueFails as bs (-(2 ^ k)) = true)

/-- R42, R289, R291 to R296, R299, R300, R304: passes of the plate with their checks, and the vote pass that a difference under FULL asks
for. The signature of R300 is free (log 17). -/
def Obligations.PlatePasses : Prop := PlatePassesHold ∧ VotePassesHold ∧ ResiduesCatch


/-- R114, R118, R119, R295: a block drains under the run's scale, and a row of which no two converters agree fails the op; a run whose
elements saturated brackets with a larger scale and a frank of its own; any other run's writes end it; and a bracket starts the run
again. -/
def Obligations.DrainsAndBrackets : Prop :=
  (∀ (s : State) (op : Nat) (o : Op) (r : MatRun) (p : Program) (v : DieVotes), s.OnPlate op o r p → r.drainDue = true →
    s.holdsFrank op = true → s.asksFrank op = false →
    (v.lost ≠ none → ∃ t r', exec (.blockDrain op v) s = .next t ∧ t.matRun op = some r' ∧ r'.failure = some (0x30, none) ∧
      r'.drained = r.drained ∧ t.mem = s.mem) ∧
    (v.lost = none → (r.d.stores = false ∨ r.overlap ≠ []) →
      ∃ t r', exec (.blockDrain op v) s = .next t ∧ t.matRun op = some r' ∧ r'.drained = r.drained + 1 ∧
        r'.outScale = r.withScale.outScale ∧ r'.results = r.results ∧ r'.failure = none ∧
        (r'.masked = true ↔ r.masked = true ∨ v.c0 + v.c1 ≠ 0) ∧ r'.plateAclk = r.plateAclk + v.c0 + v.c1 ∧ t.mem = s.mem)) ∧
  (∀ (s s1 : State) (op : Nat) (o : Op) (r r2 : MatRun) (p : Program) (v : DieVotes), s.OnPlate op o r p → r.drainDue = true →
    s.holdsFrank op = true → s.asksFrank op = false → v.lost = none → r.d.stores = true → r.overlap = [] →
    r2 = { ((r.indexes (r.area (r.drained * r.d.kt)).m0 (r.area (r.drained * r.d.kt)).h (r.area (r.drained * r.d.kt)).n0
      (r.area (r.drained * r.d.kt)).w).foldl (MatRun.countElem p.seed (o.step.getD 0)) (r.withScale.votes 3 v)) with
        drained := r.drained + 1, rowsFrom := if r.blockRoom then r.rowsFrom else max r.rowsFrom s.clock.aclk } →
    (s.acting op).writeAll p.root (r2.blockPieces p.seed (o.step.getD 0) (r.area (r.drained * r.d.kt))) = (s1, none) →
    ∃ t, exec (.blockDrain op v) s = .next t ∧ t.mem = s1.mem ∧
      (s1.matRun op = some r → t.matRun op = some r2)) ∧
  (∀ (s : State) (op : Nat) (o : Op) (r : MatRun) (p : Program), s.OnPlate op o r p → r.runDone = true → r.overflowed = true →
    r.brackets < 2 →
    ∃ t r', exec (.matmulRunEnd op) s = .next t ∧ t.matRun op = some r' ∧ r'.decided = 1 ∧
      r'.outScale = r.outScale.times ((r.margin : Int) + 1) ∧ t.asksFrank op = true ∧ t.mem = s.mem) ∧
  (∀ (s : State) (op : Nat) (o : Op) (r : MatRun) (p : Program), s.OnPlate op o r p → r.runDone = true →
    (r.overflowed = false ∨ 2 ≤ r.brackets) → r.overlap = [] → (r.d.rowmax || r.d.rowsum) = false →
    ∃ t r', exec (.matmulRunEnd op) s = .next t ∧ t.matRun op = some r' ∧ r'.decided = 2 ∧ r'.outScale = r.outScale ∧
      r'.plateAclk = r.plateAclk + r.endAclk ∧ t.mem = s.mem) ∧
  (∀ (s s1 : State) (op : Nat) (o : Op) (r : MatRun) (p : Program), s.OnPlate op o r p → r.runDone = true →
    (r.overflowed = false ∨ 2 ≤ r.brackets) → r.overlap = [] → (r.d.rowmax || r.d.rowsum) = true →
    (s.acting op).writeAll p.root r.allStats = (s1, none) → s1.matRun op = some r →
    ∃ t r', exec (.matmulRunEnd op) s = .next t ∧ t.matRun op = some r' ∧ r'.decided = 2 ∧ r'.outScale = r.outScale ∧
      r'.plateAclk = r.plateAclk + r.endAclk ∧ t.mem = s1.mem) ∧
  (∀ (s : State) (op : Nat) (r : MatRun), s.isReady = true → s.matRun op = some r → r.op = op → r.decided = 1 → r.failure = none →
    s.holdsFrank op = true → s.asksFrank op = false →
    ∃ t r', exec (.matmulBracket op) s = .next t ∧ t.matRun op = some r' ∧ r'.decided = 0 ∧ r'.brackets = r.brackets + 1 ∧
      r'.drained = 0 ∧ r'.outScale = r.outScale ∧ (r.d.whole = true → r'.pass = r.pass ∧ r'.results = r.results) ∧
      (r.d.whole = false → r'.pass = 0 ∧ r'.results = []) ∧ t.mem = s.mem)

/-- R57 to R59, R77, R293: a MATMUL whose run is decided leaves the window and the plate with its status noted, and in whole form its
result slots hold the results; one that has failed leaves them too, and its program stops. -/
def Obligations.MatmulCompletes : Prop :=
  (∀ (s : State) (op : Nat) (o : Op) (r : MatRun) (p : Program), s.OnPlate op o r p → r.failure = none → r.decided = 2 →
    o.resultAddr = 0 →
    ∃ t, exec (.matmulComplete op) s = .next t ∧ s.Closed t o r.status ∧ t.matRun op = none ∧ t.holdsFrank op = false ∧
      (r.d.whole = true → r.d.foldKeep = false →
        (r.d.slotRange 0).1 + (r.slotBytes 0).length ≤ (r.d.slotRange 1).1 →
        ∀ die, die < 2 → ∀ i, i < (r.slotBytes die).length → noSlot ((r.d.slotRange die).1 + i) = false →
          t.mem.ram.get ((r.d.slotRange die).1 + i) = (r.slotBytes die).getD i 0)) ∧
  (∀ (s : State) (op : Nat) (o : Op) (r : MatRun) (p : Program) (f : Nat × Option Word), s.OnPlate op o r p → r.failure = some f →
    0x20 ≤ f.1 → o.resultAddr = 0 →
    ∃ t, exec (.matmulComplete op) s = .next t ∧ t.op op = none ∧ t.matRun op = none ∧ t.holdsFrank op = false ∧
      t.numerics.book = s.numerics.book ∧ ∀ q, t.program o.ring = some q → q.stopped = true)

/-- R162 to R164: a BRANCH reads its register as it issues, resumes its program at TAKEN or NEXT as its condition holds on that value,
and ends with FIRMWARE_FAULT where no decision comes. -/
def Obligations.Branches : Prop :=
  (∀ (s : State) (op : Nat) (o : Op), s.Free op opBranch o → branchBad o = false →
    ∃ t, exec (.branch op) s = .next t ∧
      t.op op = some (s.issued { o with sum := ((s.engine (o.branchDie - 1)).q.get o.branchReg).toNat }) ∧
      t.engine 0 = s.engine 0 ∧ t.engine 1 = s.engine 1 ∧ t.mem = s.mem) ∧
  (∀ (s : State) (op : Nat) (o : Op) (p : Program), s.isReady = true → s.op op = some o → o.id = op → o.kind = opBranch →
    o.phase = .issued → s.program o.ring = some p → p.ring = o.ring → p.stopped = false → o.resultAddr = 0 →
    ∃ t, exec (.branchDecision op) s = .next t ∧ t.op op = none ∧ t.mem = s.mem ∧
      (o.taken o.sum = true → o.branchTaken ≠ 0 →
        t.program o.ring = some (({ p with next := some o.branchTaken } : Program).note o 0 none)) ∧
      (o.taken o.sum = false → o.next ≠ 0 →
        t.program o.ring = some (({ p with next := some o.next } : Program).note o 0 none))) ∧
  (∀ (s : State) (op : Nat) (o x : Op) (p : Program), s.isReady = true → s.op op = some o → o.id = op → o.kind = opBranch →
    o.phase = .issued → s.program o.ring = some p → p.ring = o.ring → o.resultAddr = 0 → x ∈ s.seq.window → x.ring = o.ring → x.id ≠ op →
    x.phase = .issued →
    ∃ t, exec (.branchTimeout op) s = .next t ∧ t.op op = none ∧ t.program o.ring = some (p.note o 0x70 none) ∧ t.mem = s.mem)

/-- R349, R252: a MOVE within the module copies its rows, adds to its semaphore and ends; a large one through HBM asks for a frank
first; one to or from a tray member sends its frames and stays issued; and one whose descriptor is refused, or whose tray peer is in
dead-letter, copies nothing. -/
def Obligations.Moves : Prop :=
  (∀ (s s1 : State) (op : Nat) (o : Op) (ps : List (Nat × Nat × Nat)), s.Free op opMove o → s.moveBad o = false →
    (s.acting op).moveAsks (s.rootOf o.ring) o = false → o.moveSrcMember = 7 → o.moveDstMember = 7 → o.resultAddr = 0 →
    (o.moveSemAdd = 0 ∨ s.Unwatched) →
    ((s.acting op).issue o).1.copyPieces (s.rootOf o.ring) ((s.acting op).issue o).2 (o.movePieces 0x10000) = (s1, ps, none) →
    s1.quiet op = true → s1.NoneWanted →
    ∃ t, exec (.move op) s = .next t ∧ t.op op = none ∧
      t.mem = (s1.undefOverlap (s.rootOf o.ring) ((s.acting op).issue o).2 ps).mem ∧
      t.sem o.moveSem = s.sem o.moveSem + o.moveSemAdd ∧ ∀ i, i ≠ o.moveSem → t.sem i = s.sem i) ∧
  (∀ (s : State) (op : Nat) (o : Op), s.Free op opMove o → s.moveBad o = false → s.NoneWanted →
    (s.acting op).moveAsks (s.rootOf o.ring) o = true →
    ∃ t, exec (.move op) s = .next t ∧ t.op op = some { o with phase := OpPhase.asking } ∧ t.asksFrank op = true ∧ t.mem = s.mem) ∧
  (∀ (s s1 : State) (op : Nat) (o : Op), s.Free op opMove o → s.moveBad o = false →
    (s.acting op).moveAsks (s.rootOf o.ring) o = false → o.moveSrcMember = 7 → o.moveDstMember ≠ 7 → s.pairDead o.moveDstMember = false →
    (((s.acting op).issue o).1.setOp { ((s.acting op).issue o).2 with begun := true }).pushPieces (s.rootOf o.ring)
      ((s.acting op).issue o).2 ((s.acting op).issue o).2.framePieces = (s1, none) → s1.NoneWanted →
    ∃ t, exec (.move op) s = .next t ∧ t.op op = some { s.issued o with begun := true } ∧ t.mem = s1.mem ∧ t.seq.sems = s.seq.sems) ∧
  (∀ (s : State) (op : Nat) (o : Op), s.Free op opMove o → s.moveBad o = false → s.NoneWanted →
    (s.acting op).moveAsks (s.rootOf o.ring) o = false → o.moveSrcMember ≠ 7 → s.pairDead o.moveSrcMember = false →
    ∃ t, exec (.move op) s = .next t ∧ t.op op = some { s.issued o with begun := true } ∧ t.mem = s.mem ∧ t.seq.sems = s.seq.sems ∧
      (o.framePieces ≠ [] → (∃ r ∈ t.net.reads, r.op = op) ∨ ∃ r ∈ t.net.pulls, r.2.op = op)) ∧
  (∀ (s : State) (op : Nat) (o : Op), s.Free op opMove o → o.resultAddr = 0 → s.quiet op = true → s.NoneWanted →
    (s.moveBad o = true ∨ ((s.acting op).moveAsks (s.rootOf o.ring) o = false ∧ o.moveDstMember ≠ 7 ∧ o.moveSrcMember = 7 ∧
      s.pairDead o.moveDstMember = true)) →
    ∃ t, exec (.move op) s = .next t ∧ t.op op = none ∧ t.mem = s.mem ∧ t.seq.sems = s.seq.sems)

/-- R203 to R205: SIGNAL sets or adds to a semaphore modulo 2^32; a WAIT whose condition holds ends, and where it
consumes leaves the semaphore less its target; any other stays issued until it holds or times out. -/
def Obligations.SignalsAndWaits : Prop :=
  (∀ (s : State) (op : Nat) (o : Op), s.Free op opSignal o → s.signalBad o = false → o.signalMember = 7 → o.resultAddr = 0 →
    s.Unwatched →
    ∃ t, exec (.signal op) s = .next t ∧ s.Closed t o 0 ∧ t.mem = s.mem ∧
      t.sem o.semIndex = (if o.signalSets then BitVec.ofNat 32 (o.w 0x18) else s.sem o.semIndex + BitVec.ofNat 32 (o.w 0x18)) ∧
      ∀ i, i ≠ o.semIndex → t.sem i = s.sem i) ∧
  (∀ (s : State) (op : Nat) (o : Op), s.Free op opSignal o → s.signalBad o = false → o.signalMember ≠ 7 →
    s.pairDead o.signalMember = false →
    ∃ t, exec (.signal op) s = .next t ∧ t.op op = some { s.issued o with begun := true } ∧ t.seq.sems = s.seq.sems ∧
      t.mem = s.mem) ∧
  (∀ (s : State) (op : Nat) (o : Op), s.Free op opSignal o → s.signalBad o = false → o.signalMember ≠ 7 →
    s.pairDead o.signalMember = true → o.resultAddr = 0 →
    ∃ t, exec (.signal op) s = .next t ∧ t.op op = none ∧ t.seq.sems = s.seq.sems ∧ t.mem = s.mem) ∧
  (∀ (s : State) (op : Nat) (o : Op), s.Free op opWait o → waitBad o = false → o.condHolds (s.sem o.semIndex) = true →
    o.resultAddr = 0 → (o.consumes = true → s.Unwatched) →
    ∃ t, exec (.wait op) s = .next t ∧ s.Closed t o 0 ∧ t.mem = s.mem ∧
      t.sem o.semIndex = (if o.consumes then s.sem o.semIndex - o.waitTarget else s.sem o.semIndex) ∧
      ∀ i, i ≠ o.semIndex → t.sem i = s.sem i) ∧
  (∀ (s : State) (op : Nat) (o : Op), s.Free op opWait o → waitBad o = false → o.condHolds (s.sem o.semIndex) = false →
    ∃ t o', exec (.wait op) s = .next t ∧ t.op op = some o' ∧ o'.phase = .issued ∧ o'.desc = o.desc ∧ t.seq.sems = s.seq.sems ∧
      t.mem = s.mem) ∧
  (∀ (s : State) (op : Nat) (o : Op), s.isReady = true → s.op op = some o → o.id = op → o.kind = opWait → o.phase = .issued →
    o.waitLimitUs ≠ 0 → o.condHolds (s.sem o.semIndex) = false → o.resultAddr = 0 →
    ∃ t, exec (.waitTimeout op) s = .next t ∧ t.op op = none ∧ t.seq.sems = s.seq.sems ∧ t.mem = s.mem) ∧
  (∀ (s : State) (op : Nat) (o : Op), s.isReady = true → s.op op = some o → o.condHolds (s.sem o.semIndex) = true →
    exec (.waitTimeout op) s = .next s)

/-- R319 to R321: a STEP begins the boundary that closes the open step; the boundary acts once nothing issued remains. The first STEP_MARK
of a run opens the step it names, and the step before it counts as proved. -/
def Obligations.StepsAndBoundaries : Prop :=
  (∀ (s : State) (op : Nat) (o : Op) (c : StepRec), s.Free op opStep o → o.stepBad = false → s.openStep = some c →
    ∃ t b, exec (.step op) s = .next t ∧ t.op op = some (s.issued o) ∧ t.proof.boundary = some b ∧ b.by_ = .op op ∧
      b.step = c.num + 1 ∧ b.epoch = s.net.epoch ∧ b.replay = false ∧ t.proof.steps = s.proof.steps ∧ t.mem = s.mem) ∧
  (∀ s : State, s.isReady = true → s.proof.boundary = none → exec .stepBoundary s = .next s) ∧
  (∀ (s : State) (b : Boundary), s.isReady = true → s.proof.boundary = some b → s.proof.waiting = false → s.drainedFor b = false →
    exec .stepBoundary s = .next s) ∧
  (∀ (s : State) (b : Boundary) (ring cmd : Nat), s.isReady = true → s.proof.boundary = some b → s.proof.waiting = false →
    s.drainedFor b = true → s.proof.repair = none → b.replay = false → b.by_ = .mark ring cmd → b.table = none → s.proof.keptWritten = false →
    s.proof.steps = [] → s.net.epoch = b.epoch → s.proof.free = [] → s.proof.poolPages = 0 →
    s.plate.scheduled = [] → s.plate.lanesScheduled = [] → s.plate.coresScheduled = [] →
    ∃ t r, exec .stepBoundary s = .next t ∧ t.openStep = some r ∧ r.num = b.step ∧ r.st = .isOpen ∧ t.proof.stepNow = b.step ∧
      t.proof.stepProved = (b.step + 2 ^ 64 - 1) % 2 ^ 64 ∧ t.proof.boundary = none ∧ t.mem = s.mem ∧
      (t.ring ring).cmds = (s.ring ring).cmds.filter (fun c => c.id != cmd))

/-- R268 to R283, R298: a COLL that passes its checks sends its blocks or asks for a frank, and one whose adders disagree on its own input
goes on masked or fails; a complete one writes its output and ends; silence asks a peer for HELLO, and at last ends the COLL and is
reported. -/
def Obligations.Collectives : Prop :=
  (∀ (s : State) (c : CollStart) (o : Op) (p : Program), s.Free c.op opColl o → s.program o.ring = some p → s.entriesFree o = true →
    ((s.acting c.op).collPlan o).bind ((s.acting c.op).collScales p) = none → o.resultAddr = 0 →
    ∃ t, exec (.coll c) s = .next t ∧ t.op c.op = none ∧ t.net.colls = s.net.colls ∧ t.mem = s.mem) ∧
  (∀ (s s0 s1 : State) (c : CollStart) (o : Op) (p : Program) (r : CollRun), s.Free c.op opColl o → s.program o.ring = some p →
    s.entriesFree o = true → ((s.acting c.op).collPlan o).bind ((s.acting c.op).collScales p) = some (s0, r) →
    s0.reachAreas p.root allowOwn r.areas = (s1, none) → 2 ^ 20 ≤ r.bytesOut →
    ∃ t, exec (.coll c) s = .next t ∧ t.op c.op = some { o with phase := OpPhase.asking } ∧ t.asksFrank c.op = true ∧ t.mem = s1.mem) ∧
  (∀ (s s0 s1 s2 : State) (c : CollStart) (o : Op) (p : Program) (r : CollRun) (i : State × Op) (ts : List (List Byte)),
    ((s.Free c.op opColl o ∧ s.entriesFree o = true ∧ r.bytesOut < 2 ^ 20 ∧ i = s1.issue o) ∨
      (s.isReady = true ∧ s.op c.op = some o ∧ o.id = c.op ∧ o.kind = opColl ∧ o.phase = .issued ∧ i = (s1, o))) →
    s.program o.ring = some p → s.collRun c.op = none →
    ((s.acting c.op).collPlan o).bind ((s.acting c.op).collScales p) = some (s0, r) →
    s0.reachAreas p.root allowOwn r.areas = (s1, none) → s1.net.closed = [] → s1.net.early = [] → i.1.badPartner r = none →
    i.1.readTensors p.root r.d.inAddr r.d.inStride (packedBytes r.d.count r.d.inFmt) r.inputs = (s2, .ok ts) →
    ((r.inputs = 0 ∨ r.vote 0 (c.votes.headD .agree) = .agree) →
      ∃ t r', exec (.coll c) s = .next t ∧ t.op c.op = some i.2 ∧ t.collRun c.op = some r' ∧ r'.own = r.wired ts ∧ r'.masked = r.masked ∧
        t.mem = (if r.d.stageBytes = 0 then s2 else s2.undefVirt p.root r.d.stageAddr r.d.stageBytes).mem) ∧
    (∀ die n, r.inputs ≠ 0 → r.vote 0 (c.votes.headD .agree) = .masked die n →
      ∃ t r', exec (.coll c) s = .next t ∧ t.op c.op = some i.2 ∧ t.collRun c.op = some r' ∧ r'.own = r.wired ts ∧ r'.masked = true ∧
        t.Reports 1 6 r.d.group) ∧
    (r.inputs ≠ 0 → r.vote 0 (c.votes.headD .agree) = .mismatch → o.resultAddr = 0 →
      ∃ t, exec (.coll c) s = .next t ∧ t.op c.op = none ∧ t.collRun c.op = none ∧ t.Reports 1 6 r.d.group)) ∧
  (∀ (s s1 : State) (op : Nat) (o : Op) (p : Program) (r : CollRun), s.isReady = true → s.op op = some o → o.id = op →
    s.collRun op = some r → r.op = op → s.program o.ring = some p → s.collDone r = true →
    (s.acting op).collWrite p.root r.outputs = (s1, none) → o.resultAddr = 0 →
    ∃ t, exec (.collComplete op) s = .next t ∧ t.op op = none ∧ t.collRun op = none ∧
      t.mem = (if r.d.stageBytes = 0 then s1 else s1.undefVirt p.root r.d.stageAddr r.d.stageBytes).mem ∧
      t.net.closed.head? = some (r.d.collId, r.g.epoch, r.status, none)) ∧
  (∀ (s : State) (op rank : Nat) (r : CollRun), s.isReady = true → s.collRun op = some r → s.collWaits r rank = true →
    exec (.collSilenceHello (.coll op) rank) s = .next (s.sendHello (r.g.node rank) 4)) ∧
  (∀ (s : State) (n rank : Nat) (r : StepRec) (g : GroupDef), s.isReady = true → s.step_ n = some r → r.group = some g →
    s.verdictWaits r rank = true → exec (.collSilenceHello (.verdict n) rank) s = .next (s.sendHello (g.node rank) 4)) ∧
  (∀ (s : State) (op rank : Nat) (o : Op) (r : CollRun), s.isReady = true → s.op op = some o → o.id = op → s.collRun op = some r →
    r.op = op → s.collWaits r rank = true → o.resultAddr = 0 →
    ∃ t, exec (.collPeerTimeout op rank) s = .next t ∧ t.op op = none ∧ t.collRun op = none ∧ t.Reports 7 1 r.d.group) ∧
  (∀ (s : State) (op rank : Nat) (r : CollRun), s.isReady = true → s.collRun op = some r → s.collWaits r rank = false →
    exec (.collSilenceHello (.coll op) rank) s = .next s ∧ exec (.collPeerTimeout op rank) s = .next s)

/-- R437: an op with a RESULT_ADDR writes its record there with its final status; where that fails, a status below 0x20 becomes
ADDRESS_FAULT, or BAD_DESCRIPTOR where the address is misaligned, and any other status stands; the program stops, and completes once
none of its ops is left. -/
def Obligations.ResultRecords : Prop :=
  (∀ (s s1 : State) (o : Op) (status : Nat) (d : Option Word) (record : Nat → List Byte), o.resultAddr ≠ 0 → o.resultAddr % 32 = 0 →
    s.writeVirt (s.rootOf o.ring) allowOps o.resultAddr (record status) = (s1, .ok ()) →
    ∃ t, s.finishOp o status d record = some t ∧ t.op o.id = none ∧ t.mem = s1.mem) ∧
  (∀ (s : State) (o x : Op) (p : Program) (status : Nat) (d : Option Word) (record : Nat → List Byte), o.resultAddr % 32 ≠ 0 →
    s.program o.ring = some p → x ∈ s.seq.window → x.ring = o.ring → x.id ≠ o.id → x.phase = .issued →
    ∃ t, s.finishOp o status d record = some t ∧ t.op o.id = none ∧ t.mem = s.mem ∧
      t.program o.ring = some (p.note o (if status < 0x20 then 0x20 else status) d)) ∧
  (∀ (s : State) (o : Op) (p : Program) (c : FetchedCmd) (status : Nat) (d : Option Word) (record : Nat → List Byte),
    o.resultAddr % 32 ≠ 0 → status < 0x20 → s.program o.ring = some p → s.seq.window = [o] → (s.ring o.ring).cmd p.cmd = some c →
    ∃ t, s.finishOp o status d record = some t ∧ t.op o.id = none ∧ t.mem = s.mem ∧ t.program o.ring = none ∧
      s.Finished t o.ring c (p.note o 0x20 d).result.1 false (p.note o 0x20 d).result.2) ∧
  (∀ (s s1 : State) (o x : Op) (p : Program) (status a : Nat) (d : Option Word) (record : Nat → List Byte), o.resultAddr ≠ 0 →
    o.resultAddr % 32 = 0 → s.writeVirt (s.rootOf o.ring) allowOps o.resultAddr (record status) = (s1, .error (.addr a)) →
    s1.program o.ring = some p → x ∈ s1.seq.window → x.ring = o.ring → x.id ≠ o.id → x.phase = .issued →
    ∃ t, s.finishOp o status d record = some t ∧ t.op o.id = none ∧ t.mem = s1.mem ∧
      t.program o.ring = some (if status < 0x20 then p.note o 0x21 (some (BitVec.ofNat 64 (virtDetail o.resultAddr)))
        else p.note o status d)) ∧
  (∀ (p : Program) (o : Op) (st : Nat) (d : Option Word), 0x20 ≤ st → (p.note o st d).stopped = true ∧ (p.note o st d).next = none ∧
    (p.failure = none → p.proofFailed = false → (p.note o st d).result.1 = st)) ∧
  (∀ (p : Program) (o : Op) (a : Nat), p.failure = none → p.proofFailed = false →
    (p.note o 0x21 (some (BitVec.ofNat 64 (virtDetail a)))).result = (0x21, virtDetail a))

/-! ### Commands of the rings -/

/-- R198, R201, R225, R227, R228, R436: FENCE completes once it may start; OP_PROGRAM starts a list whose first op OP_TAKE then takes; a
copy to the host writes its source's bytes there as its mode shuffles them, and one from the host asks for them and writes them when they
are all there. -/
def Obligations.RingCommands : Prop :=
  (∀ (s : State) (ring : Fin 64) (c : FetchedCmd), s.Due ring.val cmdFence c → c.headerBad = false → c.restBad 0x18 = false →
    ∃ t, exec (.fence ring) s = .next t ∧ s.Finished t ring.val c 0 false 0 ∧ t.mem = s.mem ∧ t.seq = s.seq) ∧
  (∀ (s : State) (ring : Fin 64) (c : FetchedCmd), s.Due ring.val cmdOpProgram c → c.headerBad = false → c.restBad 0x18 = false →
    devBad (c.w 0x10) = false → bit (c.w 0x10) 63 = true → c.w 0x10 % 128 = 0 → s.stepFailed = false →
    ∃ t, exec (.opProgram ring) s = .next t ∧ t.mem = s.mem ∧ t.seq.window = s.seq.window ∧
      t.seq.programs = s.seq.programs ++ [s.newProgram ring.val c.id (c.w 0x10 % 2 ^ 48)]) ∧
  (∀ (s : State) (ring : Fin 64) (c : FetchedCmd), s.Due ring.val cmdOpProgram c →
    (c.headerBad || devBad (c.w 0x10) || !bit (c.w 0x10) 63 || c.w 0x10 % 128 != 0 || c.restBad 0x18) = true →
    ∃ t, exec (.opProgram ring) s = .next t ∧ s.Finished t ring.val c 0x20 false 0 ∧ t.mem = s.mem ∧ t.seq = s.seq) ∧
  (∀ (s s0 s1 : State) (ring : Fin 64) (p : Program) (a : Nat) (bs : List Byte), s.isReady = true → s.program ring.val = some p →
    p.next = some a → p.stopped = false → s.seq.window.length < 16 → s.drawsFrom ring.val = true →
    ({ s with actor := some (p.cmd, 0) } : State).readVirt p.root allowOps a 128 = (s0, .ok bs) → s0.meetHidden 7 a = (s1, false) →
    s1.NoneWanted → field bs 0 1 ≠ 0 → field bs 0 1 ≤ 8 →
    (field bs 0 1 = opMatmul → ∀ o : Op, o.desc = bs → matTakeCheck o p.check = 0) →
    ∃ t o, exec (.opTake ring) s = .next t ∧ t.seq.window = s1.seq.window ++ [o] ∧ o.desc = bs ∧ o.ring = ring.val ∧
      o.kind = field bs 0 1 ∧ o.addr = a ∧ o.phase = .taken ∧ t.mem = s1.mem ∧
      (s1.program ring.val = some p → t.program ring.val = some { p with next := o.follow })) ∧
  (∀ (s s1 : State) (ring : Fin 64) (c : FetchedCmd) (bs : List Byte), s.Due ring.val cmdDmaCopy c → s.proof.boundary = none →
    dmaBad c = false → (dmaDesc c).toHost = true → (s.markStarted ring.val c.id cmdDmaCopy).dmaRange (dmaDesc c) = .ok () →
    (s.markStarted ring.val c.id cmdDmaCopy).readDev s.mem.ptRoot allowOwn (dmaDesc c).dev (dmaDesc c).len = (s1, .ok bs) →
    ∃ t, exec (.dmaCopy ring) s = .next t ∧ t.Asked (.hostWrite (dmaDesc c).host ((dmaDesc c).shuffled bs) true) ∧ t.mem = s1.mem) ∧
  (∀ (s : State) (ring : Fin 64) (c : FetchedCmd), s.Due ring.val cmdDmaCopy c → s.proof.boundary = none →
    dmaBad c = false → (dmaDesc c).toHost = false → (s.markStarted ring.val c.id cmdDmaCopy).dmaRange (dmaDesc c) = .ok () →
    ∃ t, exec (.dmaCopy ring) s = .next t ∧ t.Asked (.hostRead (dmaDesc c).host (dmaDesc c).len) ∧ t.mem = s.mem ∧
      t.host.dma = s.host.dma ++ [{ ring := ring.val, cmd := c.id, root := s.mem.ptRoot, got := [], step := s.openNum }]) ∧
  (∀ (s s1 : State) (ring : Fin 64) (r : DmaRun) (c : FetchedCmd) (bs : List Byte), s.isReady = true →
    s.host.dma.find? (fun (x : DmaRun) => x.ring == ring.val) = some r → (s.ring r.ring).cmd r.cmd = some c →
    r.got.length ≤ (dmaDesc c).len → (dmaDesc c).len ≤ r.got.length + bs.length →
    s.writePieces r.root (dmaDesc c).dev [(0, (dmaDesc c).shuffled ((r.got ++ bs).take (dmaDesc c).len))] = (s1, .ok ()) →
    ∃ t, exec (.hostReadCompletion ring (.data bs)) s = .next t ∧ t.mem = s1.mem ∧ ∀ x ∈ t.host.dma, x.cmd ≠ r.cmd) ∧
  (∀ (s : State) (ring : Fin 64) (r : DmaRun) (c : FetchedCmd) (bs : List Byte), s.isReady = true →
    s.host.dma.find? (fun (x : DmaRun) => x.ring == ring.val) = some r → (s.ring r.ring).cmd r.cmd = some c →
    r.got.length + bs.length < (dmaDesc c).len →
    exec (.hostReadCompletion ring (.data bs)) s = .next { s with host := { s.host with
      dma := s.host.dma.map (fun x => if x.cmd = r.cmd then { r with got := r.got ++ bs } else x) } })

/-- R109, R199, R267, R311, R320, R335, R339: SCALE_SET writes the entries, GROUP_SETUP a definition, MIRROR_SETUP the partner;
STEP_MARK begins the boundary or the replay that its case asks for, or is refused; PROVE_STATUS answers; a SNAPSHOT waits for its
boundary; COUNTER_READ and FIELD_TEST write their records. -/
def Obligations.ShortCommands : Prop :=
  (∀ (s : State) (ring : Fin 64) (c : FetchedCmd), s.Due ring.val cmdStepMark c → s.proof.boundary = none → c.headerBad = false →
    bits (c.w 0x18) 63 32 = 0 → c.restBad 0x20 = false → s.net.epoch ≤ bits (c.w 0x18) 31 0 → s.net.colls = [] →
    (s.proof.steps = [] → ∃ t, exec (.stepMark ring) s = .next t ∧ t.mem = s.mem ∧ t.proof = { s.proof with
      boundary := some (boundaryNow (.mark ring.val c.id) (c.w 0x10) (bits (c.w 0x18) 31 0) false s.clock.time) }) ∧
    (s.proof.steps ≠ [] → c.w 0x10 = s.proof.stepNow + 1 → s.stepFailed = false →
      ∃ t, exec (.stepMark ring) s = .next t ∧ t.mem = s.mem ∧ t.proof = { s.proof with
        boundary := some (boundaryNow (.mark ring.val c.id) (c.w 0x10) (bits (c.w 0x18) 31 0) false s.clock.time) }) ∧
    (s.proof.steps ≠ [] → c.w 0x10 = s.proof.stepNow + 1 → s.stepFailed = true →
      ∃ t, exec (.stepMark ring) s = .next t ∧ s.Finished t ring.val c 0x61 false 0 ∧ t.mem = s.mem ∧ t.proof = s.proof) ∧
    (s.proof.steps ≠ [] → c.w 0x10 = (s.proof.stepProved + 1) % 2 ^ 64 → c.w 0x10 ≤ s.proof.stepNow →
      ∃ t, exec (.stepMark ring) s = .next t ∧ t.mem = s.mem ∧ t.proof = { s.proof with
        boundary := some (boundaryNow (.mark ring.val c.id) (c.w 0x10) (bits (c.w 0x18) 31 0) true s.clock.time) })) ∧
  (∀ (s : State) (ring : Fin 64) (c : FetchedCmd) (k : Nat), s.Due ring.val cmdProveStatus c → c.headerBad = false →
    c.restBad 0x18 = false → s.stepCode (c.w 0x10) = some k →
    ∃ t, exec (.proveStatus ring) s = .next t ∧ s.Finished t ring.val c 0 false (k + s.proof.stepProved % 2 ^ 56 * 2 ^ 8) ∧
      t.mem = s.mem ∧ t.proof = s.proof) ∧
  (∀ (s : State) (ring : Fin 64) (c : FetchedCmd), s.Due ring.val cmdSnapshot c → c.headerBad = false →
    devBad (c.w 0x10) = false → bits (c.w 0x20) 63 1 = 0 → c.restBad 0x28 = false → imageBytes (bits (c.w 0x20) 0 0) ≤ c.w 0x18 →
    ∃ t, exec (.snapshot ring) s = .next t ∧ t.mem = s.mem ∧
      t.proof = { s.proof with snapshots := s.proof.snapshots ++ [(ring.val, c.id, s.mem.ptRoot)] }) ∧
  (∀ (s s1 : State) (ring : Fin 64) (c : FetchedCmd) (bs : List Byte) (first n : Nat), s.Due ring.val cmdScaleSet c →
    c.headerBad = false → devBad (c.w 0x10) = false → c.w 0x10 % 64 = 0 → bits (c.w 0x18) 15 14 = 0 → bits (c.w 0x18) 63 31 = 0 →
    c.restBad 0x20 = false → first = bits (c.w 0x18) 13 0 → n = bits (c.w 0x18) 30 16 → 0 < n → first + n ≤ 16384 →
    (s.markStarted ring.val c.id cmdScaleSet).readDev s.mem.ptRoot allowOps (c.w 0x10) (192 * n) = (s1, .ok bs) →
    imagesValid first (records 192 n bs) = true → s.namesEntry first n = false → s1.NoneWanted →
    ∃ t, exec (.scaleSet ring) s = .next t ∧ t.mem = s1.mem ∧
      (∀ i, i < n → t.entry (first + i) = parseEntry ((bs.drop (192 * i)).take 192)) ∧
      (∀ i, (i < first ∨ first + n ≤ i) → t.entry i = s1.entry i)) ∧
  (∀ (s s1 : State) (ring : Fin 64) (c : FetchedCmd), s.Due ring.val cmdCounterRead c → c.headerBad = false →
    devBad (c.w 0x10) = false → c.w 0x10 % 64 = 0 → bits (c.w 0x18) 15 4 = 0 → bits (c.w 0x18) 31 30 = 0 →
    bits (c.w 0x18) 63 47 = 0 → c.restBad 0x20 = false → bits (c.w 0x18) 3 0 ≤ 2 →
    (bits (c.w 0x18) 3 0 = 0 → 0 < bits (c.w 0x18) 46 32 ∧ bits (c.w 0x18) 29 16 + bits (c.w 0x18) 46 32 ≤ 16384) →
    (bits (c.w 0x18) 3 0 ≠ 0 → bits (c.w 0x18) 29 16 = 0 ∧ bits (c.w 0x18) 46 32 = 0) →
    (s.markStarted ring.val c.id cmdCounterRead).writeDev s.mem.ptRoot allowOps (c.w 0x10)
      ((s.markStarted ring.val c.id cmdCounterRead).counterImage (bits (c.w 0x18) 3 0) (bits (c.w 0x18) 29 16)
        (bits (c.w 0x18) 46 32)) = (s1, .ok ()) →
    ∃ t, exec (.counterRead ring) s = .next t ∧ t.mem = s1.mem ∧ t.numerics = s1.numerics) ∧
  (∀ (s : State) (first n : Nat), s.counterImage 0 first n = (List.range n).flatMap (fun i => (s.entry (first + i)).image)) ∧
  (∀ (s s1 : State) (ring : Fin 64) (c : FetchedCmd) (bs : List Byte) (g epoch n : Nat), s.Due ring.val cmdGroupSetup c →
    c.headerBad = false → devBad (c.w 0x10) = false → bits (c.w 0x20) 63 18 = 0 → c.restBad 0x28 = false →
    g = bits (c.w 0x18) 31 0 → epoch = bits (c.w 0x18) 63 32 → n = bits (c.w 0x20) 17 0 → 0 < n → n ≤ 131072 → g ≤ 31 →
    s.net.nodeValid = true →
    (s.markStarted ring.val c.id cmdGroupSetup).readDev s.mem.ptRoot allowOps (c.w 0x10) (4 * n) = (s1, .ok bs) →
    (∀ e ∈ (records 4 n bs).map leNat, e < 2 ^ 17) → repeats ((records 4 n bs).map leNat) = false →
    s1.NoneWanted → s1.net.nodeId.toNat ∈ (records 4 n bs).map leNat → s1.directorySize g (epoch == s1.net.epoch) + n ≤ 1048576 →
    (epoch = s1.net.epoch → s1.net.colls.any (fun r => r.d.group == g) = false →
      ∃ t, exec (.groupSetup ring) s = .next t ∧ t.groupActive g = some { epoch := epoch, members := (records 4 n bs).map leNat } ∧
        t.net.pendingGroups = s1.net.pendingGroups ∧ t.mem = s1.mem) ∧
    (s1.net.epoch < epoch →
      ∃ t, exec (.groupSetup ring) s = .next t ∧ t.net.active = s1.net.active ∧ t.mem = s1.mem ∧
        t.net.pendingGroups.get none g = some { epoch := epoch, members := (records 4 n bs).map leNat })) ∧
  (∀ (s : State) (ring : Fin 64) (c : FetchedCmd), s.Due ring.val cmdMirrorSetup c → c.headerBad = false → bits (c.w 0x10) 31 17 = 0 →
    bits (c.w 0x10) 63 33 = 0 → c.w 0x18 = 0 → c.restBad 0x20 = false →
    ∃ t, exec (.mirrorSetup ring) s = .next t ∧ s.Finished t ring.val c 0 false 0 ∧ t.mem = s.mem ∧ t.proof.store = s.proof.store ∧
      t.proof.partner = (if bit (c.w 0x10) 32 then some (bits (c.w 0x10) 16 0) else none)) ∧
  (∀ (s s1 : State) (ring : Fin 64) (c : FetchedCmd) (run : FieldTestRun), s.Due ring.val cmdFieldTest c → c.headerBad = false →
    bits (c.w 0x10) 63 16 = 0 → bits (c.w 0x10) 15 0 ≠ 0 → bits (c.w 0x10) 15 8 = 0 → devBad (c.w 0x18) = false → c.restBad 0x20 = false →
    s.life.failedLinks = [] →
    (run.inTime = false → ∃ t, exec (.fieldTest ring run) s = .next t ∧ s.Finished t ring.val c 0x70 false 0 ∧ t.mem = s.mem ∧
      ∀ f ∈ run.failed, bit (bits (c.w 0x10) 15 0) f.test.val = true → t.Reports 1 0x11 f.test.val) ∧
    (run.inTime = true →
      ((s.markStarted ring.val c.id cmdFieldTest).testEvents (run.failed.filter (fun f => bit (bits (c.w 0x10) 15 0) f.test.val))).writeDev
        s.mem.ptRoot allowOps (c.w 0x18) (testRecord (bits (c.w 0x10) 15 0)
          (run.failed.filter (fun f => bit (bits (c.w 0x10) 15 0) f.test.val)) run.ns.toNat) = (s1, .ok ()) →
      ∃ t, exec (.fieldTest ring run) s = .next t ∧ t.mem = s1.mem))

/-- R259, R260, R340 to R345, R391 to R393: a CHECKPOINT of the newest proved step places its writes in the slot and sends the packets of
the first, with the fields of the target's entry; EVACUATE forgets the steps and sets the kept table aside; HANDOVER leaves memory, the
scale book, the engines and the sequencer as at reset, and ends with the status its course gives. -/
def Obligations.LongCommands : Prop :=
  (∀ (s s1 s2 s3 : State) (ring : Fin 64) (c : FetchedCmd) (k : KeptTable) (g : Target) (t j m port : Nat)
      (regions : List (KeptRegion × Nat × List Byte)) (image : List Byte) (w : Nat × List Byte) (ws : List (Nat × List Byte)),
    s.Due ring.val cmdCheckpoint c → s.proof.ckpt = none → c.headerBad = false → bits (c.w 0x18) 7 1 = 0 → bits (c.w 0x18) 63 16 = 0 →
    c.restBad 0x20 = false → s.stepCode (c.w 0x10) ≠ some 3 → c.w 0x10 = s.proof.stepProved → m = bits (c.w 0x18) 0 0 →
    (m = 1 → s.proof.fullImages.any (fun f => f.1 == c.w 0x10) = true) →
    s.proof.kept = some k → t = bits (c.w 0x18) 15 8 →
    (s.markStarted ring.val c.id cmdCheckpoint).readTarget t = (s1, some g) → s1.readyQp t g = some j → g.ports[j]? = some port →
    s2 = s1.meetCut (k.regions.filter (·.checkpoint)) →
    s2.cutRegions (c.w 0x10) (k.regions.filter (·.checkpoint)) = .ok regions → s2.ckptImage (c.w 0x10) m = (s3, .ok image) →
    s3.ckptWrites (c.w 0x10) m s.proof.nextSlot k.sheet regions image = w :: ws →
    (∀ x ∈ w :: ws, x.1 + x.2.length ≤ g.limit / 131072 * 65536) →
    ∃ (u : State) (r : CkptRun) (pkts : List RocePacket), exec (.checkpoint ring) s = .next u ∧ u.proof.ckpt = some r ∧ r.target = t ∧ r.qp = j ∧ r.step = c.w 0x10 ∧
      r.slot = s.proof.nextSlot ∧
      r.writes = (w :: ws).map (fun x => (g.base + s.proof.nextSlot * (g.limit / 131072 * 65536) + x.1, x.2)) ∧
      u.outbox = s3.outbox ++ pkts.map Output.roce ∧ (s3.carriesIp port = true → pkts.length = packetCount w.2.length) ∧
      (∀ i q, pkts[i]? = some q → q.port = port ∧ q.destIp = g.addr ∧ q.rkey = g.rkey ∧ q.destQp = BitVec.ofNat 24 (g.qpn + j) ∧
        q.psn = BitVec.ofNat 24 ((s3.qp (qpKey t j)).psn + i) ∧ q.bytes = (w.2.drop (4096 * i)).take 4096 ∧
        q.addr = BitVec.ofNat 64 (g.base + s.proof.nextSlot * (g.limit / 131072 * 65536) + w.1 + 4096 * i)) ∧ u.mem = s3.mem) ∧
  (∀ (s : State) (ring : Fin 64) (c : FetchedCmd), s.Due ring.val cmdCheckpoint c → s.proof.ckpt = none → c.headerBad = false →
    bits (c.w 0x18) 7 1 = 0 → bits (c.w 0x18) 63 16 = 0 → c.restBad 0x20 = false →
    (s.stepCode (c.w 0x10) = some 3 →
      ∃ t, exec (.checkpoint ring) s = .next t ∧ s.Finished t ring.val c 0x61 false 0 ∧ t.mem = s.mem ∧ t.proof = s.proof) ∧
    (s.stepCode (c.w 0x10) ≠ some 3 → c.w 0x10 ≠ s.proof.stepProved →
      ∃ t, exec (.checkpoint ring) s = .next t ∧ s.Finished t ring.val c 0x20 false 0 ∧ t.mem = s.mem ∧ t.proof = s.proof)) ∧
  (∀ (s : State) (ring : Fin 64) (c : FetchedCmd), s.isReady = true →
    (s.ring ring.val).cmds.find? (fun x => x.typ == cmdEvacuate && !x.started) = some c →
    s.commands.any (fun d => d.typ == cmdEvacuate && d.started) = false → c.headerBad = false → c.restBad 0x10 = false →
    ∃ t, exec (.evacuate ring) s = .next t ∧ t.proof.steps = [] ∧ t.proof.log = [] ∧ t.proof.kept = none ∧ t.proof.partner = none ∧
      t.proof.boundary = none ∧ t.numerics.chains = [] ∧ t.net.early = []) ∧
  (∀ (s : State) (ring : Fin 64) (c : FetchedCmd) (run : HandoverRun), s.Due ring.val cmdHandover c → c.headerBad = false →
    c.restBad 0x10 = false → s.life.failedLinks = [] → run.keysZero = true →
    ∃ t, exec (.handover ring run) s = .next t ∧ t.mem.ram = Store.empty 8 ∧ t.mem.poison = [] ∧ t.mem.ptRoot = 0 ∧ t.mem.tlb = [] ∧
      t.numerics = Numerics.reset ∧ t.vec.e0 = Engine.reset ∧ t.vec.e1 = Engine.reset ∧ t.seq = Seq.reset ∧ t.net.active = [] ∧
      t.net.nodeId = 0 ∧ t.net.nodeValid = false ∧ (run.serverTripped = false → t.life.safelight = true)) ∧
  (∀ (s : State) (ring : Fin 64) (c : FetchedCmd) (run : HandoverRun), s.Due ring.val cmdHandover c → c.headerBad = false →
    c.restBad 0x10 = false →
    ∃ t, exec (.handover ring run) s = .next t ∧ t.net.nodeValid = false ∧
      s.Finished t ring.val c (if s.beyond ≠ [] then 0x60 else if run.serverTripped then 0x70 else 0) false 0)

/-! ### What arrives from the fabric -/

/-- R245 to R249: a frame that is not as a channel needs it is dropped and counted; the next of its channel is applied; an ACK releases
the frames it covers; a channel replays what it keeps, oldest first; and an op whose peer refuses it or stays away ends. A NAK whose
status is neither ADDRESS_FAULT nor MEMORY_UNCORRECTABLE is taken as one without a fault: the model's choice (log 70). -/
def Obligations.TrayFrames : Prop :=
  (∀ (s : State) (p : Fin 24) (h payload : List Byte), s.isReady = true →
    (6 ≤ p.val ∨ (s.port p.val).role ≠ 1 ∨ (s.port p.val).state ≠ portUp) →
    exec (.yehosenWrite p h payload) s = .next (s.dropFrame p.val) ∧ exec (.yehosenReadReq p h payload) s = .next (s.dropFrame p.val) ∧
    exec (.yehosenReadResp p h payload) s = .next (s.dropFrame p.val) ∧ exec (.yehosenSemAdd p h payload) s = .next (s.dropFrame p.val) ∧
    exec (.yehosenAck p h payload) s = .next (s.dropFrame p.val) ∧ exec (.yehosenNak p h payload) s = .next (s.dropFrame p.val)) ∧
  (∀ (s x y : State) (p : Fin 24) (h payload : List Byte) (m l : Nat), s.Turn p 1 h payload m x y →
    y.peerRange (hdrAddr h) (hdrLen h) = .ok l → y.refusesWrite l (hdrLen h) = false →
    ∃ t, exec (.yehosenWrite p h payload) s = .next t ∧ y.Stored t l payload ∧ (t.channel m).applied = hdrSeq h ∧ t.seq = y.seq) ∧
  (∀ (s x y : State) (p : Fin 24) (h payload : List Byte) (m a : Nat), s.Turn p 1 h payload m x y →
    y.peerRange (hdrAddr h) (hdrLen h) = .error a →
    ∃ t, exec (.yehosenWrite p h payload) s = .next t ∧ t.mem = y.mem ∧ (t.channel m).applied = hdrSeq h ∧ t.seq = y.seq ∧
      (y.upPair m ≠ [] → .frame ((y.upPair m).getD 0 0) (y.peerMac ((y.upPair m).getD 0 0))
        (etherPad (y.yeBytes m 5 0 (hdrSeq h) a 0 (leBytes 1 0x21 ++ leBytes 3 (hdrSeq h)))) ∈ t.outbox)) ∧
  (∀ (s x y s1 : State) (p : Fin 24) (h payload : List Byte) (m l : Nat) (bs : List Byte), s.Turn p 2 h payload m x y →
    y.peerRange (hdrAddr h) (hdrLen h) = .ok l → y.readAt .hbm l (hdrLen h) = (s1, .ok bs) → s1.net.channels = y.net.channels →
    ∃ t, exec (.yehosenReadReq p h payload) s = .next t ∧ t.mem = s1.mem ∧ (t.channel m).applied = hdrSeq h ∧
      (t.channel m).unacked = (y.channel m).unacked ++
        [{ seq := (y.channel m).nextSeq, typ := 3, addr := 0, len := hdrLen h, tag := hdrTag h, payload := bs, op := none }]) ∧
  (∀ (s x y s1 : State) (p : Fin 24) (h payload : List Byte) (m : Nat) (r : YeRead) (o : Op), s.Turn p 3 h payload m x y →
    y.net.reads.find? (fun (z : YeRead) => z.member == m && z.tag == hdrTag h) = some r → y.net.pulls = [] → y.op r.op = some o →
    (y.net.reads.erase r).any (fun (z : YeRead) => z.op == r.op) = true →
    State.writeSide (State.acting { y with net := { y.net with reads := y.net.reads.erase r } } r.op)
      (y.rootOf o.ring) r.virt r.dst (payload.take r.len) = (s1, .ok ()) →
    s1.net = { y.net with reads := y.net.reads.erase r } → s1.seq = y.seq →
    ∃ t, exec (.yehosenReadResp p h payload) s = .next t ∧ t.mem = s1.mem ∧ t.net.reads = y.net.reads.erase r ∧
      (t.channel m).applied = hdrSeq h ∧ t.op r.op = some { o with sum := o.sum + r.len }) ∧
  (∀ (s x y : State) (p : Fin 24) (h payload : List Byte) (m : Nat), s.Turn p 6 h payload m x y → y.Unwatched →
    ∃ t, exec (.yehosenSemAdd p h payload) s = .next t ∧ t.mem = y.mem ∧ (t.channel m).applied = hdrSeq h ∧
      t.sem (hdrAddr h) = y.sem (hdrAddr h) + BitVec.ofNat 32 (leNat payload) ∧ ∀ i, i ≠ hdrAddr h → t.sem i = y.sem i) ∧
  (∀ (s : State) (p : Fin 24) (h payload : List Byte) (m : Nat), s.Controlled p 4 h payload m → s.NoneSettles m →
    ∃ t, exec (.yehosenAck p h payload) s = .next t ∧ t.mem = s.mem ∧ t.seq = s.seq ∧
      (t.channel m).unacked = (s.channel m).leftBy (hdrAck h)) ∧
  (∀ (s : State) (p : Fin 24) (h payload : List Byte) (m id : Nat) (f : YeFrame) (o : Op), s.Controlled p 5 h payload m → payload ≠ [] →
    nakStatus (field payload 0 1) = true → (s.channel m).unacked = [f] → f.seq = field payload 1 3 → f.seq < 2 ^ 24 → f.op = some id →
    s.seq.window = [o] → o.id = id → o.kind = opMove → o.resultAddr = 0 → (∀ c ∈ s.commands, c.due = none) →
    ∃ t, exec (.yehosenNak p h payload) s = .next t ∧ t.op id = none ∧ t.mem = s.mem) ∧
  (∀ (s : State) (p : Fin 24) (h payload : List Byte) (m : Nat), s.Controlled p 5 h payload m →
    (payload = [] ∨ nakStatus (field payload 0 1) = false) → s.NoneSettles m →
    ∃ t, exec (.yehosenNak p h payload) s = .next t ∧ t.mem = s.mem ∧ t.seq = s.seq ∧
      (t.channel m).unacked = (s.channel m).leftBy (hdrAck h)) ∧
  (∀ (s : State) (m : Fin 4), s.isReady = true → s.upPair m.val ≠ [] →
    exec (.yehosenReplayTimeout m) s = .next { s with outbox := s.outbox ++ ((s.channel m.val).unacked.take 512).map (fun f =>
      .frame ((s.upPair m.val).getD (f.seq % (s.upPair m.val).length) 0)
        (s.peerMac ((s.upPair m.val).getD (f.seq % (s.upPair m.val).length) 0))
        (etherPad (s.yeBytes m.val f.typ f.seq (s.channel m.val).applied f.addr (yeLenTag f.typ f.len f.tag) f.payload))) }) ∧
  (∀ (s : State) (m : Fin 4), s.isReady = true → s.upPair m.val = [] → exec (.yehosenReplayTimeout m) s = .next s) ∧
  (∀ (s : State) (m : Fin 4) (o : Op), s.isReady = true → s.upPair m.val = [] → s.pairDead m.val = false → s.seq.window = [o] →
    s.commands = [] → s.needsPeer m.val o.id = true → o.resultAddr = 0 →
    ∃ t, exec (.trayPeerTimeout m) s = .next t ∧ t.op o.id = none ∧ t.mem = s.mem ∧
      ((s.channel m.val).lost = false → t.Reports 6 5 m.val)) ∧
  (∀ (s : State) (m : Fin 4), s.isReady = true → (s.upPair m.val ≠ [] ∨ s.pairDead m.val = true) →
    exec (.trayPeerTimeout m) s = .next s)

/-- What arrives where no NPT traffic is carried changes nothing; a tagged or oversized frame only counts its codewords; and a packet that
is not whole, has a reserved TYPE or is for another node is dropped and counted on its port (R232, R234, R235, R254). -/
def Unheard : Prop :=
  (∀ (s : State) (k : Packet) (bs : List Byte) (ce : Nat) (v : UnitVote) (ws : List (BitVec 16)), s.isReady = true →
    ((s.port k.arrival.port.val).role ≠ 0 ∨ (s.port k.arrival.port.val).state ≠ portUp) →
    exec (.nptData k.arrival k.header bs ce v) s = .next s ∧ exec (.nptAck k) s = .next s ∧ exec (.nptNack k ws) s = .next s ∧
    exec (.hello k bs) s = .next s ∧ exec (.helloAck k bs) s = .next s ∧ exec (.verdict k bs) s = .next s) ∧
  (∀ (s : State) (k : Packet) (bs : List Byte) (ce : Nat) (v : UnitVote) (ws : List (BitVec 16)), s.isReady = true →
    (s.port k.arrival.port.val).role = 0 → (s.port k.arrival.port.val).state = portUp →
    ((k.arrival.tagged = true ∨ 9216 < k.arrival.size) →
      exec (.nptData k.arrival k.header bs ce v) s = .next (s.received k.arrival) ∧ exec (.nptAck k) s = .next (s.received k.arrival) ∧
      exec (.nptNack k ws) s = .next (s.received k.arrival) ∧ exec (.hello k bs) s = .next (s.received k.arrival) ∧
      exec (.helloAck k bs) s = .next (s.received k.arrival) ∧ exec (.verdict k bs) s = .next (s.received k.arrival)) ∧
    (k.arrival.tagged = false → k.arrival.size ≤ 9216 →
      (k.arrival.intact = false ∨ k.arrival.reserved = true ∨ s.forUs k.header = false) →
      ∀ t, t = (s.received k.arrival).dropFrame k.arrival.port.val →
        exec (.nptData k.arrival k.header bs ce v) s = .next t ∧ exec (.nptAck k) s = .next t ∧ exec (.nptNack k ws) s = .next t ∧
        exec (.hello k bs) s = .next t ∧ exec (.helloAck k bs) s = .next t ∧ exec (.verdict k bs) s = .next t)) ∧
  (∀ (s : State) (k : Packet) (bs : List Byte) (ce : Nat) (v : UnitVote) (ws : List (BitVec 16)), s.Hears k.arrival k.header →
    collReservedBits k.header = true → s.net.out = [] →
    ∀ t, t = (s.received k.arrival).dropFrame k.arrival.port.val →
      exec (.nptData k.arrival k.header bs ce v) s = .next t ∧ exec (.nptAck k) s = .next t ∧ exec (.nptNack k ws) s = .next t)

/-- A chunk for a COLL that does not run is kept and acknowledged while the early buffer has room, told to come again where it has none, and
refused where its epoch is past (R278, R279). -/
def EarlyChunks : Prop :=
  (∀ (s : State) (a : Arrival) (h : NptHeader) (bs : List Byte) (ce : Nat) (v : UnitVote), s.HearsChunk a h →
    s.collWith h.collId = none → s.closedStatus h = none → s.net.epoch ≤ h.epoch.toNat →
    s.net.early.any (fun c => c.node == chunkSender h && sameChunk c.h h) = false → s.earlyRoom bs.length = true →
    ∃ t, exec (.nptData a h bs ce v) s = .next t ∧ t.mem = s.mem ∧
      t.net.early = s.net.early ++ [{ node := chunkSender h, h := h, bytes := bs }] ∧
      (s.usable (chunkSender h) ≠ [] → ∃ k, (s.received a).SentNpt t (chunkSender h) 2 k [] [] ∧ AnswersTo k h ∧
        k.ceCount = BitVec.ofNat 16 ce)) ∧
  (∀ (s : State) (a : Arrival) (h : NptHeader) (bs : List Byte) (ce : Nat) (v : UnitVote), s.HearsChunk a h →
    s.collWith h.collId = none → s.closedStatus h = none → s.net.epoch ≤ h.epoch.toNat →
    s.net.early.any (fun c => c.node == chunkSender h && sameChunk c.h h) = false → s.earlyRoom bs.length = false →
    ∃ t, exec (.nptData a h bs ce v) s = .next t ∧ t.net.early = s.net.early ∧ t.mem = s.mem ∧
      (s.usable (chunkSender h) ≠ [] → ∃ k, (s.received a).SentNpt t (chunkSender h) 3 k [0xFF, 0xFF, 0, 0] [] ∧ AnswersTo k h)) ∧
  (∀ (s : State) (a : Arrival) (h : NptHeader) (bs : List Byte) (ce : Nat) (v : UnitVote), s.HearsChunk a h →
    s.collWith h.collId = none → s.closedStatus h = none → h.epoch.toNat < s.net.epoch →
    ∃ t g, exec (.nptData a h bs ce v) s = .next t ∧ t.net.early = s.net.early ∧ t.mem = s.mem ∧ t.Reports 7 2 g ∧
      (s.usable (chunkSender h) ≠ [] → ∃ k more, (s.received a).SentNpt t (chunkSender h) 3 k [0xFF, 0xFF, 0x60, 0] more ∧ AnswersTo k h)) ∧
  (∀ (s : State) (a : Arrival) (h : NptHeader) (bs : List Byte) (ce st : Nat) (v : UnitVote), s.HearsChunk a h →
    s.collWith h.collId = none → s.closedStatus h = some st → st < 0x20 →
    exec (.nptData a h bs ce v) s = .next ((s.received a).nptAnswer 2 h ce []))

/-- A chunk of a running COLL is merged once, whoever sends it again; one that its descriptor does not expect, or of another epoch, is
refused and ends the COLL; and what its adders find is told and counted, or ends it (R278, R279, R298). -/
def ChunksMerge : Prop :=
  (∀ (s : State) (a : Arrival) (h : NptHeader) (bs : List Byte) (ce : Nat) (v : UnitVote) (r : CollRun) (o : Op) (q : Program),
    s.ForColl a h r o q → h.epoch.toNat = r.g.epoch → r.expects h bs = true → r.holds h = true →
    exec (.nptData a h bs ce v) s = .next ((s.received a).nptAnswer 2 h ce [])) ∧
  (∀ (s y : State) (a : Arrival) (h : NptHeader) (bs : List Byte) (ce : Nat) (v : UnitVote) (r : CollRun) (o : Op) (q : Program),
    s.ForColl a h r o q → h.epoch.toNat = r.g.epoch → r.expects h bs = true → r.holds h = false →
    (((s.received a).acting r.op).nptAnswer 2 h ce []).meetHidden 9 h.chunkIndex.toNat = (y, false) →
    (r.vote (chunkPhase h) v ≠ .mismatch →
      ∃ t r', exec (.nptData a h bs ce v) s = .next t ∧ t.collRun r.op = some r' ∧ t.mem = y.mem ∧
        r'.rx = r.rx ++ [{ phase := chunkPhase h, rank := chunkRank h, index := chunkPlace h, scale := chunkScale h, bytes := bs }] ∧
        (r.vote (chunkPhase h) v = .agree → r'.masked = r.masked) ∧
        (r.vote (chunkPhase h) v ≠ .agree → r'.masked = true ∧ t.Reports 1 6 r.d.group)) ∧
    (r.vote (chunkPhase h) v = .mismatch → o.resultAddr = 0 →
      ∃ t, exec (.nptData a h bs ce v) s = .next t ∧ t.op r.op = none ∧ t.collRun r.op = none ∧ t.Reports 1 6 r.d.group)) ∧
  (∀ (s : State) (a : Arrival) (h : NptHeader) (bs : List Byte) (ce : Nat) (v : UnitVote) (r : CollRun) (o : Op) (q : Program),
    s.ForColl a h r o q → (h.epoch.toNat ≠ r.g.epoch ∨ r.expects h bs = false) → o.resultAddr = 0 →
    ∃ t, exec (.nptData a h bs ce v) s = .next t ∧ t.op r.op = none ∧ t.collRun r.op = none ∧ t.Reports 7 2 r.d.group ∧
      (s.usable (chunkSender h) ≠ [] → ∃ k more, AnswersTo k h ∧ (s.received a).SentNpt t (chunkSender h) 3 k
        [0xFF, 0xFF, if h.epoch.toNat ≠ r.g.epoch then 0x41 else 0x20, 0] more))

/-- An ACK releases what it names and cuts the rate by its marks, at most once in 20 µs; a NACK has the named packets sent again, or tells
to come again later, or says with what status a COLL ended; and the timers send again what stays without answer (R256, R257, R278, R283).
The dealing of packets over ports is the model's (log 76); a status that R213 gives no COLL is discarded (log 70). -/
def ChunksAnswered : Prop :=
  (∀ (s : State) (k : Packet) (c : OutChunk), s.Hears k.arrival k.header → s.named k.header = some c →
    (collReservedBits k.header = false ∨ c.kind = 6) →
    ∃ t, exec (.nptAck k) s = .next t ∧ t.mem = s.mem ∧ t.net.out = s.net.out.filter (fun y => y.id != c.id) ∧
      (k.header.ceCount = 0 → t.session c.node = s.session c.node) ∧
      (∀ at_, (s.session c.node).lastCut = some at_ → s.clock.time < at_ + 20000 → t.session c.node = s.session c.node) ∧
      (k.header.ceCount ≠ 0 → ((s.session c.node).lastCut = none ∨ ∃ at_, (s.session c.node).lastCut = some at_ ∧
          at_ + 20000 ≤ s.clock.time) →
        (t.session c.node).rate = (s.session c.node).rate *
          (2 * packetCount c.bytes.length - k.header.ceCount.toNat) / (2 * packetCount c.bytes.length))) ∧
  (∀ (s : State) (k : Packet) (ws : List (BitVec 16)) (c : OutChunk), s.Hears k.arrival k.header → (∀ code, ws ≠ [0xFFFF, code]) →
    s.named k.header = some c → (collReservedBits k.header = false ∨ c.kind = 6) → s.usable c.node ≠ [] →
    ∃ t, exec (.nptNack k ws) s = .next t ∧ t.mem = s.mem ∧ t.outbox = s.outbox ++
      (s.received k.arrival).packetsOf c ((ws.map (·.toNat)).filter (fun i => i < packetCount c.bytes.length))) ∧
  (∀ (s : State) (k : Packet) (c : OutChunk), s.Hears k.arrival k.header → s.named k.header = some c →
    (collReservedBits k.header = false ∨ c.kind = 6) →
    exec (.nptNack k [0xFFFF, 0]) s = .next { s.received k.arrival with net := { (s.received k.arrival).net with
      out := s.net.out.map (fun x => if x.id = c.id then { x with busy := true } else x) } }) ∧
  (∀ (s : State) (k : Packet) (code : BitVec 16), s.HearsChunk k.arrival k.header → endingStatus code.toNat = true → s.net.colls = [] →
    s.closedStatus k.header = none →
    exec (.nptNack k [0xFFFF, code]) s = .next { s.received k.arrival with net := { (s.received k.arrival).net with
      closed := ((k.header.collId, k.header.epoch.toNat, code.toNat, some (chunkRank k.header)) :: s.net.closed).take 4096 } }) ∧
  (∀ (s : State) (k : Packet) (code : BitVec 16) (r : CollRun) (o : Op), s.HearsChunk k.arrival k.header →
    endingStatus code.toNat = true →
    s.net.colls.find? (fun x => x.d.collId == k.header.collId && x.g.epoch == k.header.epoch.toNat) = some r →
    s.op r.op = some o → o.resultAddr = 0 →
    ∃ t, exec (.nptNack k [0xFFFF, code]) s = .next t ∧ t.op r.op = none ∧ t.collRun r.op = none) ∧
  (∀ (s : State) (k : Packet) (code : BitVec 16), s.HearsChunk k.arrival k.header → code ≠ 0 → endingStatus code.toNat = false →
    exec (.nptNack k [0xFFFF, code]) s = .next (s.received k.arrival)) ∧
  (∀ (s : State) (h : NptHeader) (missing : List (BitVec 16)), s.isReady = true → s.forUs h = true → s.usable (chunkSender h) ≠ [] →
    ∃ t k, exec (.nptNackTimer h missing) s = .next t ∧ t.mem = s.mem ∧ AnswersTo k h ∧
      s.SentNpt t (chunkSender h) 3 k ((missing.flatMap (fun w => leBytes 2 w.toNat)).take 4096) []) ∧
  (∀ (s : State) (id : Nat) (c : OutChunk), s.isReady = true → s.net.out.find? (fun y => y.id == id) = some c → c.gone = true →
    s.sessionOpen c.node = true → s.usable c.node ≠ [] →
    ∃ t, exec (.nptResendTimeout id) s = .next t ∧ t.mem = s.mem ∧
      t.outbox = s.outbox ++ s.packetsOf c (List.range (packetCount c.bytes.length))) ∧
  (∀ (s : State) (id : Nat), s.isReady = true → s.net.out.find? (fun y => y.id == id) = none →
    exec (.nptResendTimeout id) s = .next s) ∧
  (∀ (s : State) (node : BitVec 17), s.isReady = true → (s.session node.toNat).isOpen = true →
    ∃ t, exec (.nptRateIncrease node) s = .next t ∧ t.mem = s.mem ∧
      t.session node.toNat = { s.session node.toNat with rate := min (2 ^ 32) ((s.session node.toNat).rate + 2 ^ 27) }) ∧
  (∀ (s : State) (node : BitVec 17), s.isReady = true → (s.session node.toNat).isOpen = false →
    exec (.nptRateIncrease node) s = .next s)

/-- A HELLO is answered with the label, and a label in it or in its answer opens the session with a node, or puts the node into dead-letter
(R255). -/
def SessionsMeet : Prop :=
  (∀ (s : State) (k : Packet) (label : List Byte), s.Hears k.arrival k.header → opensSession (chunkSender k.header) label = true →
    labelNumerics label = 1 → s.net.out = [] → s.usable (chunkSender k.header) ≠ [] →
    (∃ t q, exec (.hello k label) s = .next t ∧ (t.session (chunkSender k.header)).isOpen = true ∧
      (t.session (chunkSender k.header)).rate = 2 ^ 32 ∧ t.mem = s.mem ∧
      (s.received k.arrival).SentNpt t (chunkSender k.header) 5 q (s.label 0xFF false) []) ∧
    (∃ t, exec (.helloAck k label) s = .next t ∧ (t.session (chunkSender k.header)).isOpen = true ∧ t.mem = s.mem ∧
      t.outbox = s.outbox)) ∧
  (∀ (s : State) (k : Packet) (label : List Byte), s.Hears k.arrival k.header → opensSession (chunkSender k.header) label = false →
    s.net.colls = [] → s.proof.restore = none → (s.session (chunkSender k.header)).dead = false →
    ∃ t, exec (.helloAck k label) s = .next t ∧ (t.session (chunkSender k.header)).dead = true ∧
      (t.session (chunkSender k.header)).isOpen = false ∧ t.mem = s.mem ∧ t.Reports 6 6 (chunkSender k.header))

/-- R254 to R257, R278, R279, R283, R298: what NPT packets do when they arrive, and what its timers do. -/
def Obligations.NptMessages : Prop := Unheard ∧ EarlyChunks ∧ ChunksMerge ∧ ChunksAnswered ∧ SessionsMeet

/-- A store stages a cut's pages and image and says so, and gives its committed cut back; a source whose cut is staged may prove its step,
and one whose partner refuses or stays silent fails it; a restore ends with the scale book of the cut or with its partner's silence (R335 to
R338, log 35). -/
def MirrorsServe : Prop :=
  (∀ (s y : State) (a : Arrival) (h : NptHeader) (step region page : Nat) (bytes : List Byte), s.HearsMirror a h y →
    s.proof.restore = none → s.proof.repair = none →
    (s.storeFor (chunkSender h) = false → exec (.mirrorPage a h step region page bytes) s = .next y) ∧
    (s.storeFor (chunkSender h) = true → s.proof.store.staged = [] → s.proof.store.committed = none → 50 ≤ s.proof.store.pages →
      ∃ t, exec (.mirrorPage a h step region page bytes) s = .next t ∧ t.outbox = y.outbox ∧
        t.proof.store.staged = [{ step := step, pages := [(region, page, bytes)], image := none, whole := false }]) ∧
    (s.storeFor (chunkSender h) = true → s.proof.store.staged = [] → s.proof.store.committed = none → s.proof.store.pages < 50 →
      ∃ t, exec (.mirrorPage a h step region page bytes) s = .next t ∧ t.proof.store.staged = [] ∧ t.mem = s.mem ∧
        t.mailed = s.mailed ++ [mirrorMail (chunkSender h) 4 step 0 2 []])) ∧
  (∀ (s y : State) (k : Packet) (step : Nat) (image : List Byte) (c : Cut), s.HearsMirror k.arrival k.header y → s.proof.restore = none →
    s.storeFor (chunkSender k.header) = true → s.proof.store.staged = [c] → c.step = step → s.proof.store.committed = none →
    c.pages.length + 48 + ceilDiv c.pages.length 8192 ≤ s.proof.store.pages →
    ∃ t, exec (.mirrorScaleImage k step image) s = .next t ∧ t.proof.store.staged = [{ c with image := some image }] ∧
      t.mailed = s.mailed ++ [mirrorMail (chunkSender k.header) 4 step 0 3 []] ∧
      (y.sessionOpen (chunkSender k.header) = true → y.usable (chunkSender k.header) ≠ [] →
        ∃ q, y.SentNpt t (chunkSender k.header) 6 q (leBytes 8 step ++ leBytes 4 0 ++ leBytes 4 3) [])) ∧
  (∀ (s y : State) (k : Packet) (step ring cmd : Nat) (image : List Byte), s.HearsMirror k.arrival k.header y →
    s.proof.restore = some (chunkSender k.header, ring, cmd) →
    ∃ t, exec (.mirrorScaleImage k step image) s = .next t ∧ t.proof.restore = none ∧ t.numerics.book = readBook image 16384 ∧
      t.mem = s.mem ∧ t.Reports 3 0x0A (chunkSender k.header)) ∧
  (∀ (s y : State) (k : Packet), s.HearsMirror k.arrival k.header y → s.storeFor (chunkSender k.header) = false →
    ∃ t, exec (.committedCutFetch k []) s = .next t ∧ t.mem = s.mem ∧ t.proof = s.proof ∧
      t.mailed = s.mailed ++ [mirrorMail (chunkSender k.header) 4 0 0 2 []]) ∧
  (∀ (s y : State) (k : Packet) (c : Cut), s.HearsMirror k.arrival k.header y → s.storeFor (chunkSender k.header) = true →
    s.proof.store.committed = some c →
    ∃ t, exec (.committedCutFetch k []) s = .next t ∧ t.mem = s.mem ∧ t.proof = s.proof ∧ t.mailed = s.mailed ++
      c.pages.map (fun p => mirrorMail (chunkSender k.header) 2 c.step p.1 p.2.1 p.2.2) ++
        [mirrorMail (chunkSender k.header) 3 c.step 0 0 (c.image.getD [])]) ∧
  (∀ (s y : State) (k : Packet) (step : Nat), s.HearsMirror k.arrival k.header y →
    (s.proof.partner = some (chunkSender k.header) → exec (.mirrorAck k step .committed) s =
      .next { y with proof := { y.proof with mirrorStep := max s.proof.mirrorStep step } }) ∧
    (s.proof.partner ≠ some (chunkSender k.header) → exec (.mirrorAck k step .committed) s = .next y) ∧
    (∀ holds, s.proof.partner ≠ some (chunkSender k.header) → s.step_ step = none →
      exec (.mirrorAck k step (.staged holds)) s = .next y)) ∧
  (∀ (s y : State) (k : Packet) (step : Nat) (holds : Bool) (r : StepRec), s.HearsMirror k.arrival k.header y →
    s.proof.partner = some (chunkSender k.header) → s.proof.steps = [r] → r.num = step → step = (s.proof.stepProved + 1) % 2 ^ 64 →
    r.closed = true → r.st = .latent → r.cause = 0 → r.combined = 0 → r.sentUp = false → r.outcome = none → r.group = none →
    r.mirrorTo = some (chunkSender k.header) → s.proof.boundary = none →
    ∃ t, exec (.mirrorAck k step (.staged holds)) s = .next t ∧ t.proof.stepProved = step ∧ t.proof.steps = [] ∧ t.mem = s.mem) ∧
  (∀ (s : State) (step ring cmd node : Nat) (silent : Bool), s.isReady = true → s.proof.restore = some (node, ring, cmd) →
    ∃ t, exec (.mirrorLost step silent) s = .next t ∧ t.proof = { s.proof with restore := none } ∧ t.mem = s.mem ∧
      ∀ c, (s.ring ring).cmd cmd = some c → s.Finished t ring c (if silent then 0x40 else 0x20) false 0) ∧
  (∀ (s : State) (step node : Nat) (silent : Bool) (r : StepRec), s.isReady = true → s.proof.restore = none → s.proof.repair = none →
    s.Idle → s.step_ step = some r → r.closed = true → r.mirrorAcked = false → r.mirrorTo = some node → r.st ≠ .failed →
    ∃ t, exec (.mirrorLost step silent) s = .next t ∧ t.Reports 3 6 node ∧ t.FailedFrom step (s.verdictRank r) ∧ t.mem = s.mem)

/-- A child's verdict is acknowledged and noted, and a dirty one fails the step and those after it; one for a step that is not open yet is
not acknowledged, and comes again (log 36); and the silence of a neighbour fails the step (R322 to R325). -/
def VerdictsHeard : Prop :=
  (∀ (s : State) (k : Packet) (payload : List Byte) (r : StepRec) (rank : Nat), s.Hears k.arrival k.header → k.header.collId.toNat = 1 →
    s.step_ (field payload 0 8) = some r → k.header.epoch.toNat = r.epoch → r.closed = false → r.st ≠ .failed →
    rank = k.header.contributor.toNat → rank ∈ s.verdictChildren { r with group := s.groupActive s.proof.group } → rank ∉ r.heard →
    (field payload 8 1 = 0 →
      ∃ t, exec (.verdict k payload) s = .next t ∧ t.step_ (field payload 0 8) = some { r with heard := r.heard ++ [rank] } ∧
        t.mem = s.mem ∧ t.outbox = ((s.received k.arrival).nptAnswer 2 k.header 0 []).outbox) ∧
    (field payload 8 1 ≠ 0 → s.Idle →
      ∃ t, exec (.verdict k payload) s = .next t ∧ t.FailedFrom (field payload 0 8) (field payload 12 4) ∧ t.mem = s.mem)) ∧
  (∀ (s : State) (k : Packet) (payload : List Byte), s.Hears k.arrival k.header → k.header.collId.toNat = 1 →
    s.step_ (field payload 0 8) = none → s.proof.stepProved < field payload 0 8 → s.proof.stepNow < field payload 0 8 →
    exec (.verdict k payload) s = .next (s.received k.arrival)) ∧
  (∀ (s : State) (step rank : Nat) (r : StepRec), s.isReady = true → s.step_ step = some r → s.verdictWaits r rank = true →
    r.st ≠ .failed → s.Idle →
    ∃ t, exec (.verdictSilenceTimeout step rank) s = .next t ∧ t.FailedFrom step (s.verdictRank r) ∧ t.mem = s.mem) ∧
  (∀ (s : State) (step rank : Nat), s.isReady = true → (∀ r, s.step_ step = some r → s.verdictWaits r rank = false) →
    exec (.verdictSilenceTimeout step rank) s = .next s)

/-- R322 to R325, R335 to R338: what mirror messages and verdicts do, and what silence does. -/
def Obligations.MirrorsAndVerdicts : Prop := MirrorsServe ∧ VerdictsHeard

/-- R259 to R261: LOAD brings a queue pair to READY from a context that keeps its ranges, RESET takes it to RESET, and either says why not.
-/
def QueuePairsLoad : Prop :=
  (∀ (s s1 s2 : State) (t : BitVec 8) (j : BitVec 2) (g : Target) (bs : List Byte), s.isReady = true →
    s.readTarget t.toNat = (s1, some g) → s1.readPhys allowHbm (s1.contextAddr (qpKey t.toNat j.toNat)) 64 = (s2, .ok bs) →
    contextBad bs = false → s2.net.qpBaseReg.toNat % 65536 = 0 → j.toNat < g.ports.length →
    (s2.qp (qpKey t.toNat j.toNat) = QP.reset →
      ∃ u, exec (.qpLoad t j) s = .next u ∧ u.net.qpResult = 0 ∧ u.qp (qpKey t.toNat j.toNat) =
        { QP.reset with state := 1, psn := field bs 8 3, ctx := parseContext bs, remote := g }) ∧
    ((s2.qp (qpKey t.toNat j.toNat)).inUse = true →
      exec (.qpLoad t j) s = .next { s2 with net := { s2.net with qpResult := 2 } })) ∧
  (∀ (s s1 s2 : State) (t : BitVec 8) (j : BitVec 2) (g : Target) (bs : List Byte), s.isReady = true →
    s.readTarget t.toNat = (s1, some g) → s1.readPhys allowHbm (s1.contextAddr (qpKey t.toNat j.toNat)) 64 = (s2, .ok bs) →
    (contextBad bs = true ∨ s2.net.qpBaseReg.toNat % 65536 ≠ 0 ∨ g.ports.length ≤ j.toNat) →
    exec (.qpLoad t j) s = .next { s2 with net := { s2.net with qpResult := 1 } }) ∧
  (∀ (s s1 : State) (t : BitVec 8) (j : BitVec 2), s.isReady = true → s.readTarget t.toNat = (s1, none) →
    exec (.qpLoad t j) s = .next { s1 with net := { s1.net with qpResult := 3 } }) ∧
  (∀ (s : State) (t : BitVec 8) (j : BitVec 2), s.isReady = true →
    ((s.qp (qpKey t.toNat j.toNat)).inUse = true → exec (.qpReset t j) s = .next { s with net := { s.net with qpResult := 2 } }) ∧
    ((s.qp (qpKey t.toNat j.toNat)).inUse = false →
      ∃ u, exec (.qpReset t j) s = .next u ∧ u.net.qpResult = 0 ∧ u.qp (qpKey t.toNat j.toNat) = QP.reset))

/-- R257, R258, R344: responses acknowledge a checkpoint's writes packet by packet; each write starts the next, and the last seals it;
congestion halves the rate, at most once in 20 µs (log 39); and lost responses send the writes again, until the pair enters ERROR with what it
holds and ends its checkpoint. A port that carries no RoCEv2 traffic sends none (R235). -/
def QueuePairsWork : Prop :=
  (∀ (s : State) (t : BitVec 8) (j : BitVec 2) (psn : BitVec 24), s.isReady = true →
    ((s.qp (qpKey t.toNat j.toNat)).unacked = [] ∨ (s.qp (qpKey t.toNat j.toNat)).state ≠ 1) →
    exec (.roceResponse t j psn) s = .next s ∧ exec (.roceRetryTimeout t j) s = .next s) ∧
  (∀ (s : State) (t : BitVec 8) (j : BitVec 2) (psn : BitVec 24) (q : QP) (r : CkptRun) (w x : Nat × List Byte)
      (ws : List (Nat × List Byte)), s.isReady = true → s.qp (qpKey t.toNat j.toNat) = q → q.state = 1 →
    q.unacked = [(psn.toNat, w.1, w.2)] → s.proof.ckpt = some r → r.target = t.toNat → r.qp = j.toNat → r.writes = w :: x :: ws →
    ∃ u, exec (.roceResponse t j psn) s = .next u ∧ u.mem = s.mem ∧
      u.proof.ckpt = some { r with writes := x :: ws, done := r.done + w.2.length } ∧
      ∀ port, q.remote.ports[j.toNat]? = some port → u.outbox = s.outbox ++ if s.carriesIp port = true then
        (List.range (packetCount x.2.length)).map (fun i => .roce (s.rocePacket t.toNat j.toNat port q.psn x.1 x.2 i)) else []) ∧
  (∀ (s : State) (t : BitVec 8) (j : BitVec 2) (psn : BitVec 24) (q : QP) (r : CkptRun) (w : Nat × List Byte), s.isReady = true →
    s.qp (qpKey t.toNat j.toNat) = q → q.state = 1 → q.unacked = [(psn.toNat, w.1, w.2)] → s.proof.ckpt = some r → r.target = t.toNat →
    r.qp = j.toNat → r.writes = [w] →
    ∃ u, exec (.roceResponse t j psn) s = .next u ∧ u.proof.ckpt = none ∧ u.proof.nextSlot = 1 - r.slot) ∧
  (∀ (s : State) (t : BitVec 8) (j : BitVec 2) (psn : BitVec 24) (q : QP) (last addr got : Nat) (bytes : List Byte), s.isReady = true →
    s.qp (qpKey t.toNat j.toNat) = q → q.state = 1 → q.unacked = [(last, addr, bytes)] → acked24 psn.toNat last = false →
    got = (psn.toNat + packetCount bytes.length + 2 ^ 24 - last) % 2 ^ 24 → 0 < got → got < packetCount bytes.length →
    ∃ u, exec (.roceResponse t j psn) s = .next u ∧ u.mem = s.mem ∧ u.outbox = s.outbox ∧
      u.qp (qpKey t.toNat j.toNat) = { q with unacked := [(last, addr + 4096 * got, bytes.drop (4096 * got))], retries := 0 }) ∧
  (∀ (s : State) (t : BitVec 8) (j : BitVec 2) (q : QP), s.isReady = true → s.qp (qpKey t.toNat j.toNat) = q →
    (q.state = 1 → (∀ c, q.lastCut = some c → c + 20000 ≤ s.clock.time) →
      ∃ u, exec (.roceCnp t j) s = .next u ∧ u.mem = s.mem ∧
        u.qp (qpKey t.toNat j.toNat) = { q with rate := q.rateAt s.clock.time / 2, lastCut := some s.clock.time }) ∧
    ((q.state ≠ 1 ∨ ∃ c, q.lastCut = some c ∧ s.clock.time < c + 20000) → exec (.roceCnp t j) s = .next s)) ∧
  (∀ (s : State) (t : BitVec 8) (j : BitVec 2) (q : QP) (last addr : Nat) (bytes : List Byte), s.isReady = true →
    s.qp (qpKey t.toNat j.toNat) = q → q.state = 1 → q.unacked = [(last, addr, bytes)] → q.retries < 7 →
    ∃ u, exec (.roceRetryTimeout t j) s = .next u ∧ u.mem = s.mem ∧
      u.qp (qpKey t.toNat j.toNat) = { q with retries := q.retries + 1 } ∧
      ∀ port, q.remote.ports[j.toNat]? = some port → u.outbox = s.outbox ++ if s.carriesIp port = true then
        (List.range (packetCount bytes.length)).map (fun i =>
          .roce (s.rocePacket t.toNat j.toNat port (firstPsn last bytes.length) addr bytes i)) else []) ∧
  (∀ (s : State) (t : BitVec 8) (j : BitVec 2) (q : QP), s.isReady = true → s.qp (qpKey t.toNat j.toNat) = q → q.state = 1 →
    q.unacked ≠ [] → 7 ≤ q.retries →
    (s.proof.ckpt = none ∨ ∃ r, s.proof.ckpt = some r ∧ r.target = t.toNat ∧ r.qp = j.toNat) →
    ∃ u, exec (.roceRetryTimeout t j) s = .next u ∧ u.proof.ckpt = none ∧ (u.qp (qpKey t.toNat j.toNat)).state = 2 ∧
      (u.qp (qpKey t.toNat j.toNat)).unacked = q.unacked ∧ (u.qp (qpKey t.toNat j.toNat)).inUse = false)

/-- R235, R257 to R261, R344: how queue pairs are loaded and reset, and what their packets and timers do. -/
def Obligations.QueuePairs : Prop := QueuePairsLoad ∧ QueuePairsWork

/-! ### Translation, latches and held requests -/

/-- R27: an access whose walk meets such an entry is faulted with ADDRESS_FAULT, and no data moves. -/
def Obligations.TranslationFaults : Prop :=
  ∀ (s : State) (root : Word) (allow : Allow) (va : Nat), s.Sound → va < 2 ^ 48 →
    (∀ e ∈ s.mem.tlb, e.1 ≠ (root.toNat, va / 0x10000)) →
    (∀ n, 0 < n → s.walkMeets root va (entryFaults false) →
      ∃ t, s.readVirt root allow va n = (t, .error (.addr (virtDetail va))) ∧ t.mem.ram = s.mem.ram) ∧
    (∀ bs, bs ≠ [] → s.walkMeets root va (entryFaults true) →
      ∃ t, s.writeVirt root allow va bs = (t, .error (.addr (virtDetail va))) ∧ t.mem.ram = s.mem.ram)

/-- R29, R97: an OP_PROGRAM latches PT_ROOT and JOB_SEED as it starts; a write of either leaves the programs in flight as they are;
HANDOVER destroys the seed; and JOB_SEED reads as 0. -/
def Obligations.ProgramsLatchRootAndSeed : Prop :=
  (∀ (s : State) (ring : Fin 64) (c : FetchedCmd), s.Due ring.val cmdOpProgram c → c.headerBad = false → c.restBad 0x18 = false →
    devBad (c.w 0x10) = false → bit (c.w 0x10) 63 = true → c.w 0x10 % 128 = 0 → s.stepFailed = false →
    ∃ t p, exec (.opProgram ring) s = .next t ∧ p ∈ t.seq.programs ∧ p.cmd = c.id ∧ p.root = s.mem.ptRoot ∧ p.seed = s.numerics.seed) ∧
  (∀ (s s0 s1 : State) (ring : Fin 64) (p : Program) (a : Nat) (bs : List Byte), s.isReady = true → s.program ring.val = some p →
    p.next = some a → p.stopped = false → s.seq.window.length < 16 → s.drawsFrom ring.val = true →
    ({ s with actor := some (p.cmd, 0) } : State).readVirt p.root allowOps a 128 = (s0, .ok bs) → s0.meetHidden 7 a = (s1, false) →
    s1.NoneWanted → field bs 0 1 ≠ 0 → field bs 0 1 ≤ 8 →
    (field bs 0 1 = opMatmul → ∀ o : Op, o.desc = bs → matTakeCheck o p.check = 0) →
    s1.program ring.val = some p →
    ∃ t q o, exec (.opTake ring) s = .next t ∧ o ∈ t.seq.window ∧ o.desc = bs ∧ t.program ring.val = some q ∧ q.root = p.root ∧
      q.seed = p.seed) ∧
  (∀ (s : State) (v : Word), s.isReady = true →
    (∃ t, exec (.registerWrite 0x20000 (.wide v)) s = .next t ∧ t.seq = s.seq) ∧
    (∃ t, exec (.jobSeedWrite (.wide v)) s = .next t ∧ t.seq = s.seq ∧ t.numerics.seed = v)) ∧
  (∀ (s : State) (ring : Fin 64) (c : FetchedCmd) (run : HandoverRun), s.Due ring.val cmdHandover c → c.headerBad = false →
    c.restBad 0x10 = false →
    ∃ t, exec (.handover ring run) s = .next t ∧ t.numerics.seedValid = false ∧ (run.keysZero = true → t.numerics.seed = 0)) ∧
  (∀ s : State, s.numericsReg 0 = 0)

/-- R184: in D3hot no poll starts, no command is fetched and no request goes out; a command that has started completes, and its record
waits; on the return to D0 the records that wait go out. -/
def Obligations.HeldInD3hot : Prop :=
  (∀ s : State, s.isReady = true → s.pcie.d3hot = true →
    exec .doorbellPoll s = .next s ∧ (∀ v, exec (.nudge v) s = .next s) ∧ (∀ ring r, exec (.commandFetch ring r) s = .next s)) ∧
  (∀ (s : State) (o : Output), s.pcie.d3hot = true → (s.sendHost o).outbox = s.outbox ∧ (s.sendHost o).host.held = s.host.held ++ [.other o]) ∧
  (∀ (s : State) (ring id status detail : Nat) (hostDetail : Bool) (c : FetchedCmd), s.pcie.d3hot = true →
    (s.ring ring).cmd id = some c →
    (s.complete ring id status hostDetail detail).outbox = s.outbox ∧
    (s.complete ring id status hostDetail detail).host.held = s.host.held ++
      [.record (s.ring ring).cq ring c.seq ((c.bytes.drop 8).take 8) status hostDetail detail c.fetched c.irq s.host.buffer.length] ∧
    ((s.complete ring id status hostDetail detail).ring ring).cmds = (s.ring ring).cmds.filter (fun d => d.id != id)) ∧
  (∀ (s : State) (kind code step tag subject : Nat) (detail : List Byte), s.pcie.d3hot = true →
    ∀ o ∈ (s.raise kind code step tag subject detail).outbox, o ∈ s.outbox ∨ ∀ a bs w, o ≠ .hostWrite a bs w) ∧
  (∀ s : State, s.functionRuns = true → s.pcie.linkUp = true → s.pcie.cfgReady = true → s.pcie.loopActive = false →
    s.pcie.follower = false →
    ∃ t, exec .powerStateD0 s = .next t ∧ t.host.held = [] ∧
      (∀ o, .other o ∈ s.host.held → o ∈ t.outbox) ∧
      (∀ cq ring seq tag status hd detail fetched irq events, .record cq ring seq tag status hd detail fetched irq events ∈ s.host.held →
        ∃ addr phase elapsed, .hostWrite addr (completionBytes tag seq status phase hd ring detail elapsed) false ∈ t.outbox))

end
end

