-- ==== Sys2Proof/Laws/Store.lean ====
section
/-! SUPPORT. Sparse maps and stores: what a read sees after a write, for every map and store whatever their order, and that
every operation keeps the canonical form of one that has it. -/

namespace Sys2Proof.Laws

open Sys2Proof.Machine

/-! ### Maps: reads after writes -/

section Maps
variable {β : Type}

@[simp] theorem get_nil (d : β) (k : Nat) : SMap.get ([] : SMap β) d k = d := rfl

theorem get_cons (j : Nat) (v : β) (t : SMap β) (d : β) (k : Nat) :
    SMap.get ((j, v) :: t) d k = if j = k then v else SMap.get t d k := rfl

theorem get_put_same (m : SMap β) (d : β) (k : Nat) (v : β) : (SMap.put m k v).get d k = v := by
  induction m with
  | nil => simp [SMap.put, get_cons]
  | cons p t ih =>
    obtain ⟨j, x⟩ := p
    simp only [SMap.put]
    split
    · simp [get_cons]
    · split
      · simp [get_cons]
      · rename_i _ h2
        simp only [get_cons, Ne.symm h2, if_false]
        exact ih

theorem get_put_other (m : SMap β) (d : β) (k j : Nat) (v : β) (h : j ≠ k) : (SMap.put m k v).get d j = m.get d j := by
  induction m with
  | nil => simp [SMap.put, get_cons, Ne.symm h]
  | cons p t ih =>
    obtain ⟨i, x⟩ := p
    simp only [SMap.put]
    split
    · simp [get_cons, Ne.symm h]
    · split
      · rename_i _ h2
        subst h2
        simp [get_cons, Ne.symm h]
      · simp only [get_cons, ih]

theorem get_drop_same (m : SMap β) (d : β) (k : Nat) : (SMap.drop m k).get d k = d := by
  induction m with
  | nil => rfl
  | cons p t ih =>
    obtain ⟨i, x⟩ := p
    simp only [SMap.drop, List.filter]
    by_cases h : i = k
    · subst h; simpa [SMap.drop] using ih
    · have : ((i != k) = true) := by simp [h]
      simp only [this]
      rw [get_cons, if_neg h]
      exact ih

theorem get_drop_other (m : SMap β) (d : β) (k j : Nat) (h : j ≠ k) : (SMap.drop m k).get d j = m.get d j := by
  induction m with
  | nil => rfl
  | cons p t ih =>
    obtain ⟨i, x⟩ := p
    simp only [SMap.drop, List.filter]
    by_cases hk : i = k
    · subst hk
      simp only [bne_self_eq_false, get_cons, Ne.symm h, if_false]
      exact ih
    · have : ((i != k) = true) := by simp [hk]
      simp only [this]
      rw [get_cons, get_cons]
      split
      · rfl
      · exact ih

@[simp] theorem get_set_same [DecidableEq β] (m : SMap β) (d : β) (k : Nat) (v : β) : (m.set d k v).get d k = v := by
  unfold SMap.set
  split
  · rename_i h; rw [h]; exact get_drop_same m d k
  · exact get_put_same m d k v

theorem get_set_other [DecidableEq β] (m : SMap β) (d : β) (k j : Nat) (v : β) (h : j ≠ k) :
    (m.set d k v).get d j = m.get d j := by
  unfold SMap.set
  split
  · exact get_drop_other m d k j h
  · exact get_put_other m d k j v h

theorem get_set [DecidableEq β] (m : SMap β) (d : β) (k j : Nat) (v : β) :
    (m.set d k v).get d j = if j = k then v else m.get d j := by
  by_cases h : j = k
  · subst h; simp
  · simp [h, get_set_other m d k j v h]

/-! ### Maps: the canonical form -/

theorem sorted_mono [DecidableEq β] (d : β) (m : SMap β) : ∀ lo hi, hi ≤ lo → SMap.sorted d lo m = true → SMap.sorted d hi m = true := by
  cases m with
  | nil => intros; rfl
  | cons p t =>
    obtain ⟨j, v⟩ := p
    intro lo hi h hs
    simp only [SMap.sorted, Bool.and_eq_true, decide_eq_true_eq] at hs ⊢
    exact ⟨⟨by omega, hs.1.2⟩, hs.2⟩

theorem sorted_filter [DecidableEq β] (d : β) (f : Nat × β → Bool) (m : SMap β) :
    ∀ lo, SMap.sorted d lo m = true → SMap.sorted d lo (m.filter f) = true := by
  induction m with
  | nil => intros; rfl
  | cons p t ih =>
    obtain ⟨j, v⟩ := p
    intro lo hs
    simp only [SMap.sorted, Bool.and_eq_true, decide_eq_true_eq] at hs
    simp only [List.filter]
    split
    · simp only [SMap.sorted, Bool.and_eq_true, decide_eq_true_eq]
      exact ⟨hs.1, ih _ hs.2⟩
    · exact sorted_mono d _ (j + 1) lo (by omega) (ih _ hs.2)

theorem sorted_put [DecidableEq β] (d : β) (k : Nat) (v : β) (hv : v ≠ d) (m : SMap β) :
    ∀ lo, lo ≤ k → SMap.sorted d lo m = true → SMap.sorted d lo (SMap.put m k v) = true := by
  induction m with
  | nil => intro lo h _; simp [SMap.put, SMap.sorted, h, hv]
  | cons p t ih =>
    obtain ⟨j, x⟩ := p
    intro lo h hs
    simp only [SMap.sorted, Bool.and_eq_true, decide_eq_true_eq] at hs
    simp only [SMap.put]
    split
    · simp only [SMap.sorted, Bool.and_eq_true, decide_eq_true_eq]
      exact ⟨⟨h, hv⟩, ⟨by omega, hs.1.2⟩, hs.2⟩
    · split
      · rename_i h2; subst h2
        simp only [SMap.sorted, Bool.and_eq_true, decide_eq_true_eq]
        exact ⟨⟨h, hv⟩, hs.2⟩
      · simp only [SMap.sorted, Bool.and_eq_true, decide_eq_true_eq]
        exact ⟨hs.1, ih _ (by omega) hs.2⟩

theorem wf_drop [DecidableEq β] (d : β) (m : SMap β) (k : Nat) (h : m.wf d = true) : (SMap.drop m k).wf d = true :=
  sorted_filter d _ m 0 h

/-- A write keeps the canonical form. -/
theorem wf_set [DecidableEq β] (d : β) (m : SMap β) (k : Nat) (v : β) (h : m.wf d = true) : (m.set d k v).wf d = true := by
  unfold SMap.set
  split
  · exact wf_drop d m k h
  · rename_i hv; exact sorted_put d k v hv m 0 (Nat.zero_le _) h

theorem wf_nil [DecidableEq β] (d : β) : SMap.wf d ([] : SMap β) = true := rfl

end Maps

/-! ### Holes -/

theorem holeAt_append (a b : List Hole) (k : Nat) : holeAt (a ++ b) k = (holeAt a k).or (holeAt b k) := by
  simp [holeAt, List.find?_append]

/-- A key inside the range cut out of every hole lies in none. -/
theorem cutHoles_in (hs : List Hole) (lo hi k : Nat) (h1 : lo ≤ k) (h2 : k < hi) : holeAt (cutHoles hs lo hi) k = none := by
  induction hs with
  | nil => rfl
  | cons h t ih =>
    have e : cutHoles (h :: t) lo hi = Hole.cut lo hi h ++ cutHoles t lo hi := rfl
    rw [e, holeAt_append, ih, Option.or_none]
    simp only [holeAt, List.find?_eq_none, Bool.and_eq_true, decide_eq_true_eq, Hole.cut]
    intro x hx
    split at hx
    · simp only [List.mem_singleton] at hx; subst hx; omega
    · simp only [List.mem_append] at hx
      rcases hx with hx | hx
      · split at hx
        · simp only [List.mem_singleton] at hx; subst hx; dsimp only; omega
        · simp at hx
      · split at hx
        · simp only [List.mem_singleton] at hx; subst hx; dsimp only; omega
        · simp at hx

/-- Outside the range, a key lies in a hole of the same draw as before. -/
theorem cutHoles_out (hs : List Hole) (lo hi k : Nat) (h : k < lo ∨ hi ≤ k) :
    (holeAt (cutHoles hs lo hi) k).map (·.gen) = (holeAt hs k).map (·.gen) := by
  induction hs with
  | nil => rfl
  | cons x t ih =>
    have e : cutHoles (x :: t) lo hi = Hole.cut lo hi x ++ cutHoles t lo hi := rfl
    rw [e, holeAt_append]
    have hc : (holeAt (Hole.cut lo hi x) k).map (·.gen) = if x.lo ≤ k ∧ k < x.hi then some x.gen else none := by
      unfold Hole.cut
      split
      · simp only [holeAt, List.find?_cons, List.find?_nil]
        split <;> simp_all
      · by_cases hk : x.lo ≤ k ∧ k < x.hi
        · simp only [hk, and_self, if_true]
          by_cases h1 : x.lo < lo
          · simp only [h1, if_true]
            by_cases h2 : k < lo
            · simp [holeAt, hk.1, h2]
            · by_cases h3 : hi < x.hi
              · simp only [h3, if_true, holeAt]
                have : hi ≤ k := by omega
                simp [h2, this, hk.2]
              · omega
          · have h3 : hi < x.hi := by omega
            have : hi ≤ k := by omega
            simp [h1, h3, holeAt, this, hk.2]
        · simp only [hk, if_false, Option.map_eq_none_iff, holeAt, List.find?_eq_none, Bool.and_eq_true, decide_eq_true_eq]
          intro y hy
          simp only [List.mem_append] at hy
          rcases hy with hy | hy
          · split at hy
            · simp only [List.mem_singleton] at hy; subst hy; dsimp only; omega
            · simp at hy
          · split at hy
            · simp only [List.mem_singleton] at hy; subst hy; dsimp only; omega
            · simp at hy
    have hx : holeAt (x :: t) k = if x.lo ≤ k ∧ k < x.hi then some x else holeAt t k := by
      simp only [holeAt, List.find?_cons]
      by_cases hk : x.lo ≤ k ∧ k < x.hi
      · simp [hk.1, hk.2]
      · simp only [hk, if_false]
        split
        · rename_i h4; simp at h4; omega
        · rfl
    rw [hx]
    cases hq : holeAt (Hole.cut lo hi x) k with
    | none =>
      rw [hq] at hc
      simp only [Option.map_none] at hc
      by_cases hk : x.lo ≤ k ∧ k < x.hi
      · simp [hk] at hc
      · simp only [hk, if_false, Option.none_or]; exact ih
    | some y =>
      rw [hq] at hc
      by_cases hk : x.lo ≤ k ∧ k < x.hi
      · simp only [hk, and_self, if_true, Option.map_some, Option.some.injEq] at hc
        simp [hk, hc]
      · simp [hk] at hc

/-! ### Stores: reads after writes -/

section Stores
variable {w : Nat}

theorem store_get_eq (s : Store w) (k : Nat) :
    s.get k = match (holeAt s.holes k).map (·.gen) with
      | some g => Config.freeBits w g k
      | none => SMap.get s.cells 0 k := by
  unfold Store.get
  cases holeAt s.holes k <;> rfl

theorem get_filter_in {β : Type} (d : β) (f : Nat → Bool) (m : SMap β) (k : Nat) (h : f k = true) :
    SMap.get (m.filter (fun p => f p.1)) d k = SMap.get m d k := by
  induction m with
  | nil => rfl
  | cons p t ih =>
    obtain ⟨j, x⟩ := p
    simp only [List.filter]
    by_cases hj : j = k
    · subst hj; simp [h, get_cons]
    · split
      · simp only [get_cons, hj, if_false]; exact ih
      · simp only [get_cons, hj, if_false]; exact ih

theorem get_filter_out {β : Type} (d : β) (f : Nat → Bool) (m : SMap β) (k : Nat) (h : f k = false) :
    SMap.get (m.filter (fun p => f p.1)) d k = d := by
  induction m with
  | nil => rfl
  | cons p t ih =>
    obtain ⟨j, x⟩ := p
    simp only [List.filter]
    split
    · rename_i hj
      have : j ≠ k := by intro e; subst e; simp [h] at hj
      simp only [get_cons, this, if_false]; exact ih
    · exact ih

theorem get_append {β : Type} (d : β) (a b : SMap β) (k : Nat) (h : ∀ p ∈ a, p.1 ≠ k) :
    SMap.get (a ++ b) d k = SMap.get b d k := by
  induction a with
  | nil => rfl
  | cons p t ih =>
    obtain ⟨j, x⟩ := p
    have hj : j ≠ k := h (j, x) (List.mem_cons_self)
    simp only [List.cons_append, get_cons, hj, if_false]
    exact ih (fun q hq => h q (List.mem_cons_of_mem _ hq))

theorem get_append_left {β : Type} (d : β) (a b : SMap β) (k : Nat) (h : ∀ p ∈ b, p.1 ≠ k) :
    SMap.get (a ++ b) d k = SMap.get a d k := by
  induction a with
  | nil =>
    induction b with
    | nil => rfl
    | cons p t ih =>
      obtain ⟨j, x⟩ := p
      have hj : j ≠ k := h (j, x) (List.mem_cons_self)
      simp only [List.nil_append, get_cons, hj, if_false]
      exact ih (fun q hq => h q (List.mem_cons_of_mem _ hq))
  | cons p t ih =>
    obtain ⟨j, x⟩ := p
    simp only [List.cons_append, get_cons, ih]

theorem cellsFrom_keys (vs : List (BitVec w)) : ∀ k, ∀ p ∈ cellsFrom k vs, k ≤ p.1 ∧ p.1 < k + vs.length := by
  induction vs with
  | nil => intro k p hp; simp [cellsFrom] at hp
  | cons v vs ih =>
    intro k p hp
    simp only [cellsFrom] at hp
    split at hp
    · have := ih (k + 1) p hp; simp only [List.length_cons]; omega
    · simp only [List.mem_cons] at hp
      rcases hp with hp | hp
      · subst hp; simp
      · have := ih (k + 1) p hp; simp only [List.length_cons]; omega

theorem get_cellsFrom (vs : List (BitVec w)) : ∀ k j, j < vs.length → SMap.get (cellsFrom k vs) 0 (k + j) = vs.getD j 0 := by
  induction vs with
  | nil => intro k j h; simp at h
  | cons v vs ih =>
    intro k j h
    cases j with
    | zero =>
      simp only [cellsFrom, Nat.add_zero, List.getD_cons_zero]
      split
      · rename_i hv
        have : ∀ p ∈ cellsFrom (k + 1) vs, p.1 ≠ k := fun p hp => by have := cellsFrom_keys vs (k + 1) p hp; omega
        have e := get_append 0 (cellsFrom (k + 1) vs) [] k this
        rw [List.append_nil] at e
        rw [e, hv]; rfl
      · simp [get_cons]
    | succ j =>
      simp only [List.length_cons] at h
      have e := ih (k + 1) j (by omega)
      have hk : k + (j + 1) = k + 1 + j := by omega
      simp only [cellsFrom, List.getD_cons_succ, hk]
      split
      · exact e
      · rw [get_cons, if_neg (by omega)]; exact e

/-- What a store holds after a write: the values written, and elsewhere what it held. -/
theorem get_write (s : Store w) (lo : Nat) (vs : List (BitVec w)) (k : Nat) :
    (s.write lo vs).get k = if lo ≤ k ∧ k < lo + vs.length then vs.getD (k - lo) 0 else s.get k := by
  cases vs with
  | nil => simp only [Store.write, List.length_nil, Nat.add_zero]; rw [if_neg (by omega)]
  | cons v vs' =>
    have hw : s.write lo (v :: vs') =
        { cells := s.cells.filter (fun p => p.1 < lo) ++ cellsFrom lo (v :: vs') ++ s.cells.filter (fun p => lo + (v :: vs').length ≤ p.1)
          holes := cutHoles s.holes lo (lo + (v :: vs').length) } := rfl
    generalize v :: vs' = vs at hw
    rw [hw, store_get_eq]
    dsimp only
    by_cases hin : lo ≤ k ∧ k < lo + vs.length
    · rw [if_pos hin, cutHoles_in _ _ _ _ hin.1 hin.2]
      simp only [Option.map_none]
      rw [get_append_left]
      · rw [get_append]
        · have := get_cellsFrom vs lo (k - lo) (by omega)
          rwa [show lo + (k - lo) = k by omega] at this
        · intro p hp; simp only [List.mem_filter, decide_eq_true_eq] at hp; omega
      · intro p hp; simp only [List.mem_filter, decide_eq_true_eq] at hp; omega
    · rw [if_neg hin, cutHoles_out _ _ _ _ (by omega), store_get_eq]
      split
      · rfl
      · by_cases hlt : k < lo
        · rw [get_append_left, get_append_left]
          · exact get_filter_in 0 (fun i => decide (i < lo)) s.cells k (by simpa using hlt)
          · intro p hp; have := cellsFrom_keys vs lo p hp; omega
          · intro p hp; simp only [List.mem_filter, decide_eq_true_eq] at hp; omega
        · rw [get_append]
          · exact get_filter_in 0 (fun i => decide (lo + vs.length ≤ i)) s.cells k (by simp; omega)
          · intro p hp
            simp only [List.mem_append, List.mem_filter, decide_eq_true_eq] at hp
            rcases hp with hp | hp
            · omega
            · have := cellsFrom_keys vs lo p hp; omega

/-- One cell written. -/
theorem get_setCell (s : Store w) (k j : Nat) (v : BitVec w) : (s.set k v).get j = if j = k then v else s.get j := by
  unfold Store.set
  rw [get_write]
  by_cases h : j = k
  · subst h; simp
  · rw [if_neg h, if_neg (by simp only [List.length_cons, List.length_nil]; omega)]

/-- Cells set to zero. -/
theorem get_zero (s : Store w) (lo hi k : Nat) : (s.zero lo hi).get k = if lo ≤ k ∧ k < hi then 0 else s.get k := by
  rw [store_get_eq]
  simp only [Store.zero, dropRange]
  by_cases h : lo ≤ k ∧ k < hi
  · rw [if_pos h, cutHoles_in _ _ _ _ h.1 h.2]
    exact get_filter_out 0 (fun i => decide (i < lo) || decide (hi ≤ i)) s.cells k (by simp; omega)
  · rw [if_neg h, cutHoles_out _ _ _ _ (by omega), store_get_eq]
    split
    · rfl
    · exact get_filter_in 0 (fun i => decide (i < lo) || decide (hi ≤ i)) s.cells k (by simp; omega)

theorem layOut_size (k n : Nat) (m : SMap (BitVec w)) : (layOut k n m).size = n := by
  induction m with
  | nil => simp [layOut]
  | cons c t ih =>
    simp only [layOut, List.foldr_cons] at ih ⊢
    split
    · simpa using ih
    · exact ih

theorem layOut_get (k n : Nat) (m : SMap (BitVec w)) (i : Nat) (h : i < n) :
    (layOut k n m)[i]? = some (SMap.get m 0 (k + i)) := by
  induction m with
  | nil => simp [layOut, h]
  | cons c t ih =>
    obtain ⟨j, x⟩ := c
    have hs := layOut_size k n t
    have e : layOut k n ((j, x) :: t) = if k ≤ j then (layOut k n t).setIfInBounds (j - k) x else layOut k n t := rfl
    rw [e, get_cons]
    by_cases hk : k ≤ j
    · rw [if_pos hk, Array.getElem?_setIfInBounds]
      by_cases hj : j = k + i
      · have : j - k = i := by omega
        rw [if_pos hj, if_pos this, hs, if_pos (by omega)]
      · have : j - k ≠ i := by omega
        rw [if_neg hj, if_neg this]; exact ih
    · rw [if_neg hk, if_neg (by omega)]; exact ih

theorem overHoles_get (hs : List Hole) (vs : List (BitVec w)) : ∀ k i, (overHoles hs k vs)[i]? =
    (vs[i]?).map (fun v => match holeAt hs (k + i) with | some h => Config.freeBits w h.gen (k + i) | none => v) := by
  induction vs with
  | nil => intro k i; simp [overHoles]
  | cons v vs ih =>
    intro k i
    cases i with
    | zero => cases hh : holeAt hs k <;> simp [overHoles, hh]
    | succ i =>
      simp only [overHoles, List.getElem?_cons_succ]
      rw [ih (k + 1) i, show k + 1 + i = k + (i + 1) by omega]

/-- A read of consecutive cells reads each of them. -/
theorem read_get (s : Store w) (k n i : Nat) (h : i < n) : (s.read k n)[i]? = some (s.get (k + i)) := by
  unfold Store.read
  dsimp only
  split
  · rename_i hh
    have : holeAt s.holes (k + i) = none := by
      cases hs : s.holes with
      | nil => rfl
      | cons a b => rw [hs] at hh; simp at hh
    rw [Array.getElem?_toList, layOut_get k n s.cells i h, Store.get, this]
  · rw [overHoles_get, Array.getElem?_toList, layOut_get k n s.cells i h]
    cases hh : holeAt s.holes (k + i) <;> simp [Store.get, hh]

theorem overHoles_length (hs : List Hole) (vs : List (BitVec w)) : ∀ k, (overHoles hs k vs).length = vs.length := by
  induction vs with
  | nil => intro k; rfl
  | cons v vs ih => intro k; simp [overHoles, ih (k + 1)]

@[simp] theorem read_length (s : Store w) (k n : Nat) : (s.read k n).length = n := by
  unfold Store.read
  dsimp only
  split
  · simp [layOut_size]
  · simp [overHoles_length, layOut_size]

/-! ### Stores: the canonical form -/

theorem sorted_append {β : Type} [DecidableEq β] (d : β) (b : SMap β) (mid : Nat) (hb : SMap.sorted d mid b = true) (a : SMap β) :
    ∀ lo, SMap.sorted d lo a = true → (∀ p ∈ a, p.1 < mid) → (lo ≤ mid) → SMap.sorted d lo (a ++ b) = true := by
  induction a with
  | nil => intro lo _ _ h; exact sorted_mono d b mid lo h hb
  | cons p t ih =>
    obtain ⟨j, x⟩ := p
    intro lo hs hm hl
    simp only [SMap.sorted, Bool.and_eq_true, decide_eq_true_eq, List.cons_append] at hs ⊢
    have hj : j < mid := hm (j, x) (List.mem_cons_self)
    exact ⟨hs.1, ih _ hs.2 (fun q hq => hm q (List.mem_cons_of_mem _ hq)) (by omega)⟩

theorem sorted_cellsFrom (vs : List (BitVec w)) : ∀ k, SMap.sorted (0 : BitVec w) k (cellsFrom k vs) = true := by
  induction vs with
  | nil => intro k; rfl
  | cons v vs ih =>
    intro k
    simp only [cellsFrom]
    split
    · exact sorted_mono _ _ (k + 1) k (by omega) (ih (k + 1))
    · rename_i hv
      simp only [SMap.sorted, Bool.and_eq_true, decide_eq_true_eq]
      exact ⟨⟨Nat.le_refl _, hv⟩, ih (k + 1)⟩

theorem sorted_filter_from {β : Type} [DecidableEq β] (d : β) (hi : Nat) (m : SMap β) :
    ∀ lo, SMap.sorted d lo m = true → SMap.sorted d hi (m.filter (fun p => hi ≤ p.1)) = true := by
  induction m with
  | nil => intros; rfl
  | cons p t ih =>
    obtain ⟨j, x⟩ := p
    intro lo hs
    simp only [SMap.sorted, Bool.and_eq_true, decide_eq_true_eq] at hs
    simp only [List.filter]
    split
    · rename_i hj
      simp only [SMap.sorted, Bool.and_eq_true, decide_eq_true_eq]
      exact ⟨⟨by simpa using hj, hs.1.2⟩, sorted_filter d _ t _ hs.2⟩
    · exact ih _ hs.2

theorem noHole_cut (hs : List Hole) (lo hi k : Nat) (h : (holeAt hs k).isNone = true) : (holeAt (cutHoles hs lo hi) k).isNone = true := by
  by_cases hk : lo ≤ k ∧ k < hi
  · rw [cutHoles_in hs lo hi k hk.1 hk.2]; rfl
  · have := cutHoles_out hs lo hi k (by omega)
    rw [Option.isNone_iff_eq_none] at h ⊢
    rw [h] at this
    simpa using this

/-- A write keeps the canonical form. -/
theorem wf_write (s : Store w) (lo : Nat) (vs : List (BitVec w)) (h : s.wf = true) : (s.write lo vs).wf = true := by
  cases vs with
  | nil => exact h
  | cons v vs' =>
    have hw : s.write lo (v :: vs') =
        { cells := s.cells.filter (fun p => p.1 < lo) ++ cellsFrom lo (v :: vs') ++ s.cells.filter (fun p => lo + (v :: vs').length ≤ p.1)
          holes := cutHoles s.holes lo (lo + (v :: vs').length) } := rfl
    generalize v :: vs' = vs at hw
    rw [hw]
    simp only [Store.wf, Bool.and_eq_true, List.all_eq_true] at h ⊢
    refine ⟨?_, ?_⟩
    · rw [List.append_assoc]
      refine sorted_append 0 _ lo ?_ _ 0 (sorted_filter _ _ _ 0 h.1) ?_ (Nat.zero_le _)
      · refine sorted_append 0 _ (lo + vs.length) (sorted_filter_from _ _ _ 0 h.1) _ lo (sorted_cellsFrom vs lo) ?_ (by omega)
        intro p hp; exact (cellsFrom_keys vs lo p hp).2
      · intro p hp; simp only [List.mem_filter, decide_eq_true_eq] at hp; exact hp.2
    · intro p hp
      simp only [List.mem_append, List.mem_filter, decide_eq_true_eq] at hp
      rcases hp with (hp | hp) | hp
      · exact noHole_cut _ _ _ _ (h.2 p hp.1)
      · have := cellsFrom_keys vs lo p hp
        rw [cutHoles_in _ _ _ _ this.1 this.2]; rfl
      · exact noHole_cut _ _ _ _ (h.2 p hp.1)

theorem wf_setCell (s : Store w) (k : Nat) (v : BitVec w) (h : s.wf = true) : (s.set k v).wf = true := wf_write s k [v] h

/-- Zeroing a range keeps the canonical form. -/
theorem wf_zero (s : Store w) (lo hi : Nat) (h : s.wf = true) : (s.zero lo hi).wf = true := by
  simp only [Store.wf, Bool.and_eq_true, List.all_eq_true, Store.zero, dropRange] at h ⊢
  refine ⟨sorted_filter _ _ _ 0 h.1, ?_⟩
  intro p hp
  exact noHole_cut _ _ _ _ (h.2 p (List.mem_filter.mp hp).1)

/-- Leaving a range undefined keeps the canonical form. -/
theorem wf_undef (s : Store w) (lo hi gen : Nat) (h : s.wf = true) : (s.undef lo hi gen).wf = true := by
  unfold Store.undef
  split
  · simp only [Store.wf, Bool.and_eq_true, List.all_eq_true, dropRange] at h ⊢
    refine ⟨sorted_filter _ _ _ 0 h.1, ?_⟩
    intro p hp
    simp only [List.mem_filter, Bool.or_eq_true, decide_eq_true_eq] at hp
    rw [holeAt_append, Option.isNone_iff_eq_none, Option.or_eq_none_iff]
    refine ⟨Option.isNone_iff_eq_none.mp (noHole_cut _ _ _ _ (h.2 p hp.1)), ?_⟩
    simp only [holeAt, List.find?_eq_none, List.mem_singleton, Bool.and_eq_true, decide_eq_true_eq]
    intro x hx; subst hx; dsimp only; omega
  · exact h

theorem wf_empty : (Store.empty w).wf = true := rfl

end Stores

/-- Device memory, the semaphores and the registers of both engines are in canonical form at reset. -/
theorem reset_canonical :
    State.reset.mem.ram.wf = true ∧ State.reset.seq.sems.wf = true ∧ State.reset.vec.e0.v.wf = true ∧
      State.reset.vec.e1.v.wf = true ∧ State.reset.vec.e0.p.wf = true ∧ State.reset.vec.e1.p.wf = true := by decide

/-- Storing bytes in device memory keeps its canonical form. -/
theorem store_keeps_canonical (s : State) (a : Nat) (bs : List Byte) (h : s.mem.ram.wf = true) :
    (s.store a bs).mem.ram.wf = true := wf_write s.mem.ram a _ h

/-- Zeroing the bytes that hold no slot keeps the canonical form. -/
theorem wf_zeroSlots {w : Nat} (r : Store w) (a b lo : Nat) (h : r.wf = true) : (zeroSlots r a b lo).wf = true := by
  unfold zeroSlots
  split
  · exact wf_zero r _ _ h
  · exact h

/-- Leaving bytes of device memory undefined keeps its canonical form. -/
theorem undefAt_keeps_canonical (s : State) (a n : Nat) (h : s.mem.ram.wf = true) : (s.undefAt a n).mem.ram.wf = true :=
  wf_zeroSlots _ _ _ _ (wf_zeroSlots _ _ _ _ (wf_undef s.mem.ram a _ _ h))

end Sys2Proof.Laws
end

