-- ==== Sys2Proof/Laws/State.lean ====
section
/-! SUPPORT. One lemma per field and update of the state, each true by unfolding, and what the accessors of a piece read
after that piece is set. -/

namespace Sys2Proof.Laws

open Sys2Proof.Machine

/-! ### Sending, naming, drawing and counting -/

section

variable (s : State)

@[simp] theorem send_pending (o : Output) : (s.send o).pending = s.pending := rfl
@[simp] theorem send_actor (o : Output) : (s.send o).actor = s.actor := rfl
@[simp] theorem send_freeGen (o : Output) : (s.send o).freeGen = s.freeGen := rfl
@[simp] theorem send_nextId (o : Output) : (s.send o).nextId = s.nextId := rfl
@[simp] theorem send_fuses (o : Output) : (s.send o).fuses = s.fuses := rfl
@[simp] theorem send_life (o : Output) : (s.send o).life = s.life := rfl
@[simp] theorem send_clock (o : Output) : (s.send o).clock = s.clock := rfl
@[simp] theorem send_pcie (o : Output) : (s.send o).pcie = s.pcie := rfl
@[simp] theorem send_host (o : Output) : (s.send o).host = s.host := rfl
@[simp] theorem send_mem (o : Output) : (s.send o).mem = s.mem := rfl
@[simp] theorem send_numerics (o : Output) : (s.send o).numerics = s.numerics := rfl
@[simp] theorem send_plate (o : Output) : (s.send o).plate = s.plate := rfl
@[simp] theorem send_vec (o : Output) : (s.send o).vec = s.vec := rfl
@[simp] theorem send_seq (o : Output) : (s.send o).seq = s.seq := rfl
@[simp] theorem send_net (o : Output) : (s.send o).net = s.net := rfl
@[simp] theorem send_proof (o : Output) : (s.send o).proof = s.proof := rfl
@[simp] theorem send_power (o : Output) : (s.send o).power = s.power := rfl
@[simp] theorem send_fw (o : Output) : (s.send o).fw = s.fw := rfl
@[simp] theorem send_hbmTest (o : Output) : (s.send o).hbmTest = s.hbmTest := rfl
@[simp] theorem send_tele (o : Output) : (s.send o).tele = s.tele := rfl

@[simp] theorem fresh_pending : (s.fresh.2).pending = s.pending := rfl
@[simp] theorem fresh_actor : (s.fresh.2).actor = s.actor := rfl
@[simp] theorem fresh_outbox : (s.fresh.2).outbox = s.outbox := rfl
@[simp] theorem fresh_freeGen : (s.fresh.2).freeGen = s.freeGen := rfl
@[simp] theorem fresh_fuses : (s.fresh.2).fuses = s.fuses := rfl
@[simp] theorem fresh_life : (s.fresh.2).life = s.life := rfl
@[simp] theorem fresh_clock : (s.fresh.2).clock = s.clock := rfl
@[simp] theorem fresh_pcie : (s.fresh.2).pcie = s.pcie := rfl
@[simp] theorem fresh_host : (s.fresh.2).host = s.host := rfl
@[simp] theorem fresh_mem : (s.fresh.2).mem = s.mem := rfl
@[simp] theorem fresh_numerics : (s.fresh.2).numerics = s.numerics := rfl
@[simp] theorem fresh_plate : (s.fresh.2).plate = s.plate := rfl
@[simp] theorem fresh_vec : (s.fresh.2).vec = s.vec := rfl
@[simp] theorem fresh_seq : (s.fresh.2).seq = s.seq := rfl
@[simp] theorem fresh_net : (s.fresh.2).net = s.net := rfl
@[simp] theorem fresh_proof : (s.fresh.2).proof = s.proof := rfl
@[simp] theorem fresh_power : (s.fresh.2).power = s.power := rfl
@[simp] theorem fresh_fw : (s.fresh.2).fw = s.fw := rfl
@[simp] theorem fresh_hbmTest : (s.fresh.2).hbmTest = s.hbmTest := rfl
@[simp] theorem fresh_tele : (s.fresh.2).tele = s.tele := rfl

@[simp] theorem draw_pending : (s.draw.2).pending = s.pending := rfl
@[simp] theorem draw_actor : (s.draw.2).actor = s.actor := rfl
@[simp] theorem draw_outbox : (s.draw.2).outbox = s.outbox := rfl
@[simp] theorem draw_nextId : (s.draw.2).nextId = s.nextId := rfl
@[simp] theorem draw_fuses : (s.draw.2).fuses = s.fuses := rfl
@[simp] theorem draw_life : (s.draw.2).life = s.life := rfl
@[simp] theorem draw_clock : (s.draw.2).clock = s.clock := rfl
@[simp] theorem draw_pcie : (s.draw.2).pcie = s.pcie := rfl
@[simp] theorem draw_host : (s.draw.2).host = s.host := rfl
@[simp] theorem draw_mem : (s.draw.2).mem = s.mem := rfl
@[simp] theorem draw_numerics : (s.draw.2).numerics = s.numerics := rfl
@[simp] theorem draw_plate : (s.draw.2).plate = s.plate := rfl
@[simp] theorem draw_vec : (s.draw.2).vec = s.vec := rfl
@[simp] theorem draw_seq : (s.draw.2).seq = s.seq := rfl
@[simp] theorem draw_net : (s.draw.2).net = s.net := rfl
@[simp] theorem draw_proof : (s.draw.2).proof = s.proof := rfl
@[simp] theorem draw_power : (s.draw.2).power = s.power := rfl
@[simp] theorem draw_fw : (s.draw.2).fw = s.fw := rfl
@[simp] theorem draw_hbmTest : (s.draw.2).hbmTest = s.hbmTest := rfl
@[simp] theorem draw_tele : (s.draw.2).tele = s.tele := rfl

@[simp] theorem count_pending (off n : Nat) : (s.count off n).pending = s.pending := rfl
@[simp] theorem count_actor (off n : Nat) : (s.count off n).actor = s.actor := rfl
@[simp] theorem count_outbox (off n : Nat) : (s.count off n).outbox = s.outbox := rfl
@[simp] theorem count_freeGen (off n : Nat) : (s.count off n).freeGen = s.freeGen := rfl
@[simp] theorem count_nextId (off n : Nat) : (s.count off n).nextId = s.nextId := rfl
@[simp] theorem count_fuses (off n : Nat) : (s.count off n).fuses = s.fuses := rfl
@[simp] theorem count_life (off n : Nat) : (s.count off n).life = s.life := rfl
@[simp] theorem count_clock (off n : Nat) : (s.count off n).clock = s.clock := rfl
@[simp] theorem count_pcie (off n : Nat) : (s.count off n).pcie = s.pcie := rfl
@[simp] theorem count_host (off n : Nat) : (s.count off n).host = s.host := rfl
@[simp] theorem count_mem (off n : Nat) : (s.count off n).mem = s.mem := rfl
@[simp] theorem count_numerics (off n : Nat) : (s.count off n).numerics = s.numerics := rfl
@[simp] theorem count_plate (off n : Nat) : (s.count off n).plate = s.plate := rfl
@[simp] theorem count_vec (off n : Nat) : (s.count off n).vec = s.vec := rfl
@[simp] theorem count_seq (off n : Nat) : (s.count off n).seq = s.seq := rfl
@[simp] theorem count_net (off n : Nat) : (s.count off n).net = s.net := rfl
@[simp] theorem count_proof (off n : Nat) : (s.count off n).proof = s.proof := rfl
@[simp] theorem count_power (off n : Nat) : (s.count off n).power = s.power := rfl
@[simp] theorem count_fw (off n : Nat) : (s.count off n).fw = s.fw := rfl
@[simp] theorem count_hbmTest (off n : Nat) : (s.count off n).hbmTest = s.hbmTest := rfl

end

/-! ### Rings and queues -/

section

variable (s : State)

@[simp] theorem setRing_pending (n : Nat) (r : Ring) : (s.setRing n r).pending = s.pending := rfl
@[simp] theorem setRing_actor (n : Nat) (r : Ring) : (s.setRing n r).actor = s.actor := rfl
@[simp] theorem setRing_outbox (n : Nat) (r : Ring) : (s.setRing n r).outbox = s.outbox := rfl
@[simp] theorem setRing_freeGen (n : Nat) (r : Ring) : (s.setRing n r).freeGen = s.freeGen := rfl
@[simp] theorem setRing_nextId (n : Nat) (r : Ring) : (s.setRing n r).nextId = s.nextId := rfl
@[simp] theorem setRing_fuses (n : Nat) (r : Ring) : (s.setRing n r).fuses = s.fuses := rfl
@[simp] theorem setRing_life (n : Nat) (r : Ring) : (s.setRing n r).life = s.life := rfl
@[simp] theorem setRing_clock (n : Nat) (r : Ring) : (s.setRing n r).clock = s.clock := rfl
@[simp] theorem setRing_pcie (n : Nat) (r : Ring) : (s.setRing n r).pcie = s.pcie := rfl
@[simp] theorem setRing_mem (n : Nat) (r : Ring) : (s.setRing n r).mem = s.mem := rfl
@[simp] theorem setRing_numerics (n : Nat) (r : Ring) : (s.setRing n r).numerics = s.numerics := rfl
@[simp] theorem setRing_plate (n : Nat) (r : Ring) : (s.setRing n r).plate = s.plate := rfl
@[simp] theorem setRing_vec (n : Nat) (r : Ring) : (s.setRing n r).vec = s.vec := rfl
@[simp] theorem setRing_seq (n : Nat) (r : Ring) : (s.setRing n r).seq = s.seq := rfl
@[simp] theorem setRing_net (n : Nat) (r : Ring) : (s.setRing n r).net = s.net := rfl
@[simp] theorem setRing_proof (n : Nat) (r : Ring) : (s.setRing n r).proof = s.proof := rfl
@[simp] theorem setRing_power (n : Nat) (r : Ring) : (s.setRing n r).power = s.power := rfl
@[simp] theorem setRing_fw (n : Nat) (r : Ring) : (s.setRing n r).fw = s.fw := rfl
@[simp] theorem setRing_hbmTest (n : Nat) (r : Ring) : (s.setRing n r).hbmTest = s.hbmTest := rfl
@[simp] theorem setRing_tele (n : Nat) (r : Ring) : (s.setRing n r).tele = s.tele := rfl

@[simp] theorem setCq_pending (n : Nat) (c : CQ) : (s.setCq n c).pending = s.pending := rfl
@[simp] theorem setCq_actor (n : Nat) (c : CQ) : (s.setCq n c).actor = s.actor := rfl
@[simp] theorem setCq_outbox (n : Nat) (c : CQ) : (s.setCq n c).outbox = s.outbox := rfl
@[simp] theorem setCq_freeGen (n : Nat) (c : CQ) : (s.setCq n c).freeGen = s.freeGen := rfl
@[simp] theorem setCq_nextId (n : Nat) (c : CQ) : (s.setCq n c).nextId = s.nextId := rfl
@[simp] theorem setCq_fuses (n : Nat) (c : CQ) : (s.setCq n c).fuses = s.fuses := rfl
@[simp] theorem setCq_life (n : Nat) (c : CQ) : (s.setCq n c).life = s.life := rfl
@[simp] theorem setCq_clock (n : Nat) (c : CQ) : (s.setCq n c).clock = s.clock := rfl
@[simp] theorem setCq_pcie (n : Nat) (c : CQ) : (s.setCq n c).pcie = s.pcie := rfl
@[simp] theorem setCq_mem (n : Nat) (c : CQ) : (s.setCq n c).mem = s.mem := rfl
@[simp] theorem setCq_numerics (n : Nat) (c : CQ) : (s.setCq n c).numerics = s.numerics := rfl
@[simp] theorem setCq_plate (n : Nat) (c : CQ) : (s.setCq n c).plate = s.plate := rfl
@[simp] theorem setCq_vec (n : Nat) (c : CQ) : (s.setCq n c).vec = s.vec := rfl
@[simp] theorem setCq_seq (n : Nat) (c : CQ) : (s.setCq n c).seq = s.seq := rfl
@[simp] theorem setCq_net (n : Nat) (c : CQ) : (s.setCq n c).net = s.net := rfl
@[simp] theorem setCq_proof (n : Nat) (c : CQ) : (s.setCq n c).proof = s.proof := rfl
@[simp] theorem setCq_power (n : Nat) (c : CQ) : (s.setCq n c).power = s.power := rfl
@[simp] theorem setCq_fw (n : Nat) (c : CQ) : (s.setCq n c).fw = s.fw := rfl
@[simp] theorem setCq_hbmTest (n : Nat) (c : CQ) : (s.setCq n c).hbmTest = s.hbmTest := rfl
@[simp] theorem setCq_tele (n : Nat) (c : CQ) : (s.setCq n c).tele = s.tele := rfl

end

/-! ### The sequencer -/

section

variable (s : State)

@[simp] theorem setOp_pending (o : Op) : (s.setOp o).pending = s.pending := rfl
@[simp] theorem setOp_actor (o : Op) : (s.setOp o).actor = s.actor := rfl
@[simp] theorem setOp_outbox (o : Op) : (s.setOp o).outbox = s.outbox := rfl
@[simp] theorem setOp_freeGen (o : Op) : (s.setOp o).freeGen = s.freeGen := rfl
@[simp] theorem setOp_nextId (o : Op) : (s.setOp o).nextId = s.nextId := rfl
@[simp] theorem setOp_fuses (o : Op) : (s.setOp o).fuses = s.fuses := rfl
@[simp] theorem setOp_life (o : Op) : (s.setOp o).life = s.life := rfl
@[simp] theorem setOp_clock (o : Op) : (s.setOp o).clock = s.clock := rfl
@[simp] theorem setOp_pcie (o : Op) : (s.setOp o).pcie = s.pcie := rfl
@[simp] theorem setOp_host (o : Op) : (s.setOp o).host = s.host := rfl
@[simp] theorem setOp_mem (o : Op) : (s.setOp o).mem = s.mem := rfl
@[simp] theorem setOp_numerics (o : Op) : (s.setOp o).numerics = s.numerics := rfl
@[simp] theorem setOp_plate (o : Op) : (s.setOp o).plate = s.plate := rfl
@[simp] theorem setOp_vec (o : Op) : (s.setOp o).vec = s.vec := rfl
@[simp] theorem setOp_net (o : Op) : (s.setOp o).net = s.net := rfl
@[simp] theorem setOp_proof (o : Op) : (s.setOp o).proof = s.proof := rfl
@[simp] theorem setOp_power (o : Op) : (s.setOp o).power = s.power := rfl
@[simp] theorem setOp_fw (o : Op) : (s.setOp o).fw = s.fw := rfl
@[simp] theorem setOp_hbmTest (o : Op) : (s.setOp o).hbmTest = s.hbmTest := rfl
@[simp] theorem setOp_tele (o : Op) : (s.setOp o).tele = s.tele := rfl

@[simp] theorem dropOp_pending (id : Nat) : (s.dropOp id).pending = s.pending := rfl
@[simp] theorem dropOp_actor (id : Nat) : (s.dropOp id).actor = s.actor := rfl
@[simp] theorem dropOp_outbox (id : Nat) : (s.dropOp id).outbox = s.outbox := rfl
@[simp] theorem dropOp_freeGen (id : Nat) : (s.dropOp id).freeGen = s.freeGen := rfl
@[simp] theorem dropOp_nextId (id : Nat) : (s.dropOp id).nextId = s.nextId := rfl
@[simp] theorem dropOp_fuses (id : Nat) : (s.dropOp id).fuses = s.fuses := rfl
@[simp] theorem dropOp_life (id : Nat) : (s.dropOp id).life = s.life := rfl
@[simp] theorem dropOp_clock (id : Nat) : (s.dropOp id).clock = s.clock := rfl
@[simp] theorem dropOp_pcie (id : Nat) : (s.dropOp id).pcie = s.pcie := rfl
@[simp] theorem dropOp_host (id : Nat) : (s.dropOp id).host = s.host := rfl
@[simp] theorem dropOp_mem (id : Nat) : (s.dropOp id).mem = s.mem := rfl
@[simp] theorem dropOp_numerics (id : Nat) : (s.dropOp id).numerics = s.numerics := rfl
@[simp] theorem dropOp_plate (id : Nat) : (s.dropOp id).plate = s.plate := rfl
@[simp] theorem dropOp_vec (id : Nat) : (s.dropOp id).vec = s.vec := rfl
@[simp] theorem dropOp_net (id : Nat) : (s.dropOp id).net = s.net := rfl
@[simp] theorem dropOp_proof (id : Nat) : (s.dropOp id).proof = s.proof := rfl
@[simp] theorem dropOp_power (id : Nat) : (s.dropOp id).power = s.power := rfl
@[simp] theorem dropOp_fw (id : Nat) : (s.dropOp id).fw = s.fw := rfl
@[simp] theorem dropOp_hbmTest (id : Nat) : (s.dropOp id).hbmTest = s.hbmTest := rfl
@[simp] theorem dropOp_tele (id : Nat) : (s.dropOp id).tele = s.tele := rfl

@[simp] theorem setProgram_pending (p : Program) : (s.setProgram p).pending = s.pending := rfl
@[simp] theorem setProgram_actor (p : Program) : (s.setProgram p).actor = s.actor := rfl
@[simp] theorem setProgram_outbox (p : Program) : (s.setProgram p).outbox = s.outbox := rfl
@[simp] theorem setProgram_freeGen (p : Program) : (s.setProgram p).freeGen = s.freeGen := rfl
@[simp] theorem setProgram_nextId (p : Program) : (s.setProgram p).nextId = s.nextId := rfl
@[simp] theorem setProgram_fuses (p : Program) : (s.setProgram p).fuses = s.fuses := rfl
@[simp] theorem setProgram_life (p : Program) : (s.setProgram p).life = s.life := rfl
@[simp] theorem setProgram_clock (p : Program) : (s.setProgram p).clock = s.clock := rfl
@[simp] theorem setProgram_pcie (p : Program) : (s.setProgram p).pcie = s.pcie := rfl
@[simp] theorem setProgram_host (p : Program) : (s.setProgram p).host = s.host := rfl
@[simp] theorem setProgram_mem (p : Program) : (s.setProgram p).mem = s.mem := rfl
@[simp] theorem setProgram_numerics (p : Program) : (s.setProgram p).numerics = s.numerics := rfl
@[simp] theorem setProgram_plate (p : Program) : (s.setProgram p).plate = s.plate := rfl
@[simp] theorem setProgram_vec (p : Program) : (s.setProgram p).vec = s.vec := rfl
@[simp] theorem setProgram_net (p : Program) : (s.setProgram p).net = s.net := rfl
@[simp] theorem setProgram_proof (p : Program) : (s.setProgram p).proof = s.proof := rfl
@[simp] theorem setProgram_power (p : Program) : (s.setProgram p).power = s.power := rfl
@[simp] theorem setProgram_fw (p : Program) : (s.setProgram p).fw = s.fw := rfl
@[simp] theorem setProgram_hbmTest (p : Program) : (s.setProgram p).hbmTest = s.hbmTest := rfl
@[simp] theorem setProgram_tele (p : Program) : (s.setProgram p).tele = s.tele := rfl

end

/-! ### The plate, the scale book and the collectives -/

section

variable (s : State)

@[simp] theorem setMat_pending (r : MatRun) : (s.setMat r).pending = s.pending := rfl
@[simp] theorem setMat_actor (r : MatRun) : (s.setMat r).actor = s.actor := rfl
@[simp] theorem setMat_outbox (r : MatRun) : (s.setMat r).outbox = s.outbox := rfl
@[simp] theorem setMat_freeGen (r : MatRun) : (s.setMat r).freeGen = s.freeGen := rfl
@[simp] theorem setMat_nextId (r : MatRun) : (s.setMat r).nextId = s.nextId := rfl
@[simp] theorem setMat_fuses (r : MatRun) : (s.setMat r).fuses = s.fuses := rfl
@[simp] theorem setMat_life (r : MatRun) : (s.setMat r).life = s.life := rfl
@[simp] theorem setMat_clock (r : MatRun) : (s.setMat r).clock = s.clock := rfl
@[simp] theorem setMat_pcie (r : MatRun) : (s.setMat r).pcie = s.pcie := rfl
@[simp] theorem setMat_host (r : MatRun) : (s.setMat r).host = s.host := rfl
@[simp] theorem setMat_mem (r : MatRun) : (s.setMat r).mem = s.mem := rfl
@[simp] theorem setMat_numerics (r : MatRun) : (s.setMat r).numerics = s.numerics := rfl
@[simp] theorem setMat_vec (r : MatRun) : (s.setMat r).vec = s.vec := rfl
@[simp] theorem setMat_seq (r : MatRun) : (s.setMat r).seq = s.seq := rfl
@[simp] theorem setMat_net (r : MatRun) : (s.setMat r).net = s.net := rfl
@[simp] theorem setMat_proof (r : MatRun) : (s.setMat r).proof = s.proof := rfl
@[simp] theorem setMat_power (r : MatRun) : (s.setMat r).power = s.power := rfl
@[simp] theorem setMat_fw (r : MatRun) : (s.setMat r).fw = s.fw := rfl
@[simp] theorem setMat_hbmTest (r : MatRun) : (s.setMat r).hbmTest = s.hbmTest := rfl
@[simp] theorem setMat_tele (r : MatRun) : (s.setMat r).tele = s.tele := rfl

@[simp] theorem dropMat_pending (op : Nat) : (s.dropMat op).pending = s.pending := rfl
@[simp] theorem dropMat_actor (op : Nat) : (s.dropMat op).actor = s.actor := rfl
@[simp] theorem dropMat_outbox (op : Nat) : (s.dropMat op).outbox = s.outbox := rfl
@[simp] theorem dropMat_freeGen (op : Nat) : (s.dropMat op).freeGen = s.freeGen := rfl
@[simp] theorem dropMat_nextId (op : Nat) : (s.dropMat op).nextId = s.nextId := rfl
@[simp] theorem dropMat_fuses (op : Nat) : (s.dropMat op).fuses = s.fuses := rfl
@[simp] theorem dropMat_life (op : Nat) : (s.dropMat op).life = s.life := rfl
@[simp] theorem dropMat_clock (op : Nat) : (s.dropMat op).clock = s.clock := rfl
@[simp] theorem dropMat_pcie (op : Nat) : (s.dropMat op).pcie = s.pcie := rfl
@[simp] theorem dropMat_host (op : Nat) : (s.dropMat op).host = s.host := rfl
@[simp] theorem dropMat_mem (op : Nat) : (s.dropMat op).mem = s.mem := rfl
@[simp] theorem dropMat_numerics (op : Nat) : (s.dropMat op).numerics = s.numerics := rfl
@[simp] theorem dropMat_vec (op : Nat) : (s.dropMat op).vec = s.vec := rfl
@[simp] theorem dropMat_seq (op : Nat) : (s.dropMat op).seq = s.seq := rfl
@[simp] theorem dropMat_net (op : Nat) : (s.dropMat op).net = s.net := rfl
@[simp] theorem dropMat_proof (op : Nat) : (s.dropMat op).proof = s.proof := rfl
@[simp] theorem dropMat_power (op : Nat) : (s.dropMat op).power = s.power := rfl
@[simp] theorem dropMat_fw (op : Nat) : (s.dropMat op).fw = s.fw := rfl
@[simp] theorem dropMat_hbmTest (op : Nat) : (s.dropMat op).hbmTest = s.hbmTest := rfl
@[simp] theorem dropMat_tele (op : Nat) : (s.dropMat op).tele = s.tele := rfl

@[simp] theorem setEntry_pending (i : Nat) (e : Entry) : (s.setEntry i e).pending = s.pending := rfl
@[simp] theorem setEntry_actor (i : Nat) (e : Entry) : (s.setEntry i e).actor = s.actor := rfl
@[simp] theorem setEntry_outbox (i : Nat) (e : Entry) : (s.setEntry i e).outbox = s.outbox := rfl
@[simp] theorem setEntry_freeGen (i : Nat) (e : Entry) : (s.setEntry i e).freeGen = s.freeGen := rfl
@[simp] theorem setEntry_nextId (i : Nat) (e : Entry) : (s.setEntry i e).nextId = s.nextId := rfl
@[simp] theorem setEntry_fuses (i : Nat) (e : Entry) : (s.setEntry i e).fuses = s.fuses := rfl
@[simp] theorem setEntry_life (i : Nat) (e : Entry) : (s.setEntry i e).life = s.life := rfl
@[simp] theorem setEntry_clock (i : Nat) (e : Entry) : (s.setEntry i e).clock = s.clock := rfl
@[simp] theorem setEntry_pcie (i : Nat) (e : Entry) : (s.setEntry i e).pcie = s.pcie := rfl
@[simp] theorem setEntry_host (i : Nat) (e : Entry) : (s.setEntry i e).host = s.host := rfl
@[simp] theorem setEntry_mem (i : Nat) (e : Entry) : (s.setEntry i e).mem = s.mem := rfl
@[simp] theorem setEntry_plate (i : Nat) (e : Entry) : (s.setEntry i e).plate = s.plate := rfl
@[simp] theorem setEntry_vec (i : Nat) (e : Entry) : (s.setEntry i e).vec = s.vec := rfl
@[simp] theorem setEntry_seq (i : Nat) (e : Entry) : (s.setEntry i e).seq = s.seq := rfl
@[simp] theorem setEntry_net (i : Nat) (e : Entry) : (s.setEntry i e).net = s.net := rfl
@[simp] theorem setEntry_proof (i : Nat) (e : Entry) : (s.setEntry i e).proof = s.proof := rfl
@[simp] theorem setEntry_power (i : Nat) (e : Entry) : (s.setEntry i e).power = s.power := rfl
@[simp] theorem setEntry_fw (i : Nat) (e : Entry) : (s.setEntry i e).fw = s.fw := rfl
@[simp] theorem setEntry_hbmTest (i : Nat) (e : Entry) : (s.setEntry i e).hbmTest = s.hbmTest := rfl
@[simp] theorem setEntry_tele (i : Nat) (e : Entry) : (s.setEntry i e).tele = s.tele := rfl

@[simp] theorem setColl_pending (r : CollRun) : (s.setColl r).pending = s.pending := rfl
@[simp] theorem setColl_actor (r : CollRun) : (s.setColl r).actor = s.actor := rfl
@[simp] theorem setColl_outbox (r : CollRun) : (s.setColl r).outbox = s.outbox := rfl
@[simp] theorem setColl_freeGen (r : CollRun) : (s.setColl r).freeGen = s.freeGen := rfl
@[simp] theorem setColl_nextId (r : CollRun) : (s.setColl r).nextId = s.nextId := rfl
@[simp] theorem setColl_fuses (r : CollRun) : (s.setColl r).fuses = s.fuses := rfl
@[simp] theorem setColl_life (r : CollRun) : (s.setColl r).life = s.life := rfl
@[simp] theorem setColl_clock (r : CollRun) : (s.setColl r).clock = s.clock := rfl
@[simp] theorem setColl_pcie (r : CollRun) : (s.setColl r).pcie = s.pcie := rfl
@[simp] theorem setColl_host (r : CollRun) : (s.setColl r).host = s.host := rfl
@[simp] theorem setColl_mem (r : CollRun) : (s.setColl r).mem = s.mem := rfl
@[simp] theorem setColl_numerics (r : CollRun) : (s.setColl r).numerics = s.numerics := rfl
@[simp] theorem setColl_plate (r : CollRun) : (s.setColl r).plate = s.plate := rfl
@[simp] theorem setColl_vec (r : CollRun) : (s.setColl r).vec = s.vec := rfl
@[simp] theorem setColl_seq (r : CollRun) : (s.setColl r).seq = s.seq := rfl
@[simp] theorem setColl_proof (r : CollRun) : (s.setColl r).proof = s.proof := rfl
@[simp] theorem setColl_power (r : CollRun) : (s.setColl r).power = s.power := rfl
@[simp] theorem setColl_fw (r : CollRun) : (s.setColl r).fw = s.fw := rfl
@[simp] theorem setColl_hbmTest (r : CollRun) : (s.setColl r).hbmTest = s.hbmTest := rfl
@[simp] theorem setColl_tele (r : CollRun) : (s.setColl r).tele = s.tele := rfl

@[simp] theorem closeColl_pending (id : BitVec 32) (epoch status : Nat) (rank : Option Nat) : (s.closeColl id epoch status rank).pending = s.pending := rfl
@[simp] theorem closeColl_actor (id : BitVec 32) (epoch status : Nat) (rank : Option Nat) : (s.closeColl id epoch status rank).actor = s.actor := rfl
@[simp] theorem closeColl_outbox (id : BitVec 32) (epoch status : Nat) (rank : Option Nat) : (s.closeColl id epoch status rank).outbox = s.outbox := rfl
@[simp] theorem closeColl_freeGen (id : BitVec 32) (epoch status : Nat) (rank : Option Nat) : (s.closeColl id epoch status rank).freeGen = s.freeGen := rfl
@[simp] theorem closeColl_nextId (id : BitVec 32) (epoch status : Nat) (rank : Option Nat) : (s.closeColl id epoch status rank).nextId = s.nextId := rfl
@[simp] theorem closeColl_fuses (id : BitVec 32) (epoch status : Nat) (rank : Option Nat) : (s.closeColl id epoch status rank).fuses = s.fuses := rfl
@[simp] theorem closeColl_life (id : BitVec 32) (epoch status : Nat) (rank : Option Nat) : (s.closeColl id epoch status rank).life = s.life := rfl
@[simp] theorem closeColl_clock (id : BitVec 32) (epoch status : Nat) (rank : Option Nat) : (s.closeColl id epoch status rank).clock = s.clock := rfl
@[simp] theorem closeColl_pcie (id : BitVec 32) (epoch status : Nat) (rank : Option Nat) : (s.closeColl id epoch status rank).pcie = s.pcie := rfl
@[simp] theorem closeColl_host (id : BitVec 32) (epoch status : Nat) (rank : Option Nat) : (s.closeColl id epoch status rank).host = s.host := rfl
@[simp] theorem closeColl_mem (id : BitVec 32) (epoch status : Nat) (rank : Option Nat) : (s.closeColl id epoch status rank).mem = s.mem := rfl
@[simp] theorem closeColl_numerics (id : BitVec 32) (epoch status : Nat) (rank : Option Nat) : (s.closeColl id epoch status rank).numerics = s.numerics := rfl
@[simp] theorem closeColl_plate (id : BitVec 32) (epoch status : Nat) (rank : Option Nat) : (s.closeColl id epoch status rank).plate = s.plate := rfl
@[simp] theorem closeColl_vec (id : BitVec 32) (epoch status : Nat) (rank : Option Nat) : (s.closeColl id epoch status rank).vec = s.vec := rfl
@[simp] theorem closeColl_seq (id : BitVec 32) (epoch status : Nat) (rank : Option Nat) : (s.closeColl id epoch status rank).seq = s.seq := rfl
@[simp] theorem closeColl_proof (id : BitVec 32) (epoch status : Nat) (rank : Option Nat) : (s.closeColl id epoch status rank).proof = s.proof := rfl
@[simp] theorem closeColl_power (id : BitVec 32) (epoch status : Nat) (rank : Option Nat) : (s.closeColl id epoch status rank).power = s.power := rfl
@[simp] theorem closeColl_fw (id : BitVec 32) (epoch status : Nat) (rank : Option Nat) : (s.closeColl id epoch status rank).fw = s.fw := rfl
@[simp] theorem closeColl_hbmTest (id : BitVec 32) (epoch status : Nat) (rank : Option Nat) : (s.closeColl id epoch status rank).hbmTest = s.hbmTest := rfl
@[simp] theorem closeColl_tele (id : BitVec 32) (epoch status : Nat) (rank : Option Nat) : (s.closeColl id epoch status rank).tele = s.tele := rfl

end

/-! ### Ports, channels, sessions and queue pairs -/

section

variable (s : State)

@[simp] theorem setPort_pending (p : Nat) (x : Port) : (s.setPort p x).pending = s.pending := rfl
@[simp] theorem setPort_actor (p : Nat) (x : Port) : (s.setPort p x).actor = s.actor := rfl
@[simp] theorem setPort_outbox (p : Nat) (x : Port) : (s.setPort p x).outbox = s.outbox := rfl
@[simp] theorem setPort_freeGen (p : Nat) (x : Port) : (s.setPort p x).freeGen = s.freeGen := rfl
@[simp] theorem setPort_nextId (p : Nat) (x : Port) : (s.setPort p x).nextId = s.nextId := rfl
@[simp] theorem setPort_fuses (p : Nat) (x : Port) : (s.setPort p x).fuses = s.fuses := rfl
@[simp] theorem setPort_life (p : Nat) (x : Port) : (s.setPort p x).life = s.life := rfl
@[simp] theorem setPort_clock (p : Nat) (x : Port) : (s.setPort p x).clock = s.clock := rfl
@[simp] theorem setPort_pcie (p : Nat) (x : Port) : (s.setPort p x).pcie = s.pcie := rfl
@[simp] theorem setPort_host (p : Nat) (x : Port) : (s.setPort p x).host = s.host := rfl
@[simp] theorem setPort_mem (p : Nat) (x : Port) : (s.setPort p x).mem = s.mem := rfl
@[simp] theorem setPort_numerics (p : Nat) (x : Port) : (s.setPort p x).numerics = s.numerics := rfl
@[simp] theorem setPort_plate (p : Nat) (x : Port) : (s.setPort p x).plate = s.plate := rfl
@[simp] theorem setPort_vec (p : Nat) (x : Port) : (s.setPort p x).vec = s.vec := rfl
@[simp] theorem setPort_seq (p : Nat) (x : Port) : (s.setPort p x).seq = s.seq := rfl
@[simp] theorem setPort_proof (p : Nat) (x : Port) : (s.setPort p x).proof = s.proof := rfl
@[simp] theorem setPort_power (p : Nat) (x : Port) : (s.setPort p x).power = s.power := rfl
@[simp] theorem setPort_fw (p : Nat) (x : Port) : (s.setPort p x).fw = s.fw := rfl
@[simp] theorem setPort_hbmTest (p : Nat) (x : Port) : (s.setPort p x).hbmTest = s.hbmTest := rfl
@[simp] theorem setPort_tele (p : Nat) (x : Port) : (s.setPort p x).tele = s.tele := rfl

@[simp] theorem setChannel_pending (m : Nat) (c : Channel) : (s.setChannel m c).pending = s.pending := rfl
@[simp] theorem setChannel_actor (m : Nat) (c : Channel) : (s.setChannel m c).actor = s.actor := rfl
@[simp] theorem setChannel_outbox (m : Nat) (c : Channel) : (s.setChannel m c).outbox = s.outbox := rfl
@[simp] theorem setChannel_freeGen (m : Nat) (c : Channel) : (s.setChannel m c).freeGen = s.freeGen := rfl
@[simp] theorem setChannel_nextId (m : Nat) (c : Channel) : (s.setChannel m c).nextId = s.nextId := rfl
@[simp] theorem setChannel_fuses (m : Nat) (c : Channel) : (s.setChannel m c).fuses = s.fuses := rfl
@[simp] theorem setChannel_life (m : Nat) (c : Channel) : (s.setChannel m c).life = s.life := rfl
@[simp] theorem setChannel_clock (m : Nat) (c : Channel) : (s.setChannel m c).clock = s.clock := rfl
@[simp] theorem setChannel_pcie (m : Nat) (c : Channel) : (s.setChannel m c).pcie = s.pcie := rfl
@[simp] theorem setChannel_host (m : Nat) (c : Channel) : (s.setChannel m c).host = s.host := rfl
@[simp] theorem setChannel_mem (m : Nat) (c : Channel) : (s.setChannel m c).mem = s.mem := rfl
@[simp] theorem setChannel_numerics (m : Nat) (c : Channel) : (s.setChannel m c).numerics = s.numerics := rfl
@[simp] theorem setChannel_plate (m : Nat) (c : Channel) : (s.setChannel m c).plate = s.plate := rfl
@[simp] theorem setChannel_vec (m : Nat) (c : Channel) : (s.setChannel m c).vec = s.vec := rfl
@[simp] theorem setChannel_seq (m : Nat) (c : Channel) : (s.setChannel m c).seq = s.seq := rfl
@[simp] theorem setChannel_proof (m : Nat) (c : Channel) : (s.setChannel m c).proof = s.proof := rfl
@[simp] theorem setChannel_power (m : Nat) (c : Channel) : (s.setChannel m c).power = s.power := rfl
@[simp] theorem setChannel_fw (m : Nat) (c : Channel) : (s.setChannel m c).fw = s.fw := rfl
@[simp] theorem setChannel_hbmTest (m : Nat) (c : Channel) : (s.setChannel m c).hbmTest = s.hbmTest := rfl
@[simp] theorem setChannel_tele (m : Nat) (c : Channel) : (s.setChannel m c).tele = s.tele := rfl

@[simp] theorem setSession_pending (n : Nat) (x : Session) : (s.setSession n x).pending = s.pending := rfl
@[simp] theorem setSession_actor (n : Nat) (x : Session) : (s.setSession n x).actor = s.actor := rfl
@[simp] theorem setSession_outbox (n : Nat) (x : Session) : (s.setSession n x).outbox = s.outbox := rfl
@[simp] theorem setSession_freeGen (n : Nat) (x : Session) : (s.setSession n x).freeGen = s.freeGen := rfl
@[simp] theorem setSession_nextId (n : Nat) (x : Session) : (s.setSession n x).nextId = s.nextId := rfl
@[simp] theorem setSession_fuses (n : Nat) (x : Session) : (s.setSession n x).fuses = s.fuses := rfl
@[simp] theorem setSession_life (n : Nat) (x : Session) : (s.setSession n x).life = s.life := rfl
@[simp] theorem setSession_clock (n : Nat) (x : Session) : (s.setSession n x).clock = s.clock := rfl
@[simp] theorem setSession_pcie (n : Nat) (x : Session) : (s.setSession n x).pcie = s.pcie := rfl
@[simp] theorem setSession_host (n : Nat) (x : Session) : (s.setSession n x).host = s.host := rfl
@[simp] theorem setSession_mem (n : Nat) (x : Session) : (s.setSession n x).mem = s.mem := rfl
@[simp] theorem setSession_numerics (n : Nat) (x : Session) : (s.setSession n x).numerics = s.numerics := rfl
@[simp] theorem setSession_plate (n : Nat) (x : Session) : (s.setSession n x).plate = s.plate := rfl
@[simp] theorem setSession_vec (n : Nat) (x : Session) : (s.setSession n x).vec = s.vec := rfl
@[simp] theorem setSession_seq (n : Nat) (x : Session) : (s.setSession n x).seq = s.seq := rfl
@[simp] theorem setSession_proof (n : Nat) (x : Session) : (s.setSession n x).proof = s.proof := rfl
@[simp] theorem setSession_power (n : Nat) (x : Session) : (s.setSession n x).power = s.power := rfl
@[simp] theorem setSession_fw (n : Nat) (x : Session) : (s.setSession n x).fw = s.fw := rfl
@[simp] theorem setSession_hbmTest (n : Nat) (x : Session) : (s.setSession n x).hbmTest = s.hbmTest := rfl
@[simp] theorem setSession_tele (n : Nat) (x : Session) : (s.setSession n x).tele = s.tele := rfl

@[simp] theorem setQp_pending (k : Nat) (q : QP) : (s.setQp k q).pending = s.pending := rfl
@[simp] theorem setQp_actor (k : Nat) (q : QP) : (s.setQp k q).actor = s.actor := rfl
@[simp] theorem setQp_outbox (k : Nat) (q : QP) : (s.setQp k q).outbox = s.outbox := rfl
@[simp] theorem setQp_freeGen (k : Nat) (q : QP) : (s.setQp k q).freeGen = s.freeGen := rfl
@[simp] theorem setQp_nextId (k : Nat) (q : QP) : (s.setQp k q).nextId = s.nextId := rfl
@[simp] theorem setQp_fuses (k : Nat) (q : QP) : (s.setQp k q).fuses = s.fuses := rfl
@[simp] theorem setQp_life (k : Nat) (q : QP) : (s.setQp k q).life = s.life := rfl
@[simp] theorem setQp_clock (k : Nat) (q : QP) : (s.setQp k q).clock = s.clock := rfl
@[simp] theorem setQp_pcie (k : Nat) (q : QP) : (s.setQp k q).pcie = s.pcie := rfl
@[simp] theorem setQp_host (k : Nat) (q : QP) : (s.setQp k q).host = s.host := rfl
@[simp] theorem setQp_mem (k : Nat) (q : QP) : (s.setQp k q).mem = s.mem := rfl
@[simp] theorem setQp_numerics (k : Nat) (q : QP) : (s.setQp k q).numerics = s.numerics := rfl
@[simp] theorem setQp_plate (k : Nat) (q : QP) : (s.setQp k q).plate = s.plate := rfl
@[simp] theorem setQp_vec (k : Nat) (q : QP) : (s.setQp k q).vec = s.vec := rfl
@[simp] theorem setQp_seq (k : Nat) (q : QP) : (s.setQp k q).seq = s.seq := rfl
@[simp] theorem setQp_proof (k : Nat) (q : QP) : (s.setQp k q).proof = s.proof := rfl
@[simp] theorem setQp_power (k : Nat) (q : QP) : (s.setQp k q).power = s.power := rfl
@[simp] theorem setQp_fw (k : Nat) (q : QP) : (s.setQp k q).fw = s.fw := rfl
@[simp] theorem setQp_hbmTest (k : Nat) (q : QP) : (s.setQp k q).hbmTest = s.hbmTest := rfl
@[simp] theorem setQp_tele (k : Nat) (q : QP) : (s.setQp k q).tele = s.tele := rfl

@[simp] theorem qpResult_pending (r : Nat) : (s.qpResult r).pending = s.pending := rfl
@[simp] theorem qpResult_actor (r : Nat) : (s.qpResult r).actor = s.actor := rfl
@[simp] theorem qpResult_outbox (r : Nat) : (s.qpResult r).outbox = s.outbox := rfl
@[simp] theorem qpResult_freeGen (r : Nat) : (s.qpResult r).freeGen = s.freeGen := rfl
@[simp] theorem qpResult_nextId (r : Nat) : (s.qpResult r).nextId = s.nextId := rfl
@[simp] theorem qpResult_fuses (r : Nat) : (s.qpResult r).fuses = s.fuses := rfl
@[simp] theorem qpResult_life (r : Nat) : (s.qpResult r).life = s.life := rfl
@[simp] theorem qpResult_clock (r : Nat) : (s.qpResult r).clock = s.clock := rfl
@[simp] theorem qpResult_pcie (r : Nat) : (s.qpResult r).pcie = s.pcie := rfl
@[simp] theorem qpResult_host (r : Nat) : (s.qpResult r).host = s.host := rfl
@[simp] theorem qpResult_mem (r : Nat) : (s.qpResult r).mem = s.mem := rfl
@[simp] theorem qpResult_numerics (r : Nat) : (s.qpResult r).numerics = s.numerics := rfl
@[simp] theorem qpResult_plate (r : Nat) : (s.qpResult r).plate = s.plate := rfl
@[simp] theorem qpResult_vec (r : Nat) : (s.qpResult r).vec = s.vec := rfl
@[simp] theorem qpResult_seq (r : Nat) : (s.qpResult r).seq = s.seq := rfl
@[simp] theorem qpResult_proof (r : Nat) : (s.qpResult r).proof = s.proof := rfl
@[simp] theorem qpResult_power (r : Nat) : (s.qpResult r).power = s.power := rfl
@[simp] theorem qpResult_fw (r : Nat) : (s.qpResult r).fw = s.fw := rfl
@[simp] theorem qpResult_hbmTest (r : Nat) : (s.qpResult r).hbmTest = s.hbmTest := rfl
@[simp] theorem qpResult_tele (r : Nat) : (s.qpResult r).tele = s.tele := rfl

end

/-! ### Power, steps and memory -/

section

variable (s : State)

@[simp] theorem setClass_pending (c : Nat) (x : EnergyClass) : (s.setClass c x).pending = s.pending := rfl
@[simp] theorem setClass_actor (c : Nat) (x : EnergyClass) : (s.setClass c x).actor = s.actor := rfl
@[simp] theorem setClass_outbox (c : Nat) (x : EnergyClass) : (s.setClass c x).outbox = s.outbox := rfl
@[simp] theorem setClass_freeGen (c : Nat) (x : EnergyClass) : (s.setClass c x).freeGen = s.freeGen := rfl
@[simp] theorem setClass_nextId (c : Nat) (x : EnergyClass) : (s.setClass c x).nextId = s.nextId := rfl
@[simp] theorem setClass_fuses (c : Nat) (x : EnergyClass) : (s.setClass c x).fuses = s.fuses := rfl
@[simp] theorem setClass_life (c : Nat) (x : EnergyClass) : (s.setClass c x).life = s.life := rfl
@[simp] theorem setClass_clock (c : Nat) (x : EnergyClass) : (s.setClass c x).clock = s.clock := rfl
@[simp] theorem setClass_pcie (c : Nat) (x : EnergyClass) : (s.setClass c x).pcie = s.pcie := rfl
@[simp] theorem setClass_host (c : Nat) (x : EnergyClass) : (s.setClass c x).host = s.host := rfl
@[simp] theorem setClass_mem (c : Nat) (x : EnergyClass) : (s.setClass c x).mem = s.mem := rfl
@[simp] theorem setClass_numerics (c : Nat) (x : EnergyClass) : (s.setClass c x).numerics = s.numerics := rfl
@[simp] theorem setClass_plate (c : Nat) (x : EnergyClass) : (s.setClass c x).plate = s.plate := rfl
@[simp] theorem setClass_vec (c : Nat) (x : EnergyClass) : (s.setClass c x).vec = s.vec := rfl
@[simp] theorem setClass_seq (c : Nat) (x : EnergyClass) : (s.setClass c x).seq = s.seq := rfl
@[simp] theorem setClass_net (c : Nat) (x : EnergyClass) : (s.setClass c x).net = s.net := rfl
@[simp] theorem setClass_proof (c : Nat) (x : EnergyClass) : (s.setClass c x).proof = s.proof := rfl
@[simp] theorem setClass_fw (c : Nat) (x : EnergyClass) : (s.setClass c x).fw = s.fw := rfl
@[simp] theorem setClass_hbmTest (c : Nat) (x : EnergyClass) : (s.setClass c x).hbmTest = s.hbmTest := rfl
@[simp] theorem setClass_tele (c : Nat) (x : EnergyClass) : (s.setClass c x).tele = s.tele := rfl

@[simp] theorem setStep_pending (r : StepRec) : (s.setStep r).pending = s.pending := rfl
@[simp] theorem setStep_actor (r : StepRec) : (s.setStep r).actor = s.actor := rfl
@[simp] theorem setStep_outbox (r : StepRec) : (s.setStep r).outbox = s.outbox := rfl
@[simp] theorem setStep_freeGen (r : StepRec) : (s.setStep r).freeGen = s.freeGen := rfl
@[simp] theorem setStep_nextId (r : StepRec) : (s.setStep r).nextId = s.nextId := rfl
@[simp] theorem setStep_fuses (r : StepRec) : (s.setStep r).fuses = s.fuses := rfl
@[simp] theorem setStep_life (r : StepRec) : (s.setStep r).life = s.life := rfl
@[simp] theorem setStep_clock (r : StepRec) : (s.setStep r).clock = s.clock := rfl
@[simp] theorem setStep_pcie (r : StepRec) : (s.setStep r).pcie = s.pcie := rfl
@[simp] theorem setStep_host (r : StepRec) : (s.setStep r).host = s.host := rfl
@[simp] theorem setStep_mem (r : StepRec) : (s.setStep r).mem = s.mem := rfl
@[simp] theorem setStep_numerics (r : StepRec) : (s.setStep r).numerics = s.numerics := rfl
@[simp] theorem setStep_plate (r : StepRec) : (s.setStep r).plate = s.plate := rfl
@[simp] theorem setStep_vec (r : StepRec) : (s.setStep r).vec = s.vec := rfl
@[simp] theorem setStep_seq (r : StepRec) : (s.setStep r).seq = s.seq := rfl
@[simp] theorem setStep_net (r : StepRec) : (s.setStep r).net = s.net := rfl
@[simp] theorem setStep_power (r : StepRec) : (s.setStep r).power = s.power := rfl
@[simp] theorem setStep_fw (r : StepRec) : (s.setStep r).fw = s.fw := rfl
@[simp] theorem setStep_hbmTest (r : StepRec) : (s.setStep r).hbmTest = s.hbmTest := rfl
@[simp] theorem setStep_tele (r : StepRec) : (s.setStep r).tele = s.tele := rfl

@[simp] theorem dirty_pending (cause : Nat) : (s.dirty cause).pending = s.pending := rfl
@[simp] theorem dirty_actor (cause : Nat) : (s.dirty cause).actor = s.actor := rfl
@[simp] theorem dirty_outbox (cause : Nat) : (s.dirty cause).outbox = s.outbox := rfl
@[simp] theorem dirty_freeGen (cause : Nat) : (s.dirty cause).freeGen = s.freeGen := rfl
@[simp] theorem dirty_nextId (cause : Nat) : (s.dirty cause).nextId = s.nextId := rfl
@[simp] theorem dirty_fuses (cause : Nat) : (s.dirty cause).fuses = s.fuses := rfl
@[simp] theorem dirty_life (cause : Nat) : (s.dirty cause).life = s.life := rfl
@[simp] theorem dirty_clock (cause : Nat) : (s.dirty cause).clock = s.clock := rfl
@[simp] theorem dirty_pcie (cause : Nat) : (s.dirty cause).pcie = s.pcie := rfl
@[simp] theorem dirty_host (cause : Nat) : (s.dirty cause).host = s.host := rfl
@[simp] theorem dirty_mem (cause : Nat) : (s.dirty cause).mem = s.mem := rfl
@[simp] theorem dirty_numerics (cause : Nat) : (s.dirty cause).numerics = s.numerics := rfl
@[simp] theorem dirty_plate (cause : Nat) : (s.dirty cause).plate = s.plate := rfl
@[simp] theorem dirty_vec (cause : Nat) : (s.dirty cause).vec = s.vec := rfl
@[simp] theorem dirty_seq (cause : Nat) : (s.dirty cause).seq = s.seq := rfl
@[simp] theorem dirty_net (cause : Nat) : (s.dirty cause).net = s.net := rfl
@[simp] theorem dirty_power (cause : Nat) : (s.dirty cause).power = s.power := rfl
@[simp] theorem dirty_fw (cause : Nat) : (s.dirty cause).fw = s.fw := rfl
@[simp] theorem dirty_hbmTest (cause : Nat) : (s.dirty cause).hbmTest = s.hbmTest := rfl
@[simp] theorem dirty_tele (cause : Nat) : (s.dirty cause).tele = s.tele := rfl

@[simp] theorem dirtyStep_pending (n cause : Nat) : (s.dirtyStep n cause).pending = s.pending := rfl
@[simp] theorem dirtyStep_actor (n cause : Nat) : (s.dirtyStep n cause).actor = s.actor := rfl
@[simp] theorem dirtyStep_outbox (n cause : Nat) : (s.dirtyStep n cause).outbox = s.outbox := rfl
@[simp] theorem dirtyStep_freeGen (n cause : Nat) : (s.dirtyStep n cause).freeGen = s.freeGen := rfl
@[simp] theorem dirtyStep_nextId (n cause : Nat) : (s.dirtyStep n cause).nextId = s.nextId := rfl
@[simp] theorem dirtyStep_fuses (n cause : Nat) : (s.dirtyStep n cause).fuses = s.fuses := rfl
@[simp] theorem dirtyStep_life (n cause : Nat) : (s.dirtyStep n cause).life = s.life := rfl
@[simp] theorem dirtyStep_clock (n cause : Nat) : (s.dirtyStep n cause).clock = s.clock := rfl
@[simp] theorem dirtyStep_pcie (n cause : Nat) : (s.dirtyStep n cause).pcie = s.pcie := rfl
@[simp] theorem dirtyStep_host (n cause : Nat) : (s.dirtyStep n cause).host = s.host := rfl
@[simp] theorem dirtyStep_mem (n cause : Nat) : (s.dirtyStep n cause).mem = s.mem := rfl
@[simp] theorem dirtyStep_numerics (n cause : Nat) : (s.dirtyStep n cause).numerics = s.numerics := rfl
@[simp] theorem dirtyStep_plate (n cause : Nat) : (s.dirtyStep n cause).plate = s.plate := rfl
@[simp] theorem dirtyStep_vec (n cause : Nat) : (s.dirtyStep n cause).vec = s.vec := rfl
@[simp] theorem dirtyStep_seq (n cause : Nat) : (s.dirtyStep n cause).seq = s.seq := rfl
@[simp] theorem dirtyStep_net (n cause : Nat) : (s.dirtyStep n cause).net = s.net := rfl
@[simp] theorem dirtyStep_power (n cause : Nat) : (s.dirtyStep n cause).power = s.power := rfl
@[simp] theorem dirtyStep_fw (n cause : Nat) : (s.dirtyStep n cause).fw = s.fw := rfl
@[simp] theorem dirtyStep_hbmTest (n cause : Nat) : (s.dirtyStep n cause).hbmTest = s.hbmTest := rfl
@[simp] theorem dirtyStep_tele (n cause : Nat) : (s.dirtyStep n cause).tele = s.tele := rfl

@[simp] theorem clearPoison_pending (a n : Nat) : (s.clearPoison a n).pending = s.pending := rfl
@[simp] theorem clearPoison_actor (a n : Nat) : (s.clearPoison a n).actor = s.actor := rfl
@[simp] theorem clearPoison_outbox (a n : Nat) : (s.clearPoison a n).outbox = s.outbox := rfl
@[simp] theorem clearPoison_freeGen (a n : Nat) : (s.clearPoison a n).freeGen = s.freeGen := rfl
@[simp] theorem clearPoison_nextId (a n : Nat) : (s.clearPoison a n).nextId = s.nextId := rfl
@[simp] theorem clearPoison_fuses (a n : Nat) : (s.clearPoison a n).fuses = s.fuses := rfl
@[simp] theorem clearPoison_life (a n : Nat) : (s.clearPoison a n).life = s.life := rfl
@[simp] theorem clearPoison_clock (a n : Nat) : (s.clearPoison a n).clock = s.clock := rfl
@[simp] theorem clearPoison_pcie (a n : Nat) : (s.clearPoison a n).pcie = s.pcie := rfl
@[simp] theorem clearPoison_host (a n : Nat) : (s.clearPoison a n).host = s.host := rfl
@[simp] theorem clearPoison_numerics (a n : Nat) : (s.clearPoison a n).numerics = s.numerics := rfl
@[simp] theorem clearPoison_plate (a n : Nat) : (s.clearPoison a n).plate = s.plate := rfl
@[simp] theorem clearPoison_vec (a n : Nat) : (s.clearPoison a n).vec = s.vec := rfl
@[simp] theorem clearPoison_seq (a n : Nat) : (s.clearPoison a n).seq = s.seq := rfl
@[simp] theorem clearPoison_net (a n : Nat) : (s.clearPoison a n).net = s.net := rfl
@[simp] theorem clearPoison_proof (a n : Nat) : (s.clearPoison a n).proof = s.proof := rfl
@[simp] theorem clearPoison_power (a n : Nat) : (s.clearPoison a n).power = s.power := rfl
@[simp] theorem clearPoison_fw (a n : Nat) : (s.clearPoison a n).fw = s.fw := rfl
@[simp] theorem clearPoison_hbmTest (a n : Nat) : (s.clearPoison a n).hbmTest = s.hbmTest := rfl
@[simp] theorem clearPoison_tele (a n : Nat) : (s.clearPoison a n).tele = s.tele := rfl

@[simp] theorem touchChains_pending (a n : Nat) : (s.touchChains a n).pending = s.pending := rfl
@[simp] theorem touchChains_actor (a n : Nat) : (s.touchChains a n).actor = s.actor := rfl
@[simp] theorem touchChains_outbox (a n : Nat) : (s.touchChains a n).outbox = s.outbox := rfl
@[simp] theorem touchChains_freeGen (a n : Nat) : (s.touchChains a n).freeGen = s.freeGen := rfl
@[simp] theorem touchChains_nextId (a n : Nat) : (s.touchChains a n).nextId = s.nextId := rfl
@[simp] theorem touchChains_fuses (a n : Nat) : (s.touchChains a n).fuses = s.fuses := rfl
@[simp] theorem touchChains_life (a n : Nat) : (s.touchChains a n).life = s.life := rfl
@[simp] theorem touchChains_clock (a n : Nat) : (s.touchChains a n).clock = s.clock := rfl
@[simp] theorem touchChains_pcie (a n : Nat) : (s.touchChains a n).pcie = s.pcie := rfl
@[simp] theorem touchChains_host (a n : Nat) : (s.touchChains a n).host = s.host := rfl
@[simp] theorem touchChains_mem (a n : Nat) : (s.touchChains a n).mem = s.mem := rfl
@[simp] theorem touchChains_plate (a n : Nat) : (s.touchChains a n).plate = s.plate := rfl
@[simp] theorem touchChains_vec (a n : Nat) : (s.touchChains a n).vec = s.vec := rfl
@[simp] theorem touchChains_seq (a n : Nat) : (s.touchChains a n).seq = s.seq := rfl
@[simp] theorem touchChains_net (a n : Nat) : (s.touchChains a n).net = s.net := rfl
@[simp] theorem touchChains_proof (a n : Nat) : (s.touchChains a n).proof = s.proof := rfl
@[simp] theorem touchChains_power (a n : Nat) : (s.touchChains a n).power = s.power := rfl
@[simp] theorem touchChains_fw (a n : Nat) : (s.touchChains a n).fw = s.fw := rfl
@[simp] theorem touchChains_hbmTest (a n : Nat) : (s.touchChains a n).hbmTest = s.hbmTest := rfl
@[simp] theorem touchChains_tele (a n : Nat) : (s.touchChains a n).tele = s.tele := rfl

end

/-! ### What accessors read -/

section

variable (s : State)

@[simp] theorem ring_setRing (n : Nat) (r : Ring) : (s.setRing n r).ring n = r := get_set_same _ _ _ _
theorem ring_setRing_other (n m : Nat) (r : Ring) (h : m ≠ n) : (s.setRing n r).ring m = s.ring m := get_set_other _ _ _ _ _ h
@[simp] theorem port_setPort (p : Nat) (x : Port) : (s.setPort p x).port p = x := get_set_same _ _ _ _
theorem port_setPort_other (p q : Nat) (x : Port) (h : q ≠ p) : (s.setPort p x).port q = s.port q := get_set_other _ _ _ _ _ h
@[simp] theorem channel_setChannel (m : Nat) (c : Channel) : (s.setChannel m c).channel m = c := get_set_same _ _ _ _
theorem channel_setChannel_other (m k : Nat) (c : Channel) (h : k ≠ m) : (s.setChannel m c).channel k = s.channel k :=
  get_set_other _ _ _ _ _ h
@[simp] theorem session_setSession (n : Nat) (x : Session) : (s.setSession n x).session n = x := get_set_same _ _ _ _
@[simp] theorem qp_setQp (k : Nat) (q : QP) : (s.setQp k q).qp k = q := get_set_same _ _ _ _
@[simp] theorem entry_setEntry (i : Nat) (e : Entry) : (s.setEntry i e).entry i = e := get_set_same _ _ _ _
theorem entry_setEntry_other (i j : Nat) (e : Entry) (h : j ≠ i) : (s.setEntry i e).entry j = s.entry j :=
  get_set_other _ _ _ _ _ h

/-- A dropped op is gone. -/
@[simp] theorem op_dropOp (id : Nat) : (s.dropOp id).op id = none := by simp [State.op, State.dropOp]

/-- An op found is the one asked for. -/
theorem op_ident {s : State} {id : Nat} {o : Op} (h : s.op id = some o) : o.id = id := by
  simpa using List.find?_some h

/-- A program found is that of its ring. -/
theorem program_ring {s : State} {n : Nat} {p : Program} (h : s.program n = some p) : p.ring = n := by
  simpa using List.find?_some h

end

/-! ### The op an event acts for -/

section

variable (s : State) (id : Nat)

@[simp] theorem acting_pending : (s.acting id).pending = s.pending := by unfold State.acting; split <;> rfl
@[simp] theorem acting_outbox : (s.acting id).outbox = s.outbox := by unfold State.acting; split <;> rfl
@[simp] theorem acting_freeGen : (s.acting id).freeGen = s.freeGen := by unfold State.acting; split <;> rfl
@[simp] theorem acting_nextId : (s.acting id).nextId = s.nextId := by unfold State.acting; split <;> rfl
@[simp] theorem acting_fuses : (s.acting id).fuses = s.fuses := by unfold State.acting; split <;> rfl
@[simp] theorem acting_life : (s.acting id).life = s.life := by unfold State.acting; split <;> rfl
@[simp] theorem acting_clock : (s.acting id).clock = s.clock := by unfold State.acting; split <;> rfl
@[simp] theorem acting_pcie : (s.acting id).pcie = s.pcie := by unfold State.acting; split <;> rfl
@[simp] theorem acting_host : (s.acting id).host = s.host := by unfold State.acting; split <;> rfl
@[simp] theorem acting_mem : (s.acting id).mem = s.mem := by unfold State.acting; split <;> rfl
@[simp] theorem acting_numerics : (s.acting id).numerics = s.numerics := by unfold State.acting; split <;> rfl
@[simp] theorem acting_plate : (s.acting id).plate = s.plate := by unfold State.acting; split <;> rfl
@[simp] theorem acting_vec : (s.acting id).vec = s.vec := by unfold State.acting; split <;> rfl
@[simp] theorem acting_seq : (s.acting id).seq = s.seq := by unfold State.acting; split <;> rfl
@[simp] theorem acting_net : (s.acting id).net = s.net := by unfold State.acting; split <;> rfl
@[simp] theorem acting_proof : (s.acting id).proof = s.proof := by unfold State.acting; split <;> rfl
@[simp] theorem acting_power : (s.acting id).power = s.power := by unfold State.acting; split <;> rfl
@[simp] theorem acting_fw : (s.acting id).fw = s.fw := by unfold State.acting; split <;> rfl
@[simp] theorem acting_hbmTest : (s.acting id).hbmTest = s.hbmTest := by unfold State.acting; split <;> rfl
@[simp] theorem acting_tele : (s.acting id).tele = s.tele := by unfold State.acting; split <;> rfl

theorem acting_actor {o : Op} (h : s.op id = some o) : (s.acting id).actor = some (id, o.tag) := by rw [State.acting, h]

end

end Sys2Proof.Laws
end

