-- ==== Sys2Proof/Laws/Told.lean ====
section
/-! SUPPORT. What sending, interrupts, completion records and events can change: the outbox, the host side, and the
reports bound for the management path. Each lemma says once everything its operation can do. -/

namespace Sys2Proof.Laws

open Sys2Proof.Machine

/-- Sending to the host, or holding it. -/
theorem sendHost_frame (s : State) (o : Output) :
    ∃ h x, s.sendHost o = { s with host := h, outbox := x } := by
  unfold State.sendHost State.send
  split
  · exact ⟨s.host, _, rfl⟩
  · exact ⟨_, s.outbox, rfl⟩

theorem fireVector_frame (s : State) (v : Nat) : ∃ h x, s.fireVector v = { s with host := h, outbox := x } := by
  unfold State.fireVector
  split
  · exact ⟨_, s.outbox, rfl⟩
  · exact sendHost_frame s _

theorem sendPending_frame (vs : List Nat) : ∀ s : State, ∃ h x, s.sendPending vs = { s with host := h, outbox := x } := by
  induction vs with
  | nil => intro s; exact ⟨s.host, s.outbox, rfl⟩
  | cons v vs ih =>
    intro s
    simp only [State.sendPending]
    split
    · obtain ⟨h, x, e⟩ := sendHost_frame { s with host := { s.host with msixPend := s.host.msixPend.set false v false } } (.msix v)
      obtain ⟨h', x', e'⟩ := ih ({ s with host := h, outbox := x })
      rw [e]; exact ⟨h', x', e'⟩
    · exact ih s

theorem writeRecord_frame (s : State) (q ring seq : Nat) (tag : List Byte) (status : Nat) (hd : Bool) (d f : Nat) (i : Bool) :
    ∃ h x, s.writeRecord q ring seq tag status hd d f i = { s with host := h, outbox := x } := by
  unfold State.writeRecord
  dsimp only
  split
  · obtain ⟨h, x, e⟩ := fireVector_frame ({ s.send _ with host := _ } : State) q
    exact ⟨h, x, e⟩
  · exact ⟨_, _, rfl⟩

/-- Numbering a copy changes no event. -/
theorem numberCopy_events (e : EventRec) (n : Nat) (l : List (EventRec × Option Nat)) :
    (numberCopy e n l).map (·.1) = l.map (·.1) := by
  induction l with
  | nil => rfl
  | cons p t ih =>
    obtain ⟨x, m⟩ := p
    simp only [numberCopy]
    split
    · rfl
    · simp [ih]

/-- Writing buffered events: the events bound for the management path stay, some with their numbers. -/
theorem drainEvents_frame (fuel : Nat) : ∀ s : State, ∃ h x b,
    State.drainEvents fuel s = { s with host := h, outbox := x, fw := { s.fw with bound := b } } ∧
      b.map (·.1) = s.fw.bound.map (·.1) := by
  induction fuel with
  | zero => intro s; exact ⟨s.host, s.outbox, s.fw.bound, rfl, rfl⟩
  | succ k ih =>
    intro s
    simp only [State.drainEvents]
    split
    · exact ⟨s.host, s.outbox, s.fw.bound, rfl, rfl⟩
    · rename_i e rest _
      split
      · obtain ⟨h1, x1, e1⟩ := fireVector_frame ({ s.send _ with host := _, fw := _ } : State) 64
        rw [e1]
        obtain ⟨h, x, b, e2, hb⟩ := ih ({ s with host := h1, outbox := x1, fw := { s.fw with
          bound := numberCopy e s.host.eqWritten s.fw.bound } })
        exact ⟨h, x, b, e2, by rw [hb]; exact numberCopy_events _ _ _⟩
      · exact ⟨s.host, s.outbox, s.fw.bound, rfl, rfl⟩

/-- Sending what was held: records and events, whose copies bound for the management path stay, some with their numbers. -/
theorem releaseHeld_frame (hs : List Held) : ∀ (s : State) (k : Nat), ∃ h x b,
    s.releaseHeld k hs = { s with host := h, outbox := x, fw := { s.fw with bound := b } } ∧
      b.map (·.1) = s.fw.bound.map (·.1) := by
  induction hs with
  | nil => intro s k; exact ⟨s.host, s.outbox, s.fw.bound, rfl, rfl⟩
  | cons y ys ih =>
    intro s k
    cases y with
    | record q r n t st hd d f i ev =>
      obtain ⟨h0, x0, b0, e0, hb0⟩ := drainEvents_frame (ev - k) s
      obtain ⟨h, x, e⟩ := writeRecord_frame { s with host := h0, outbox := x0, fw := { s.fw with bound := b0 } } q r n t st hd d f i
      simp only [State.releaseHeld]
      rw [e0, e]
      obtain ⟨h', x', b', e', hb'⟩ := ih ({ s with host := h, outbox := x, fw := { s.fw with bound := b0 } }) _
      exact ⟨h', x', b', e', by rw [hb']; exact hb0⟩
    | other o =>
      obtain ⟨h', x', b', e', hb'⟩ := ih (s.send o) k
      exact ⟨h', x', b', by simpa [State.releaseHeld, State.send] using e', by simpa [State.send] using hb'⟩

theorem flushHeld_frame (s : State) : ∃ h x b, s.flushHeld = { s with host := h, outbox := x, fw := { s.fw with bound := b } } ∧
    b.map (·.1) = s.fw.bound.map (·.1) := by
  unfold State.flushHeld
  split
  · obtain ⟨h, x, b, e, hb⟩ := releaseHeld_frame s.host.held { s with host := { s.host with held := [] } } 0
    exact ⟨h, x, b, e, hb⟩
  · exact ⟨s.host, s.outbox, s.fw.bound, rfl, rfl⟩

theorem buffer_frame (s : State) (e : EventRec) : ∃ h x b,
    s.buffer e = { s with host := h, outbox := x, fw := { s.fw with bound := b } } ∧
      b.map (·.1) = s.fw.bound.map (·.1) := by
  unfold State.buffer
  split
  · exact drainEvents_frame _ _
  · exact ⟨_, s.outbox, s.fw.bound, rfl, rfl⟩

/-- Raising an event: it goes to the management path where R387 says so, behind those already bound for it. -/
theorem raise_frame (s : State) (kind code step opTag subject : Nat) (detail : List Byte) : ∃ h x b,
    s.raise kind code step opTag subject detail = { s with host := h, outbox := x, fw := { s.fw with bound := b } } ∧
      b.map (·.1) = s.fw.bound.map (·.1) ++
        (if mgmtCopied kind code then
          [{ kind := kind, code := code, step := step, opTag := BitVec.ofNat 32 opTag, subject := BitVec.ofNat 32 subject
             detail := padTo 32 detail, time := s.clock.time, mgmt := true }] else []) := by
  unfold State.raise
  dsimp only
  by_cases hm : mgmtCopied kind code = true
  · simp only [hm, if_true]
    split
    · exact ⟨s.host, s.outbox, _, rfl, by simp⟩
    · obtain ⟨h, x, b, e, hb⟩ := buffer_frame ({ s with fw := { s.fw with bound := s.fw.bound ++ [(_, none)] } } : State) _
      exact ⟨h, x, b, e, by rw [hb]; simp⟩
  · simp only [Bool.not_eq_true] at hm
    simp only [hm, Bool.false_eq_true, if_false, List.append_nil]
    split
    · exact ⟨s.host, s.outbox, s.fw.bound, rfl, rfl⟩
    · exact buffer_frame s _

/-- An event that R387 sends to the management path is reported after it is raised. -/
theorem raise_reports (s : State) (kind code step opTag subject : Nat) (detail : List Byte)
    (h : mgmtCopied kind code = true) : (s.raise kind code step opTag subject detail).Reports kind code subject := by
  obtain ⟨g, x, b, e, hb⟩ := raise_frame s kind code step opTag subject detail
  simp only [h, if_true] at hb
  rw [e]
  have : ({ kind := kind, code := code, step := step, opTag := BitVec.ofNat 32 opTag, subject := BitVec.ofNat 32 subject
            detail := padTo 32 detail, time := s.clock.time, mgmt := true } : EventRec) ∈ b.map (·.1) := by
    rw [hb]; simp
  obtain ⟨p, hp, hq⟩ := List.mem_map.mp this
  exact ⟨p, hp, by rw [hq], by rw [hq], by rw [hq]⟩

/-- A report on its way stays on its way while other events are raised. -/
theorem raise_keeps_reports (s : State) (kind code step opTag subject : Nat) (detail : List Byte) (k c j : Nat)
    (h : s.Reports k c j) : (s.raise kind code step opTag subject detail).Reports k c j := by
  obtain ⟨g, x, b, e, hb⟩ := raise_frame s kind code step opTag subject detail
  obtain ⟨p, hp, h1, h2, h3⟩ := h
  rw [e]
  have : p.1 ∈ b.map (·.1) := by rw [hb]; exact List.mem_append_left _ (List.mem_map_of_mem hp)
  obtain ⟨q, hq, hpq⟩ := List.mem_map.mp this
  exact ⟨q, hq, by rw [hpq]; exact h1, by rw [hpq]; exact h2, by rw [hpq]; exact h3⟩

/-- Completing a command touches its ring, the queue's record, and nothing else. -/
theorem complete_frame (s : State) (n id status : Nat) (hd : Bool) (d : Nat) :
    ∃ h x, s.complete n id status hd d = { s with host := h, outbox := x } := by
  unfold State.complete
  dsimp only
  split
  · exact ⟨s.host, s.outbox, rfl⟩
  · split
    · obtain ⟨h, x, e⟩ := writeRecord_frame (s.setRing n _) _ _ _ _ _ _ _ _ _
      exact ⟨h, x, e⟩
    · exact ⟨_, s.outbox, rfl⟩

end Sys2Proof.Laws
end

