-- ==== Sys2Proof/Laws/Commands.lean ====
section
/-! SUPPORT. Ring commands: a command that is due starts, and one that completes leaves its ring with a record; events and
interrupts leave the rings as they are. -/

namespace Sys2Proof.Laws

open Sys2Proof.Machine

/-! ### Rings through events and records -/

theorem sendHost_rings (s : State) (o : Output) : (s.sendHost o).host.rings = s.host.rings := by
  unfold State.sendHost; split <;> rfl

theorem fireVector_rings (s : State) (v : Nat) : (s.fireVector v).host.rings = s.host.rings := by
  unfold State.fireVector; split
  · rfl
  · exact sendHost_rings _ _

theorem writeRecord_rings (s : State) (q ring seq : Nat) (tag : List Byte) (status : Nat) (hd : Bool) (d f : Nat) (i : Bool) :
    (s.writeRecord q ring seq tag status hd d f i).host.rings = s.host.rings := by
  unfold State.writeRecord; dsimp only; split
  · exact fireVector_rings _ _
  · rfl

theorem drainEvents_rings (fuel : Nat) : ∀ s : State, (State.drainEvents fuel s).host.rings = s.host.rings := by
  induction fuel with
  | zero => intro s; rfl
  | succ k ih =>
    intro s
    simp only [State.drainEvents]
    split
    · rfl
    · split
      · rw [ih, fireVector_rings]; rfl
      · rfl

theorem raise_rings (s : State) (kind code step opTag subject : Nat) (detail : List Byte) :
    (s.raise kind code step opTag subject detail).host.rings = s.host.rings := by
  have hb : ∀ (x : State) (e : EventRec), (x.buffer e).host.rings = x.host.rings := by
    intro x e; unfold State.buffer; split
    · rw [drainEvents_rings]
    · rfl
  unfold State.raise; dsimp only
  split
  · split <;> rfl
  · rw [hb]; split <;> rfl

/-- Equal rings read alike. -/
theorem ring_of_rings {s t : State} (h : t.host.rings = s.host.rings) (n : Nat) : t.ring n = s.ring n := by
  unfold State.ring; rw [h]

/-! ### Starting and completing -/

/-- A command that is due starts. -/
theorem startCmd_due {s : State} {n typ : Nat} {c : FetchedCmd} (h : s.Due n typ c) :
    s.startCmd n typ = some (c, s.markStarted n c.id typ) := by
  unfold State.startCmd
  simp [h.waiting, h.typed, h.may]

theorem markStarted_rest (s : State) (n id t : Nat) : ∃ h l,
    s.markStarted n id t = { s with host := h, life := l, actor := some (id, 0) } := by
  unfold State.markStarted; dsimp only; split
  · exact ⟨_, _, rfl⟩
  · exact ⟨_, s.life, rfl⟩

theorem markStarted_ring (s : State) (n id t : Nat) : (s.markStarted n id t).ring n =
    { s.ring n with cmds := (s.ring n).cmds.map (fun d => if d.id = id then { d with started := true } else d) } := by
  unfold State.markStarted; dsimp only; split
  · exact ring_setRing s n _
  · exact ring_setRing s n _

theorem find_marked (id : Nat) (cs : List FetchedCmd) (c : FetchedCmd) (h : cs.find? (fun d => d.id == id) = some c) :
    (cs.map (fun d => if d.id = id then { d with started := true } else d)).find? (fun d => d.id == id) =
      some { c with started := true } := by
  induction cs with
  | nil => simp at h
  | cons d ds ih =>
    rw [List.map_cons]
    by_cases e : d.id = id
    · have hd : c = d := by simpa [List.find?_cons, e] using h.symm
      subst hd
      rw [if_pos e]; simp [e]
    · have he : (d.id == id) = false := by simpa using e
      rw [List.find?_cons, he] at h
      rw [if_neg e, List.find?_cons, he]
      exact ih h

theorem filter_marked (id : Nat) (cs : List FetchedCmd) :
    (cs.map (fun d => if d.id = id then { d with started := true } else d)).filter (fun d => d.id != id) =
      cs.filter (fun d => d.id != id) := by
  induction cs with
  | nil => rfl
  | cons d ds ih => by_cases e : d.id = id <;> simp [e, ih]

/-- The command just started is found in its ring. -/
theorem markStarted_cmd {s : State} {n t : Nat} {c : FetchedCmd} (h : (s.ring n).cmd c.id = some c) :
    ((s.markStarted n c.id t).ring n).cmd c.id = some { c with started := true } := by
  rw [markStarted_ring]; exact find_marked _ _ _ h

theorem fireVector_outbox (s : State) (v : Nat) : ∃ m, (s.fireVector v).outbox = s.outbox ++ m := by
  unfold State.fireVector; split
  · exact ⟨[], by simp⟩
  · unfold State.sendHost; split
    · exact ⟨_, rfl⟩
    · exact ⟨[], by simp⟩

theorem writeRecord_outbox (s : State) (q ring seq : Nat) (tag : List Byte) (status : Nat) (hd : Bool) (d f : Nat) (i : Bool) :
    ∃ m addr phase elapsed, (s.writeRecord q ring seq tag status hd d f i).outbox =
      s.outbox ++ .hostWrite addr (completionBytes tag seq status phase hd ring d elapsed) false :: m := by
  unfold State.writeRecord; dsimp only; split
  · obtain ⟨m, e⟩ := fireVector_outbox { s.send _ with host := _ } q
    exact ⟨m, _, _, _, e.trans (by simp [State.send]; exact ⟨rfl, rfl⟩)⟩
  · exact ⟨[], _, _, _, rfl⟩

/-- A completed command has left its ring, and its record is written or held. -/
theorem complete_finished {s : State} {n id : Nat} {c : FetchedCmd} (h : (s.ring n).cmd id = some c) (status : Nat) (hd : Bool)
    (d : Nat) : s.Finished (s.complete n id status hd d) n c status hd d := by
  have hid : c.id = id := by simpa using List.find?_some h
  subst hid
  unfold State.complete
  simp only [h]
  split
  · constructor
    · left
      obtain ⟨m, a, ph, el, e⟩ := writeRecord_outbox
        (s.setRing n { s.ring n with cmds := (s.ring n).cmds.filter (fun d => d.id != c.id) }) (s.ring n).cq n c.seq
        ((c.bytes.drop 8).take 8) status hd d c.fetched c.irq
      exact ⟨_, a, ph, el, e, List.mem_cons_self⟩
    · have := writeRecord_rings (s.setRing n { s.ring n with cmds := (s.ring n).cmds.filter (fun d => d.id != c.id) })
        (s.ring n).cq n c.seq ((c.bytes.drop 8).take 8) status hd d c.fetched c.irq
      exact (congrArg Ring.cmds (ring_of_rings this n)).trans (congrArg Ring.cmds (ring_setRing s n _))
  · constructor
    · right; exact ⟨_, rfl, _, List.mem_singleton_self _⟩
    · exact congrArg Ring.cmds (ring_setRing s n _)

/-- The same for a command just started and an operation that keeps its ring and what has been sent. -/
theorem started_finished {s u : State} {n t : Nat} {c : FetchedCmd} (h : (s.ring n).cmd c.id = some c)
    (hr : u.host.rings = (s.markStarted n c.id t).host.rings) (ho : u.outbox = s.outbox) (hh : u.host.held = s.host.held)
    (status : Nat) (hd : Bool) (d : Nat) : s.Finished (u.complete n c.id status hd d) n c status hd d := by
  have hu : u.ring n = (s.markStarted n c.id t).ring n := ring_of_rings hr n
  have hc : (u.ring n).cmd c.id = some { c with started := true } := by rw [hu]; exact markStarted_cmd h
  have f := complete_finished hc status hd d
  obtain ⟨fr, fg⟩ := f
  constructor
  · unfold State.Recorded at fr ⊢
    rw [ho, hh] at fr
    have hq : (u.ring n).cq = (s.ring n).cq := by rw [hu, markStarted_ring]
    rw [hq] at fr
    exact fr
  · rw [fg, hu, markStarted_ring]; exact filter_marked _ _

end Sys2Proof.Laws
end

