-- ==== Sys2Proof/Laws/Memory.lean ====
section
/-! SUPPORT. Accesses to memory: what a read and a write can change beside the bytes they name, and the canonical form that
every write keeps. -/

namespace Sys2Proof.Laws

open Sys2Proof.Machine

/-- What no access to memory touches. Errors met, their counts and reports, cached translations, redirected frames, chains a write
meets, frames to a tray peer and draws of free values are all that an access may change beside its bytes. -/
structure Accessed (s t : State) : Prop where
  pending : t.pending = s.pending
  nextId  : t.nextId = s.nextId
  actor   : t.actor = s.actor
  fuses   : t.fuses = s.fuses
  life    : t.life = s.life
  clock   : t.clock = s.clock
  pcie    : t.pcie = s.pcie
  plate   : t.plate = s.plate
  vec     : t.vec = s.vec
  seq     : t.seq = s.seq
  power   : t.power = s.power
  hbmTest : t.hbmTest = s.hbmTest
  rings   : t.host.rings = s.host.rings
  root    : t.mem.ptRoot = s.mem.ptRoot
  net     : { t.net with channels := s.net.channels } = s.net
  chains  : { t.numerics with chains := s.numerics.chains } = s.numerics
  form    : s.mem.ram.wf = true → t.mem.ram.wf = true

theorem Accessed.refl (s : State) : Accessed s s := ⟨rfl, rfl, rfl, rfl, rfl, rfl, rfl, rfl, rfl, rfl, rfl, rfl, rfl, rfl, rfl, rfl, id⟩

theorem Accessed.trans {s t u : State} (a : Accessed s t) (b : Accessed t u) : Accessed s u where
  pending := b.pending.trans a.pending
  nextId := b.nextId.trans a.nextId
  actor := b.actor.trans a.actor
  fuses := b.fuses.trans a.fuses
  life := b.life.trans a.life
  clock := b.clock.trans a.clock
  pcie := b.pcie.trans a.pcie
  plate := b.plate.trans a.plate
  vec := b.vec.trans a.vec
  seq := b.seq.trans a.seq
  power := b.power.trans a.power
  hbmTest := b.hbmTest.trans a.hbmTest
  rings := b.rings.trans a.rings
  root := b.root.trans a.root
  net := (congrArg (fun (n : Net) => { n with channels := s.net.channels }) b.net).trans a.net
  chains := (congrArg (fun (n : Numerics) => { n with chains := s.numerics.chains }) b.chains).trans a.chains
  form := fun h => b.form (a.form h)

theorem Accessed.ite {c : Prop} [Decidable c] {s x y : State} (hx : Accessed s x) (hy : Accessed s y) :
    Accessed s (if c then x else y) := by split <;> assumption

/-! ### Errors met -/

theorem Accessed.raise (s : State) (kind code step opTag subject : Nat) (detail : List Byte) :
    Accessed s (s.raise kind code step opTag subject detail) := by
  have hr := raise_rings s kind code step opTag subject detail
  obtain ⟨h, x, b, e, -⟩ := raise_frame s kind code step opTag subject detail
  rw [e] at hr ⊢
  exact ⟨rfl, rfl, rfl, rfl, rfl, rfl, rfl, rfl, rfl, rfl, rfl, rfl, hr, rfl, rfl, rfl, id⟩

theorem Accessed.fault (s : State) (code opTag subject outcome status unit where_ address : Nat) (columns : List Nat) :
    Accessed s (s.fault code opTag subject outcome status unit where_ address columns) := Accessed.raise _ _ _ _ _ _ _

theorem Accessed.count (s : State) (off n : Nat) : Accessed s (s.count off n) :=
  ⟨rfl, rfl, rfl, rfl, rfl, rfl, rfl, rfl, rfl, rfl, rfl, rfl, rfl, rfl, rfl, rfl, id⟩

theorem Accessed.dirty (s : State) (cause : Nat) : Accessed s (s.dirty cause) :=
  ⟨rfl, rfl, rfl, rfl, rfl, rfl, rfl, rfl, rfl, rfl, rfl, rfl, rfl, rfl, rfl, rfl, id⟩

theorem Accessed.recordRepair (s : State) (a : Nat) : Accessed s (s.recordRepair a) := by
  unfold State.recordRepair; split
  · exact .refl s
  · refine Accessed.trans ?_ (Accessed.fault _ _ _ _ _ _ _ _ _ _)
    exact ⟨rfl, rfl, rfl, rfl, rfl, rfl, rfl, rfl, rfl, rfl, rfl, rfl, rfl, rfl, rfl, rfl, id⟩

theorem Accessed.corrected (s : State) (a : Nat) : Accessed s (s.corrected a) := by
  unfold State.corrected; dsimp only
  have key : ∀ y, Accessed s y → Accessed s (if memoryId a = 1 then
      (let errs := (y.fw.rowErrors.filter (fun p => decide (y.clock.time < p.2 + 86400000000000))) ++ [(a / 4096, y.clock.time)]
       if 4 ≤ (errs.filter (fun p => p.1 == a / 4096)).length then ({ y with fw := { y.fw with rowErrors := errs } } : State).recordRepair a
       else { y with fw := { y.fw with rowErrors := errs } }) else y) := by
    intro y hy
    split
    · refine hy.trans ?_
      dsimp only
      split
      · refine Accessed.trans ?_ (Accessed.recordRepair _ _)
        exact ⟨rfl, rfl, rfl, rfl, rfl, rfl, rfl, rfl, rfl, rfl, rfl, rfl, rfl, rfl, rfl, rfl, id⟩
      · exact ⟨rfl, rfl, rfl, rfl, rfl, rfl, rfl, rfl, rfl, rfl, rfl, rfl, rfl, rfl, rfl, rfl, id⟩
    · exact hy
  refine key _ ?_
  refine (Accessed.count s (0x480 + 8 * memoryId a) 1).trans ?_
  split
  · split
    · exact .refl _
    · exact ⟨rfl, rfl, rfl, rfl, rfl, rfl, rfl, rfl, rfl, rfl, rfl, rfl, rfl, rfl, rfl, rfl, id⟩
  · refine Accessed.trans ?_ (Accessed.fault _ _ _ _ _ _ _ _ _ _)
    exact ⟨rfl, rfl, rfl, rfl, rfl, rfl, rfl, rfl, rfl, rfl, rfl, rfl, rfl, rfl, rfl, rfl, id⟩

theorem Accessed.ofMem (s : State) (m : Memory) (h : m.ptRoot = s.mem.ptRoot) (hw : s.mem.ram.wf = true → m.ram.wf = true) :
    Accessed s { s with mem := m } := ⟨rfl, rfl, rfl, rfl, rfl, rfl, rfl, rfl, rfl, rfl, rfl, rfl, rfl, h, rfl, rfl, hw⟩

theorem Accessed.poisonBlock (s : State) (a : Nat) : Accessed s (s.poisonBlock a) := by
  have h1 : ∀ o st : Nat, Accessed s (((({ s with mem := { s.mem with poison := s.mem.poison.set false (a / 64) true } } : State).count
      (0x500 + 8 * memoryId a) 1).fault 8 s.actorTag (memoryUnit a) o st (memoryUnit a) 0 (eventAddr (a / 64 * 64)) noColumns)) := by
    intro o st
    refine Accessed.trans ?_ (.fault _ _ _ _ _ _ _ _ _ _)
    refine Accessed.trans ?_ (.count _ _ _)
    exact .ofMem s _ rfl id
  have h2 := fun o st => Accessed.ite (c := memoryId a = 1) ((h1 o st).trans (.recordRepair _ a)) (h1 o st)
  unfold State.poisonBlock
  exact Accessed.ite ((h2 _ _).trans (.dirty _ _)) (h2 _ _)

theorem Accessed.meet (bs : List Nat) : ∀ s : State, Accessed s (s.meet bs) := by
  induction bs with
  | nil => intro s; exact .refl s
  | cons b bs ih =>
    intro s
    simp only [State.meet]
    split
    · exact ih s
    · refine Accessed.trans ?_ (ih _)
      split
      · refine Accessed.trans ?_ (.corrected _ _)
        exact .ofMem s _ rfl id
      · refine Accessed.trans ?_ (.poisonBlock _ _)
        exact .ofMem s _ rfl id

theorem Accessed.meetEntries (ps : List Nat) : ∀ s : State, Accessed s (s.meetEntries ps) := by
  induction ps with
  | nil => intro s; exact .refl s
  | cons p ps ih =>
    intro s
    simp only [State.meetEntries]
    split
    · exact .meet _ s
    · exact (Accessed.meet _ s).trans (ih _)

theorem Accessed.meetWalk (s : State) (root : Word) (va : Nat) : Accessed s (s.meetWalk root va) := .meetEntries _ s

/-! ### Frames to a tray peer -/

theorem Accessed.send (s : State) (o : Output) : Accessed s (s.send o) :=
  ⟨rfl, rfl, rfl, rfl, rfl, rfl, rfl, rfl, rfl, rfl, rfl, rfl, rfl, rfl, rfl, rfl, id⟩

theorem Accessed.draw (s : State) : Accessed s s.draw.2 :=
  ⟨rfl, rfl, rfl, rfl, rfl, rfl, rfl, rfl, rfl, rfl, rfl, rfl, rfl, rfl, rfl, rfl, id⟩

theorem Accessed.setChannel (s : State) (m : Nat) (c : Channel) : Accessed s (s.setChannel m c) :=
  ⟨rfl, rfl, rfl, rfl, rfl, rfl, rfl, rfl, rfl, rfl, rfl, rfl, rfl, rfl, rfl, rfl, id⟩

theorem Accessed.yeEmit (s : State) (m : Nat) (f : YeFrame) : Accessed s (s.yeEmit m f) := by
  unfold State.yeEmit; dsimp only; split
  · exact .refl s
  · exact .send s _

theorem Accessed.yeSend (s : State) (m typ addr len tag : Nat) (payload : List Byte) (op : Option Nat) :
    Accessed s (s.yeSend m typ addr len tag payload op) := by
  unfold State.yeSend; dsimp only; split
  · exact (Accessed.setChannel s m _).trans (.yeEmit _ _ _)
  · exact .setChannel s m _

theorem Accessed.yeWrites (m : Nat) (op : Option Nat) (fuel : Nat) : ∀ (s : State) (addr : Nat) (bs : List Byte),
    Accessed s (s.yeWrites m addr op fuel bs) := by
  induction fuel with
  | zero => intro s addr bs; exact .refl s
  | succ k ih =>
    intro s addr bs
    cases bs with
    | nil => exact .refl s
    | cons b bs => simp only [State.yeWrites]; exact (Accessed.yeSend s _ _ _ _ _ _ _).trans (ih _ _ _)

/-! ### Reads -/

theorem Accessed.want (s : State) (m : Nat) (ps : List (Nat × Nat)) : Accessed s (s.want m ps) := .setChannel s m _

theorem Accessed.readAt (s : State) (z : Zone) (a n : Nat) : Accessed s (s.readAt z a n).1 := by
  unfold State.readAt
  split
  · split
    · exact .refl s
    · exact .ite (.refl s) (.want s _ _)
  · exact .refl s
  · dsimp only; split <;> exact .meet _ s

/-- Reads of the module's own act for no op. -/
theorem Accessed.meetOwn (s : State) (bs : List Nat) : Accessed s (s.meetOwn bs) := by
  obtain ⟨a, b, -, c, d, e, f, g, h, i, j, k, l, m, n, o, p⟩ := Accessed.meet bs { s with actor := none }
  exact ⟨a, b, rfl, c, d, e, f, g, h, i, j, k, l, m, n, o, p⟩

/-- The errors a use of a hidden memory meets. -/
theorem Accessed.meetHidden (s : State) (memory use : Nat) : Accessed s (s.meetHidden memory use).1 := .meet _ s

theorem Accessed.translate (s : State) (root : Word) (va : Nat) (wr : Bool) : Accessed s (s.translate root va wr).1 := by
  unfold State.translate; dsimp only
  split
  · split <;> exact .refl s
  · have hm := Accessed.meetWalk s root va
    generalize s.meetWalk root va = s0 at hm ⊢
    split
    · exact hm
    · exact hm
    · split <;> exact hm.trans (.ofMem s0 _ rfl id)

/-- `Accessed` of a pair's first part, from a pair that answers it: so that no later proof computes the pair. -/
theorem Accessed.of_pair {α : Type} {s : State} {p : State × α} (h : ∀ t r, p = (t, r) → Accessed s t) : Accessed s p.1 :=
  h p.1 p.2 rfl

theorem Accessed.resolve (s : State) (root : Word) (allow : Allow) (va n : Nat) (wr : Bool) :
    Accessed s (s.resolve root allow va n wr).1 := by
  refine of_pair fun t r h => ?_
  have ht := Accessed.translate s root va wr
  unfold State.resolve at h
  by_cases hv : 2 ^ 48 ≤ va
  · rw [if_pos hv] at h; injection h with h1 h2; exact h1 ▸ .refl s
  · rw [if_neg hv] at h
    generalize s.translate root va wr = q at ht h
    obtain ⟨s1, x⟩ := q
    cases x <;> (injection h with h1 h2; exact h1 ▸ ht)

theorem Accessed.readPages (root : Word) (allow : Allow) (fuel : Nat) : ∀ (s : State) (va n : Nat),
    Accessed s (s.readPages root allow fuel va n).1 := by
  induction fuel with
  | zero => intro s va n; exact .refl s
  | succ k ih =>
    intro s va n
    simp only [State.readPages]
    split
    · exact .refl s
    · have hr := Accessed.resolve s root allow va (inPage va n) false
      split
      · rename_i e; rw [e] at hr; exact hr
      · rename_i s1 z l e; rw [e] at hr
        have h2 := hr.trans (Accessed.readAt s1 z l (inPage va n))
        split
        · rename_i e2; rw [e2] at h2; exact h2
        · rename_i s2 bs e2; rw [e2] at h2
          have h3 := h2.trans (ih s2 (va + inPage va n) (n - inPage va n))
          split
          · rename_i e3; rw [e3] at h3; exact h3
          · exact h3

/-- A read at a physical address. -/
theorem Accessed.readPhys (s : State) (allow : Allow) (a n : Nat) : Accessed s (s.readPhys allow a n).1 := by
  unfold State.readPhys; split
  · exact .refl s
  · split
    · exact .refl s
    · exact .readAt _ _ _ _

/-- A read at a virtual address. -/
theorem Accessed.readVirt (s : State) (root : Word) (allow : Allow) (va n : Nat) : Accessed s (s.readVirt root allow va n).1 :=
  .readPages root allow _ s va n

/-- A read at a device address. -/
theorem Accessed.readDev (s : State) (root : Word) (allow : Allow) (dev n : Nat) : Accessed s (s.readDev root allow dev n).1 := by
  unfold State.readDev; split
  · exact .readVirt _ _ _ _ _
  · exact .readPhys _ _ _ _

/-! ### Writes -/

theorem Accessed.store (s : State) (a : Nat) (bs : List Byte) : Accessed s (s.store a bs) :=
  ⟨rfl, rfl, rfl, rfl, rfl, rfl, rfl, rfl, rfl, rfl, rfl, rfl, rfl, rfl, rfl, rfl, store_keeps_canonical s a bs⟩

theorem Accessed.writeAt (s : State) (z : Zone) (a : Nat) (bs : List Byte) : Accessed s (s.writeAt z a bs).1 := by
  unfold State.writeAt
  split
  · split
    · exact .refl s
    · exact (Accessed.draw s).trans (.yeWrites _ _ _ _ _ _)
  · exact .refl s
  · exact .store s a bs

theorem Accessed.poolCheck (s : State) : Accessed s s.poolCheck := by
  unfold State.poolCheck; dsimp only; split
  · refine Accessed.trans ?_ (.raise _ _ _ _ _ _ _)
    exact ⟨rfl, rfl, rfl, rfl, rfl, rfl, rfl, rfl, rfl, rfl, rfl, rfl, rfl, rfl, rfl, rfl, id⟩
  · exact ⟨rfl, rfl, rfl, rfl, rfl, rfl, rfl, rfl, rfl, rfl, rfl, rfl, rfl, rfl, rfl, rfl, id⟩

theorem Accessed.copyPage (s : State) (src dst : Nat) : Accessed s (s.copyPage src dst) :=
  (Accessed.meetOwn s (blocksOf src 0x10000)).trans
    ⟨rfl, rfl, rfl, rfl, rfl, rfl, rfl, rfl, rfl, rfl, rfl, rfl, rfl, rfl, rfl, rfl, fun h => wf_write _ _ _ h⟩

theorem Accessed.redirectTo (s : State) (num page pte base f : Nat) (rest : List Nat) (whole : Bool) :
    Accessed s (s.redirectTo num page pte base f rest whole) := by
  have hc : Accessed s (if whole then s else s.copyPage base f) := .ite (.refl s) (.copyPage s _ _)
  unfold State.redirectTo
  refine Accessed.trans ?_ (.poolCheck _)
  exact hc.trans ⟨rfl, rfl, rfl, rfl, rfl, rfl, rfl, rfl, rfl, rfl, rfl, rfl, rfl, rfl, rfl, rfl, fun h => wf_write _ _ _ h⟩

theorem Accessed.redirect (s : State) (root : Word) (va : Nat) (whole : Bool) : Accessed s (s.redirect root va whole).1 := by
  unfold State.redirect
  generalize s.redirecting = open_
  cases open_ with
  | none => exact .refl s
  | some st =>
    dsimp only
    split
    · exact .refl s
    · have hm := Accessed.meetWalk s root (va / 0x10000 * 0x10000)
      generalize s.meetWalk root _ = s0 at hm ⊢
      generalize s0.walk root _ = w
      cases w with
      | bad _ => exact hm
      | fault => exact hm
      | leaf pte base size wr =>
        dsimp only
        split
        · exact hm
        · split
          · exact hm
          · generalize hf : s0.proof.free = fs
            cases fs with
            | nil => exact hm
            | cons f rest =>
              dsimp only
              split
              · exact hm.trans (.redirectTo _ _ _ _ _ _ _ _)
              · exact hm

theorem Accessed.writePages (root : Word) (allow : Allow) (fuel : Nat) : ∀ (s : State) (va : Nat) (bs : List Byte),
    Accessed s (s.writePages root allow fuel va bs).1 := by
  induction fuel with
  | zero => intro s va bs; exact .refl s
  | succ k ih =>
    intro s va bs
    simp only [State.writePages]
    split
    · exact .refl s
    · have h1 := Accessed.redirect s root va (inPage va bs.length == 0x10000)
      split
      · rename_i s1 e; rw [e] at h1
        have h2 := h1.trans (Accessed.resolve s1 root allow va (inPage va bs.length) true)
        split
        · rename_i e2; rw [e2] at h2; exact h2
        · rename_i s2 z l e2; rw [e2] at h2
          have h3 := h2.trans (Accessed.writeAt s2 z l (bs.take (inPage va bs.length)))
          split
          · rename_i e3; rw [e3] at h3; exact h3
          · rename_i s3 e3; rw [e3] at h3; exact h3.trans (ih _ _ _)
      · rename_i e; rw [e] at h1; exact h1
      · rename_i e; rw [e] at h1; exact h1
      · rename_i e; rw [e] at h1; exact h1
      · rename_i e; rw [e] at h1
        exact (h1.trans (.raise _ _ _ _ _ _ _)).trans (.dirty _ _)

/-- A write at a physical address. -/
theorem Accessed.writePhys (s : State) (allow : Allow) (a : Nat) (bs : List Byte) : Accessed s (s.writePhys allow a bs).1 := by
  unfold State.writePhys; split
  · exact .refl s
  · split
    · exact .refl s
    · split
      · exact .refl s
      · exact .writeAt _ _ _ _

/-- A write at a virtual address. -/
theorem Accessed.writeVirt (s : State) (root : Word) (allow : Allow) (va : Nat) (bs : List Byte) :
    Accessed s (s.writeVirt root allow va bs).1 := .writePages root allow _ s va bs

/-- A write at a device address. -/
theorem Accessed.writeDev (s : State) (root : Word) (allow : Allow) (dev : Nat) (bs : List Byte) :
    Accessed s (s.writeDev root allow dev bs).1 := by
  unfold State.writeDev; split
  · exact .writeVirt _ _ _ _ _
  · exact .writePhys _ _ _ _

/-! ### The canonical form -/

/-- Every access above keeps memory canonical. -/
theorem Accessed.wf {s t : State} (h : Accessed s t) (hw : s.mem.wf = true) : t.mem.wf = true := h.form hw

theorem reset_memory_wf : State.reset.mem.wf = true := rfl

end Sys2Proof.Laws
end

