-- ==== Sys2Proof/Laws/Vector.lean ====
section
/-! SUPPORT. Vector words: reading and writing elements, the check of their sources, and what one word does to its engine.
Proofs about a word cite `runWord_done` and the `Wrote` lemmas and need not unfold them. -/

namespace Sys2Proof.Laws

open Sys2Proof.Machine

/-! ### Engines of a state -/

theorem dieIndex_lt (d : Die) : dieIndex d < 2 := by cases d <;> decide

theorem engine_set_same (s : State) (d : Nat) (e : Engine) : (s.setEngine d e).engine d = e := by
  unfold State.setEngine State.engine
  by_cases h0 : d = 0 <;> simp [h0]

theorem engine_set_other (s : State) (d : Nat) (e : Engine) (h : d < 2) :
    (s.setEngine d e).engine (1 - d) = s.engine (1 - d) := by
  unfold State.setEngine State.engine
  by_cases h0 : d = 0
  · simp [h0]
  · have : d = 1 := by omega
    subst this; simp

@[simp] theorem setEngine_mem (s : State) (d : Nat) (e : Engine) : (s.setEngine d e).mem = s.mem := by
  unfold State.setEngine; split <;> rfl

@[simp] theorem setEngine_numerics (s : State) (d : Nat) (e : Engine) : (s.setEngine d e).numerics = s.numerics := by
  unfold State.setEngine; split <;> rfl

@[simp] theorem setEngine_twice (s : State) (d : Nat) (a b : Engine) : (s.setEngine d a).setEngine d b = s.setEngine d b := by
  unfold State.setEngine; split <;> rfl

/-- Only the engine of a die, draws of free values, memory and chains differ. -/
structure Moved (s t : State) (d : Nat) : Prop where
  other   : t.engine (1 - d) = s.engine (1 - d)
  numbers : { t.numerics with chains := s.numerics.chains } = s.numerics
  unit    : { t.vec with e0 := s.vec.e0, e1 := s.vec.e1 } = s.vec
  rest    : { t with vec := s.vec, mem := s.mem, numerics := s.numerics, freeGen := s.freeGen } = s

theorem Moved.refl (s : State) (d : Nat) : Moved s s d := ⟨rfl, rfl, rfl, rfl⟩

theorem Moved.trans {s t u : State} {d : Nat} (a : Moved s t d) (b : Moved t u d) : Moved s u d := by
  obtain ⟨a1, a2, a3, a4⟩ := a
  obtain ⟨b1, b2, b3, b4⟩ := b
  refine ⟨b1.trans a1, ?_, ?_, ?_⟩
  · rw [← a2, ← b2]
  · rw [← a3, ← b3]
  · rw [← a4, ← b4]

theorem Moved.setEngine (s : State) (d : Nat) (e : Engine) (h : d < 2) : Moved s (s.setEngine d e) d := by
  refine ⟨engine_set_other s d e h, by simp, ?_, ?_⟩ <;> (unfold State.setEngine; split <;> rfl)

theorem Moved.draw (s : State) (d : Nat) : Moved s s.draw.2 d := ⟨rfl, rfl, rfl, rfl⟩

theorem Moved.mem (s : State) (d : Nat) (m : Memory) : Moved s { s with mem := m } d := ⟨rfl, rfl, rfl, rfl⟩

@[simp] theorem draw_engine (s : State) (d : Nat) : s.draw.2.engine d = s.engine d := rfl

/-! ### Sound memory -/

theorem meet_sound (s : State) (h : s.mem.latent = []) : ∀ bs, s.meet bs = s
  | [] => rfl
  | b :: bs => by
    have := meet_sound s h bs
    simp [State.meet, h, this]

theorem poisoned_sound (s : State) (h : s.mem.poison = []) (a n : Nat) : s.poisoned a n = none := by
  simp [State.poisoned, h]

theorem meetAll_sound (s : State) (h : s.Sound) : ∀ xs, s.meetAll xs = (s, false)
  | [] => rfl
  | x :: xs => by
    have := meetAll_sound s h xs
    simp [State.meetAll, meet_sound s h.2, poisoned_sound s h.1, this]

theorem clearPoison_sound (s : State) (h : s.Sound) (a n : Nat) : s.clearPoison a n = s := by
  obtain ⟨h1, h2⟩ := h
  unfold State.clearPoison
  simp only [h1, h2, List.filter_nil]
  rw [← h1]
  conv_lhs => rw [show ([] : SMap Nat) = s.mem.latent from h2.symm]

theorem clearWhole_sound (per : Nat) : ∀ (k base : Nat) (fs : List Bool) (s : State), s.Sound → s.clearWhole per base k fs = s
  | 0, _, _, _, _ => rfl
  | k + 1, base, fs, s, h => by
    unfold State.clearWhole
    simp only [clearPoison_sound s h, ite_self]
    exact clearWhole_sound per k _ _ s h

theorem Sound.of_mem {s t : State} (h : s.Sound) (e : t.mem = s.mem) : t.Sound := by
  unfold State.Sound; rw [e]; exact h

/-! ### Reading elements -/

theorem raw_length (e : Engine) (t n c : Nat) : (e.raw t n c).length = c := by
  unfold Engine.raw; split <;> simp

theorem raw_at (e : Engine) (t n c j : Nat) (h : j < c) : (e.raw t n c)[j]? = some (e.rawAt t n j) := by
  unfold Engine.raw Engine.rawAt
  split
  · simp [List.getElem?_zipWith, read_get _ _ _ _ h]
  · simp [read_get _ _ _ _ h]

theorem preds_at (e : Engine) (p c j : Nat) (h : j < c) : (e.preds p c)[j]? = some (e.predAt p j) := by
  unfold Engine.preds Engine.predAt
  simp [read_get _ _ _ _ h]

theorem mask_length (e : Engine) (w : Word) : (e.mask w).length = wordCount w := by
  unfold Engine.mask Engine.preds; split <;> simp

theorem mask_at (e : Engine) (w : Word) (j : Nat) (h : j < wordCount w) : (e.mask w)[j]? = some (e.maskAt w j) := by
  unfold Engine.mask Engine.maskAt
  split
  · simp [preds_at _ _ _ _ h, Engine.predAt]
  · simp [h]

theorem sourceB_length (e : Engine) (w : Word) : (e.sourceB w).length = wordCount w := by
  unfold Engine.sourceB; split <;> simp [raw_length]

theorem sourceB_at (e : Engine) (w : Word) (j : Nat) (h : j < wordCount w) : (e.sourceB w)[j]? = some (e.laneB w j) := by
  unfold Engine.sourceB Engine.laneB
  split <;> simp_all [raw_at]

theorem wordCount_le (w : Word) : wordCount w ≤ 65536 := by
  unfold wordCount bits; omega

/-! ### Writing cells -/

theorem get_putCells {w : Nat} (xs : List (Option (BitVec w))) : ∀ (st : Store w) (k j : Nat),
    (putCells st k xs).get j = if k ≤ j then (((xs[j - k]?).getD none).getD (st.get j)) else st.get j := by
  induction xs with
  | nil => intro st k j; simp [putCells]
  | cons x xs ih =>
    intro st k j
    cases x with
    | none =>
      rw [putCells, ih]
      by_cases h : k + 1 ≤ j
      · have : j - k = (j - (k + 1)) + 1 := by omega
        simp [h, show k ≤ j by omega, this]
      · by_cases h2 : k ≤ j
        · have : j = k := by omega
          subst this; simp
        · simp [h, h2]
    | some v =>
      rw [putCells, ih, get_setCell]
      by_cases h : k + 1 ≤ j
      · have : j - k = (j - (k + 1)) + 1 := by omega
        simp [h, show k ≤ j by omega, this, show j ≠ k by omega]
      · by_cases h2 : k ≤ j
        · have : j = k := by omega
          subst this; simp
        · simp [h, h2, show j ≠ k by omega]


theorem putV_sound (s : State) (h : s.Sound) (d n : Nat) (xs : List (Option Nat)) :
    s.putV d n xs = s.setEngine d { s.engine d with
      v := putCells (s.engine d).v (n * 65536) (xs.map (·.map (BitVec.ofNat 16))) } := by
  unfold State.putV
  exact clearWhole_sound _ _ _ _ _ (Sound.of_mem h (by simp))

/-- Cells of a register after elements are put into a register or pair. -/
def putInto (v : Store 16) (t n : Nat) (xs : List (Option Nat)) : Store 16 :=
  if isWide t then
    putCells (putCells v (n * 65536) (xs.map (·.map (BitVec.ofNat 16)))) ((n + 1) * 65536)
      (xs.map (·.map (fun x => BitVec.ofNat 16 (cleanElem t x / 65536))))
  else putCells v (n * 65536) (xs.map (·.map (BitVec.ofNat 16)))

theorem putElems_sound (s : State) (h : s.Sound) (d t n : Nat) (xs : List (Option Nat)) :
    s.putElems d t n xs = s.setEngine d { s.engine d with v := putInto (s.engine d).v t n xs } := by
  unfold State.putElems putInto
  split
  · rw [putV_sound s h, putV_sound _ (Sound.of_mem h (by simp)), engine_set_same, setEngine_twice]
    simp [List.map_map, Function.comp_def, Option.map_map]
  · exact putV_sound s h d n xs

theorem elemOf_narrow (t x : Nat) (h : isWide t = false) : elemOf t x = x % 65536 := by
  unfold elemOf cleanElem etBits
  have : t ≠ etA24 := by intro h2; subst h2; simp [isWide] at h
  simp [h, this]

theorem elemOf_wide (t x : Nat) (h : isWide t = true) :
    x % 65536 + 65536 * (cleanElem t x / 65536 % 65536) = elemOf t x := by
  unfold elemOf cleanElem etBits
  simp only [h, if_true]
  split <;> omega

/-- R133: elements put into a register or pair are read back, and the others stay. -/
theorem putInto_wrote (e : Engine) (r : Option VecRun) (t n : Nat) (xs : List (Option Nat)) (hx : xs.length ≤ 65536) :
    Engine.Wrote e { e with v := putInto e.v t n xs, run := r } t n xs.length
      (fun j x => x = match (xs[j]?).getD none with
        | some y => elemOf t y
        | none => e.rawAt t n j) := by
  refine ⟨?_, ?_, ?_, rfl⟩
  · intro j hj
    simp only [Engine.rawAt, putInto]
    cases hw : isWide t
    · simp only [Bool.false_eq_true, if_false, get_putCells]
      simp only [Nat.le_add_right, if_true, Nat.add_sub_cancel_left, List.getElem?_map]
      cases h1 : xs[j]? with
      | none => simp
      | some o =>
        cases o with
        | none => simp
        | some y => simp [elemOf_narrow t y hw]
    · simp only [if_true, get_putCells]
      have a1 : ¬ ((n + 1) * 65536 ≤ n * 65536 + j) := by omega
      have a2 : n * 65536 ≤ (n + 1) * 65536 + j := by omega
      have a3 : (n + 1) * 65536 + j - n * 65536 = 65536 + j := by omega
      have a4 : xs[65536 + j]? = none := by simp; omega
      simp only [a1, a2, a3, Nat.le_add_right, if_true, if_false, Nat.add_sub_cancel_left, List.getElem?_map, a4]
      cases h1 : xs[j]? with
      | none => simp
      | some o =>
        cases o with
        | none => simp
        | some y => simp [elemOf_wide t y hw]
  · intro j hj hk
    simp only [Engine.rawAt, putInto]
    have a0 : xs[j]? = none := by simp; omega
    cases hw : isWide t
    · simp only [Bool.false_eq_true, if_false, get_putCells]
      simp [a0]
    · simp only [if_true, get_putCells]
      have a1 : ¬ ((n + 1) * 65536 ≤ n * 65536 + j) := by omega
      have a2 : n * 65536 ≤ (n + 1) * 65536 + j := by omega
      have a3 : (n + 1) * 65536 + j - n * 65536 = 65536 + j := by omega
      have a4 : xs[65536 + j]? = none := by simp; omega
      simp [a0, a1, a2, a3, a4]
  · intro k h1 h2
    have put (v : Store 16) (m : Nat) (ys : List (Option (BitVec 16))) (hy : ys.length ≤ 65536) (hk : k / 65536 ≠ m) :
        (putCells v (m * 65536) ys).get k = v.get k := by
      rw [get_putCells]
      by_cases h3 : m * 65536 ≤ k
      · have : ys[k - m * 65536]? = none := by
          simp only [List.getElem?_eq_none_iff]
          by_contra hc
          apply hk
          omega
        simp [this]
      · simp [h3]
    simp only [putInto]
    cases hw : isWide t
    · simp only [Bool.false_eq_true, if_false]
      exact put _ _ _ (by simpa using hx) h1
    · simp only [if_true]
      rw [put _ _ _ (by simpa using hx) (h2 hw), put _ _ _ (by simpa using hx) h1]

/-! ### Results under a mask -/

theorem masked_length (pz : Bool) : ∀ (ms : List Bool) (xs : List Nat), ms.length = xs.length → (masked pz ms xs).length = xs.length
  | [], [], _ => rfl
  | _ :: ms, _ :: xs, h => by
    have := masked_length pz ms xs (by simpa using h)
    simp [masked, this]

theorem masked_at (pz : Bool) : ∀ (ms : List Bool) (xs : List Nat) (j : Nat) (m : Bool) (x : Nat),
    ms[j]? = some m → xs[j]? = some x → (masked pz ms xs)[j]? = some (if m then some x else if pz then some 0 else none)
  | m0 :: ms, x0 :: xs, 0, m, x, h1, h2 => by simp_all [masked]
  | m0 :: ms, x0 :: xs, j + 1, m, x, h1, h2 => by
    simp only [masked, List.getElem?_cons_succ] at *
    exact masked_at pz ms xs j m x h1 h2

theorem withIndex_length {α β : Type} (f : Nat → α → β) : ∀ (xs : List α) (j : Nat), (withIndex f j xs).length = xs.length
  | [], _ => rfl
  | x :: xs, j => by simp [withIndex, withIndex_length f xs (j + 1)]

theorem withIndex_at {α β : Type} (f : Nat → α → β) : ∀ (xs : List α) (j i : Nat),
    (withIndex f j xs)[i]? = (xs[i]?).map (f (j + i))
  | [], _, _ => by simp [withIndex]
  | x :: xs, j, 0 => by simp [withIndex]
  | x :: xs, j, i + 1 => by
    simp only [withIndex, List.getElem?_cons_succ, withIndex_at f xs (j + 1) i]
    rw [show j + 1 + i = j + (i + 1) by omega]

theorem fill_length (w : Word) (inputs : Nat → List Nat) (xs : List (Option Nat)) : (fill w inputs xs).length = xs.length :=
  withIndex_length _ _ _

/-- Filling in unstated elements keeps the stated ones. -/
theorem fill_at (w : Word) (inputs : Nat → List Nat) (xs : List (Option Nat)) (i y : Nat) (h : xs[i]? = some (some y)) :
    (fill w inputs xs)[i]? = some y := by
  unfold fill
  rw [withIndex_at, h]; rfl

/-- What an effect has done to registers: memory stands, and one register or pair holds new elements. -/
structure Effected (s t : State) (d : Nat) : Prop where
  moved : Moved s t d
  mem   : t.mem = s.mem
  nums  : t.numerics = s.numerics

theorem Effected.refl (s : State) (d : Nat) : Effected s s d := ⟨.refl s d, rfl, rfl⟩
theorem Effected.draw (s : State) (d : Nat) : Effected s s.draw.2 d := ⟨.draw s d, rfl, rfl⟩
theorem Effected.set (s : State) (d : Nat) (e : Engine) (h : d < 2) : Effected s (s.setEngine d e) d :=
  ⟨.setEngine s d e h, by simp, by simp⟩
theorem Effected.trans {s t u : State} {d : Nat} (a : Effected s t d) (b : Effected t u d) : Effected s u d :=
  ⟨a.moved.trans b.moved, b.mem.trans a.mem, b.nums.trans a.nums⟩

/-- R143: elements put under the mask. -/
theorem putElems_spec (s : State) (h : s.Sound) (d : Nat) (hd : d < 2) (t n : Nat) (xs : List (Option Nat)) (hx : xs.length ≤ 65536) :
    Effected s (s.putElems d t n xs) d ∧ ((s.putElems d t n xs).engine d).run = (s.engine d).run ∧
      (s.engine d).Wrote ((s.putElems d t n xs).engine d) t n xs.length
        (fun j x => x = match (xs[j]?).getD none with
          | some y => elemOf t y
          | none => (s.engine d).rawAt t n j) := by
  rw [putElems_sound s h, engine_set_same]
  exact ⟨.set _ _ _ hd, rfl, putInto_wrote (s.engine d) (s.engine d).run t n xs hx⟩

theorem Wrote.imp {e e' : Engine} {t n c : Nat} {P Q : Nat → Nat → Prop} (h : e.Wrote e' t n c P)
    (i : ∀ j x, j < c → P j x → Q j x) : e.Wrote e' t n c Q :=
  ⟨fun j hj => i j _ hj (h.elems j hj), h.tail, h.others, h.same⟩

/-- R143: the stated results of a word stand in VD where the mask takes them. -/
theorem writeElems_spec (s : State) (h : s.Sound) (d : Nat) (hd : d < 2) (w : Word) (inputs : Nat → List Nat) (xs : List (Option Nat))
    (hx : xs.length = wordCount w) (f : Nat → Option Nat) (hf : ∀ j, j < wordCount w → xs[j]? = some (f j)) :
    Effected s (s.writeElems d w inputs xs) d ∧ ((s.writeElems d w inputs xs).engine d).run = (s.engine d).run ∧
      (s.engine d).Wrote ((s.writeElems d w inputs xs).engine d) (wordEtype w) (wordVD w) (wordCount w)
        ((s.engine d).Gives w f) := by
  unfold State.writeElems
  have h2 := fill_length w inputs xs
  have ml : (masked (wordPzero w) ((s.engine d).mask w) (fill w inputs xs)).length = wordCount w := by
    rw [masked_length _ _ _ (by rw [mask_length, h2, hx]), h2, hx]
  obtain ⟨p1, p2, p3⟩ := putElems_spec s h d hd (wordEtype w) (wordVD w)
    (masked (wordPzero w) ((s.engine d).mask w) (fill w inputs xs)) (by rw [ml]; exact wordCount_le w)
  rw [ml] at p3
  refine ⟨p1, p2, Wrote.imp p3 ?_⟩
  intro j x hj hp
  have hl : j < (fill w inputs xs).length := by rw [h2, hx]; exact hj
  have hm := masked_at (wordPzero w) _ _ j _ _ (mask_at (s.engine d) w j hj) (List.getElem?_eq_getElem hl)
  rw [hm] at hp
  unfold Engine.Gives
  split
  · rename_i hk
    intro y hy
    have h4 := fill_at w inputs xs j y (by rw [hf j hj, hy])
    rw [List.getElem?_eq_getElem hl] at h4
    simp only [hk, if_true, Option.getD_some] at hp
    rw [hp]
    simp only [Option.some.injEq] at h4
    rw [h4]
  · rename_i hk
    simp only [hk, Bool.false_eq_true, if_false, Option.getD_some] at hp
    rw [hp]
    cases hz : wordPzero w
    · simp
    · simp [elemOf, cleanElem]

theorem laneResults_length (f : Lane → Lane → Lane → Option Nat) : ∀ (as bs cs : List Lane), as.length = bs.length →
    bs.length = cs.length → (laneResults f as bs cs).length = as.length
  | [], [], [], _, _ => rfl
  | a :: as, b :: bs, c :: cs, h1, h2 => by
    simp [laneResults, laneResults_length f as bs cs (by simpa using h1) (by simpa using h2)]

theorem laneResults_at (f : Lane → Lane → Lane → Option Nat) (as : List Lane) : ∀ (bs cs : List Lane) (j : Nat) (a b c : Lane),
    as[j]? = some a → bs[j]? = some b → cs[j]? = some c → (laneResults f as bs cs)[j]? = some (f a b c) := by
  induction as with
  | nil => intro bs cs j a b c h1; simp at h1
  | cons a0 as ih =>
    intro bs cs j a b c h1 h2 h3
    cases bs with
    | nil => simp at h2
    | cons b0 bs =>
      cases cs with
      | nil => simp at h3
      | cons c0 cs =>
        cases j with
        | zero =>
          simp only [List.getElem?_cons_zero, Option.some.injEq] at h1 h2 h3
          simp [laneResults, h1, h2, h3]
        | succ j =>
          simp only [List.getElem?_cons_succ] at h1 h2 h3
          simpa [laneResults] using ih bs cs j a b c h1 h2 h3

/-! ### One word -/

theorem atWord_run {s : State} {d : Nat} {w : Word} {op : Nat} {r : VecRun} (h : s.atWord d w op = some r) :
    (s.engine d).run = some r ∧ wordOp w = op ∧ r.ended = false ∧ r.prog[r.pc]? = some w := by
  unfold State.atWord at h
  split at h
  · cases h
  · split at h
    · rename_i r0 h0 h1
      cases h
      simp only [Bool.and_eq_true, beq_iff_eq, Bool.not_eq_true'] at h1
      exact ⟨h0, h1.1.1, h1.1.2, h1.2⟩
    · cases h

theorem setRun_same (s : State) (d : Nat) (r : VecRun) (h : (s.engine d).run = some r) : s.setRun d r = s := by
  unfold State.setRun State.setEngine
  unfold State.engine at *
  split
  · rename_i h0
    simp only [h0, if_true] at *
    rw [← h]
  · rename_i h0
    simp only [h0, if_false] at *
    rw [← h]

theorem setRun_engine (s : State) (d : Nat) (r : VecRun) : (s.setRun d r).engine d = { s.engine d with run := some r } :=
  engine_set_same _ _ _

/-- Acting for an op changes nothing else. -/
theorem acting_eq (s : State) (id : Nat) : ∃ a, s.acting id = { s with actor := a } := by
  unfold State.acting
  split
  · exact ⟨_, rfl⟩
  · exact ⟨s.actor, rfl⟩

@[simp] theorem acting_engine (s : State) (id d : Nat) : (s.acting id).engine d = s.engine d := by
  obtain ⟨a, e⟩ := acting_eq s id; rw [e]; rfl

theorem acting_sound {s : State} (id : Nat) (h : s.Sound) : (s.acting id).Sound := by
  obtain ⟨a, e⟩ := acting_eq s id; rw [e]; exact Sound.of_mem h rfl

/-- The run after a word that the module ran for an op: it is at `next`, with one more word done. -/
theorem Moved.ran {s t : State} {die : Die} {r r0 : VecRun} {occ next id : Nat} {wt : WordTime}
    (hs : Moved (s.acting id) t (dieIndex die)) (h1 : r0.op = r.op) (h2 : r0.prog = r.prog) (h3 : r0.words = r.words)
    (h4 : r0.failure = r.failure) (h5 : r0.masked = r.masked) :
    s.RanWord { t.setRun (dieIndex die) (r0.advance next occ wt) with actor := s.actor } die r next := by
  obtain ⟨a, e⟩ := acting_eq s id
  rw [e] at hs
  have m := hs.trans (Moved.setEngine t (dieIndex die) { t.engine (dieIndex die) with run := some (r0.advance next occ wt) }
    (dieIndex_lt die))
  refine ⟨⟨r0.advance next occ wt, ?_, ?_⟩, m.other, m.numbers, m.unit, ?_⟩
  · exact congrArg Engine.run (setRun_engine t (dieIndex die) (r0.advance next occ wt))
  · simp [VecRun.advance, VecRun.timed, h1, h2, h3, h4, h5]
  · exact congrArg (fun x : State => { x with actor := s.actor }) m.rest

/-- R143: a word whose sources are sound and whose duplicates agree has its effect, and the run goes on to the next word. -/
theorem vecWord_done (f : VecEffect) (time : Nat → VecRun → Word → State → WordTime) {s : State} {die : Die} {w : Word} {op : Nat}
    {v : UnitVote} {r : VecRun} (h : s.WordDue die w op v r) (u : State) (r2 : VecRun)
    (hf : f (dieIndex die) r w (s.acting r.op) = (u, none)) (hr : (u.engine (dieIndex die)).run = some r2)
    (k1 : r2.op = r.op) (k2 : r2.prog = r.prog) (k3 : r2.words = r.words) (k4 : r2.failure = r.failure)
    (k5 : r2.masked = r.masked) (k6 : r2.pc = r.pc) (m : Moved (s.acting r.op) u (dieIndex die)) :
    ∃ r', s.RanWord { u.setRun (dieIndex die) r' with actor := s.actor } die r (r.pc + 1) ∧
      whenReadyOr s (vecWord die w op v time f) = done s { u.setRun (dieIndex die) r' with actor := s.actor } := by
  obtain ⟨h1, h2, h3, h4⟩ := h
  refine ⟨r2.advance (r2.pc + 1) (checkedOcc (wordChecked r w) false (time (dieIndex die) r w s).1) (time (dieIndex die) r w s),
    ?_, ?_⟩
  · rw [k6]; exact Moved.ran m k1 k2 k3 k4 k5
  · unfold whenReadyOr vecWord
    simp only [h1, if_true, h3, Option.getD_some]
    have hr0 : (s.acting r.op).setRun (dieIndex die) r = s.acting r.op :=
      setRun_same _ _ r (by rw [acting_engine]; exact (atWord_run h3).1)
    have main : (s.acting r.op).runWord (dieIndex die) r w v (time (dieIndex die) r w s) f =
        u.setRun (dieIndex die) (r2.advance (r2.pc + 1) (checkedOcc (wordChecked r w) false (time (dieIndex die) r w s).1)
          (time (dieIndex die) r w s)) := by
      unfold State.runWord
      simp only [meetAll_sound _ (acting_sound r.op h2), Bool.false_eq_true, if_false]
      cases v with
      | agree => simp [hr0, hf, hr]
      | masked d l =>
        have hc : wordChecked r w = false := by rcases h4 with h4 | h4 <;> simp_all
        simp [hc, hr0, hf, hr]
      | mismatch =>
        have hc : wordChecked r w = false := by rcases h4 with h4 | h4 <;> simp_all
        simp [hc, hr0, hf, hr]
    rw [main]; rfl

/-- R144, R145: an arithmetic word writes the result of each element its mask takes. -/
theorem elementwise_spec (ff : FloatFn) (fi : IntFn) (s : State) (h : s.Sound) (d : Nat) (hd : d < 2) (r : VecRun) (w : Word)
    (f : Nat → Option Nat) (hf : ∀ j, j < wordCount w → f j = laneResult ff fi (wordEtype w) (rndOf w)
      (if opSrcA (wordOp w) then (s.engine d).laneA w j else (.zero, 0))
      (if opSrcB (wordOp w) then (s.engine d).laneB w j else (.zero, 0))
      (if opSrcC (wordOp w) then (s.engine d).laneC w j else (.zero, 0))) :
    ∃ u, elementwise ff fi d r w s = (u, none) ∧ Effected s u d ∧ (u.engine d).run = (s.engine d).run ∧
      (s.engine d).Wrote (u.engine d) (wordEtype w) (wordVD w) (wordCount w) ((s.engine d).Gives w f) := by
  refine ⟨_, rfl, ?_⟩
  have la : ∀ (b : Bool) (as : List Lane) (k : Nat → Lane), as.length = wordCount w →
      (∀ j, j < wordCount w → as[j]? = some (k j)) →
      (if b then as else List.replicate (wordCount w) ((.zero, 0) : Lane)).length = wordCount w ∧
      ∀ j, j < wordCount w → (if b then as else List.replicate (wordCount w) ((.zero, 0) : Lane))[j]? =
        some (if b then k j else (.zero, 0)) := by
    intro b as k h1 h2
    cases b
    · refine ⟨by simp, ?_⟩
      intro j hj; simp [hj]
    · exact ⟨by simpa using h1, by simpa using h2⟩
  have ra : ∀ n, ((((s.engine d).raw (wordEtype w) n (wordCount w)).map (laneOf (wordEtype w))).length = wordCount w) ∧
      ∀ j, j < wordCount w → (((s.engine d).raw (wordEtype w) n (wordCount w)).map (laneOf (wordEtype w)))[j]? =
        some (laneOf (wordEtype w) ((s.engine d).rawAt (wordEtype w) n j)) := by
    intro n
    refine ⟨by simp [raw_length], ?_⟩
    intro j hj; simp [raw_at _ _ _ _ _ hj]
  obtain ⟨a1, a2⟩ := la (opSrcA (wordOp w)) _ _ (ra (wordVA w)).1 (ra (wordVA w)).2
  obtain ⟨b1, b2⟩ := la (opSrcB (wordOp w)) _ _ (sourceB_length (s.engine d) w) (fun j hj => sourceB_at (s.engine d) w j hj)
  obtain ⟨c1, c2⟩ := la (opSrcC (wordOp w)) _ _ (ra (wordVC w)).1 (ra (wordVC w)).2
  refine writeElems_spec s h d hd w _ _ ?_ f ?_
  · rw [laneResults_length _ _ _ _ (by rw [a1, b1]) (by rw [b1, c1]), a1]
  · intro j hj
    rw [hf j hj]
    exact laneResults_at _ _ _ _ _ _ _ _ (a2 j hj) (b2 j hj) (c2 j hj)

end Sys2Proof.Laws
end

