-- ==== Sys2Proof/WellFormed.lean ====
section
/-! DEFINITION. Commands whose operands have the shape their rule gives them: a descriptor read is 64 bytes, a doorbell
read 1,024, a Yehosen header 16, a mirror page 64 KiB, one reading per sensor group. The sender sends only these. -/

namespace Sys2Proof

/-- A host read that returned data returned `n` bytes. -/
def HostRead.wf (n : Nat) : HostRead → Bool
  | .data bs => bs.length == n
  | .failed _ => true

/-- A multiple of 64 between 64 and 4,096 (R245). -/
def wfBlocks (bs : List Byte) : Bool := bs.length % 64 == 0 && 64 ≤ bs.length && bs.length ≤ 4096

/-- A mailbox request carries no inline data; FW_OP carries at most 1,024 bytes (R378). -/
def FwReq.wf : FwReq → Bool
  | .mailbox _ => true
  | .mctp _ _ _ _ data => data.length ≤ 1024

/-- R358, R359: three dies, twenty stacks. -/
def SensorReading.wf (r : SensorReading) : Bool :=
  r.dieMax.length == 3 && r.dieAvg.length == 3 && r.dieIdx.length == 3 && r.hbm.length == 20

/-- R234: a port with more than 16 uncorrectable codewords is down; an Ethernet frame has at least 64 bytes. -/
def Arrival.wf (a : Arrival) : Bool := a.fec.uncorrectable ≤ 16 && 64 ≤ a.size

def Instr.wf : Instr → Bool
  | .linkDown _ fall => fall.cause != .fec || 16 < fall.fec.uncorrectable
  | .rootPllLock run => run.tableMw.length == 6
  | .sensorSample r => r.wf
  | .doorbellPollDone r => r.wf 1024
  | .commandFetch _ r => r.wf 64
  | .bar2Read _ n => 1 ≤ n && n ≤ 4096
  | .bar2Write _ bytes => 1 ≤ bytes.length && bytes.length ≤ 4096
  | .fwBegin r _ => r.wf
  | .fwWrite r _ => r.wf
  | .fwVerify r => r.wf
  | .fwActivate r _ => r.wf
  | .fwAbort r => r.wf
  | .fwCommit r => r.wf
  | .yehosenWrite _ hdr payload => hdr.length == 16 && wfBlocks payload
  | .yehosenReadReq _ hdr payload => hdr.length == 16 && payload.isEmpty
  | .yehosenReadResp _ hdr payload => hdr.length == 16 && wfBlocks payload
  | .yehosenAck _ hdr _ => hdr.length == 16
  | .yehosenNak _ hdr _ => hdr.length == 16
  | .yehosenSemAdd _ hdr payload => hdr.length == 16 && payload.length == 4
  | .nptData a h chunk ce _ => a.wf && chunk.length ≤ 2 ^ 20 && ce ≤ 256 && h.length.toNat ≤ 4096
  | .nptAck k => k.arrival.wf
  | .nptNack k words => k.arrival.wf && k.header.length.toNat == 2 * words.length
  | .hello k label => k.arrival.wf && label.length == 20
  | .helloAck k label => k.arrival.wf && label.length == 20
  | .verdict k payload => k.arrival.wf && payload.length == 16
  | .mirrorPage a _ _ _ _ bytes => a.wf && bytes.length == 0x10000
  | .mirrorScaleImage k _ image => k.arrival.wf && image.length == 0x300000
  | .mirrorAck k _ _ => k.arrival.wf
  | .committedCutFetch k _ => k.arrival.wf
  | .fieldTest _ run => run.failed.length ≤ 8
  | _ => true

end Sys2Proof
end

