-- ==== Sys2Proof/Tests/Slice0.lean ====
section
/-! SUPPORT. Tests: ill-formed commands are refused, worked examples of the manual hold, and for each statement a state and
operands that meet its hypotheses. -/

namespace Sys2Proof.Tests

-- One test after another: run side by side they wait on one another, each in a thread of its own.
set_option Elab.async false

open Sys2Proof Sys2Proof.Machine

/-! ### Well-formedness -/

def startRun : StartRun :=
  { fail := none, lanesRepaired := 0, rowsRepaired := 0, sramRemaps := 0, exhausted := [], l85 := 0, tableMw := [0, 0, 0, 0, 0, 0]
    readyTime := 900000000, readyMs := 900 }
def header : NptHeader := ⟨0, 0, 0, 0, 0, 0, 0, 0⟩
def sensors : SensorReading := { dieMax := [0, 0, 0], dieAvg := [0, 0, 0], dieIdx := [0, 0, 0], hbm := List.replicate 20 0, inlet := 0 }

theorem test_wf_start : (Instr.rootPllLock startRun).wf = true ∧ (Instr.rootPllLock { startRun with tableMw := [] }).wf = false := by decide
theorem test_wf_sensors : (Instr.sensorSample sensors).wf = true ∧ (Instr.sensorSample { sensors with hbm := [] }).wf = false ∧
    (Instr.sensorSample { sensors with dieMax := [0] }).wf = false ∧ (Instr.sensorSample { sensors with dieAvg := [] }).wf = false ∧
    (Instr.sensorSample { sensors with dieIdx := [] }).wf = false := by decide
theorem test_wf_doorbell : (Instr.doorbellPollDone (.data (zeros 1024))).wf = true ∧ (Instr.doorbellPollDone (.data [0])).wf = false := by decide +kernel
theorem test_wf_fetch : (Instr.commandFetch 0 (.data (zeros 64))).wf = true ∧ (Instr.commandFetch 0 (.data [])).wf = false := by decide
theorem test_wf_bar2Read : (Instr.bar2Read 0 4096).wf = true ∧ (Instr.bar2Read 0 0).wf = false ∧ (Instr.bar2Read 0 4097).wf = false := by decide
theorem test_wf_bar2Write : (Instr.bar2Write 0 [1]).wf = true ∧ (Instr.bar2Write 0 []).wf = false := by decide
theorem test_wf_firmware : (Instr.fwBegin (.mailbox 0) true).wf = true ∧
    ([fun r => Instr.fwBegin r true, fun r => Instr.fwWrite r true, Instr.fwVerify, fun r => Instr.fwActivate r true, Instr.fwAbort,
      Instr.fwCommit].all (fun c => !(c (.mctp 0 0 0 0 (zeros 1025))).wf)) = true := by decide +kernel
theorem test_wf_yehosen : (Instr.yehosenWrite 0 (zeros 16) (zeros 64)).wf = true ∧ (Instr.yehosenWrite 0 (zeros 16) (zeros 63)).wf = false ∧
    (Instr.yehosenReadReq 0 (zeros 16) [0]).wf = false ∧ (Instr.yehosenReadResp 0 (zeros 15) (zeros 64)).wf = false ∧
    (Instr.yehosenAck 0 [] []).wf = false ∧ (Instr.yehosenNak 0 [] []).wf = false ∧ (Instr.yehosenSemAdd 0 (zeros 16) []).wf = false := by decide
def arrival : Arrival := { port := 6, size := 128, tagged := false, intact := true, reserved := false, fec := ⟨1, 0⟩ }
def packet : Packet := ⟨arrival, header⟩

theorem test_wf_npt : (Instr.nptData arrival header [] 256 .agree).wf = true ∧ (Instr.nptData arrival header [] 257 .agree).wf = false ∧
    (Instr.nptData { arrival with size := 63 } header [] 0 .agree).wf = false ∧
    (Instr.nptAck { packet with arrival := { arrival with fec := ⟨0, 17⟩ } }).wf = false ∧
    (Instr.nptNack packet [0]).wf = false ∧ (Instr.hello packet []).wf = false ∧ (Instr.helloAck packet []).wf = false ∧
    (Instr.verdict packet []).wf = false := by decide
theorem test_wf_mirror : (Instr.mirrorPage arrival header 0 0 0 []).wf = false ∧ (Instr.mirrorScaleImage packet 0 []).wf = false ∧
    (Instr.mirrorAck { packet with arrival := { arrival with size := 0 } } 0 .committed).wf = false ∧
    (Instr.committedCutFetch { packet with arrival := { arrival with size := 0 } } []).wf = false := by decide
theorem test_wf_fieldTest : (Instr.fieldTest 0 { inTime := true, failed := List.replicate 9 ⟨0, 0, 0⟩, ns := 0 }).wf = false := by decide
theorem test_wf_linkDown : (Instr.linkDown 0 ⟨.fec, ⟨0, 16⟩⟩).wf = false ∧ (Instr.linkDown 0 ⟨.fec, ⟨0, 17⟩⟩).wf = true := by decide

/-- R182: device ID 0x3220, class code 0x12_0000, and the subsystem of an ELC module. -/
theorem test_pci_identity : State.reset.pciIdentity 0 = 0x32200000 ∧ State.reset.pciIdentity 8 = 0x12000000 ∧
    State.reset.pciIdentity 0x2C = 0x20000 := by decide +kernel
/-- R185: aligned reads of 4 and 8 bytes, and any other. -/
theorem test_bar0_read : State.reset.bar0Read 0 4 = 0x23220 ∧ State.reset.bar0Read 4 4 = 1 ∧ State.reset.bar0Read 2 4 = 0 ∧
    State.reset.bar0Read 4 8 = 0 ∧ State.reset.bar0Read 0 2 = 0 := by decide +kernel

/-! ### Worked examples of the manual -/

/-- R23's example. -/
theorem test_hbm_stack : hbmStack 0x123456000 = 8 ∧ hbmStack 0x123457000 = 9 ∧ hbmStack 0x123458000 = 0 ∧
    hbmStackOffset 0x123456000 = 244350976 := by decide
/-- R195's torn doorbell. -/
theorem test_torn_doorbell : doorbellWord 0xFFFF000000010000 = none ∧ doorbellWord 0xFFFEFFFF0000FFFF = none ∧
    doorbellWord 0xFFFEFFFF00010000 = some 0x10000 := by decide
/-- R69's exact tile. -/
theorem test_exact_tile : tileSum [(decodeFloat fmtE4M3 0x7E).mul (decodeFloat fmtE4M3 0x7E),
    (decodeFloat fmtE4M3 1).mul (decodeFloat fmtE4M3 1), (decodeFloat fmtE4M3 0xFE).mul (decodeFloat fmtE4M3 0x7E)] = 0x368000 := by
  decide +kernel
/-- R124's INT8 element drained to BF16. -/
theorem test_integer_drain : (storedCode codeBF16 .nearest (((Val.ofInt 123456).mul (decodeFloat fmtBF16 0x3C00)).mul
    (decodeFloat fmtBF16 0x3C40))).1 = 0x4135 := by decide +kernel
/-- R155's table lookup and its derivative. -/
theorem test_lookup : roundFloat fmtBF16 .nearest (lookup 0x0040280000_3FC800 0x3FA6) = 0x3FD8 ∧
    roundFloat fmtBF16 .nearest (lookup 0x0040000000_402000 0x3FA6) = 0x4026 := by decide +kernel
/-- R157's stochastic narrowing of 1 + 2^-10. -/
theorem test_stochastic : roundFloat fmtBF16 (.stoch 0x1FFFFFFF) (.num false 1025 1 (-10)) = 0x3F81 ∧
    roundFloat fmtBF16 (.stoch 0x20000000) (.num false 1025 1 (-10)) = 0x3F80 := by decide +kernel
/-- R342's elected writer. -/
theorem test_elected : electedRank 5 1000 4 = 1 := by decide
/-- R351 in the look-ahead example: classes 4 at 490 W, E2M1 at 1,000 W, E4M3 at 900 W, and a backward band at 600 W. -/
theorem test_frank_watts : frankWatts 490000 1 1 1 1 = 525 ∧ frankWatts 1000000 1 1 1 1 = 1050 ∧ frankWatts 900000 1 1 1 1 = 950 ∧
    frankWatts 900000 4 6 1 1 = 650 := by decide
/-- R254: the check value of CRC-32C, of the nine digits. -/
theorem test_crc32c : crc32c [49, 50, 51, 52, 53, 54, 55, 56, 57] = 0xE3069283 := by decide +kernel
/-- R245: a window read of 100 bytes from offset 60 is one READ_REQ of three blocks. -/
theorem test_window_pieces : windowPieces 60 100 = [(0, 192)] ∧ windowPieces 64 4160 = [(64, 4096), (4160, 64)] := by decide
/-- The table gives its rows no bits. -/
theorem test_no_word_is_a_command : ∀ n w, decodeTableWord n w = none ∧ ∀ s : State, s.withFetchWord n w = s := fun _ _ => ⟨rfl, fun _ => rfl⟩

/-! ### States for the hypotheses of the statements -/

/-- READY, with the link up and both images running. -/
def up : State :=
  { State.reset with
    life := { Life.reset with phase := .ready, stage := 8, pwrgd := true, rootLocked := true, oscillator := false }
    pcie := { Pcie.reset with linkUp := true, cfgReady := true }
    fw := { Firmware.reset with gyton := { ImageBank.reset with running := some ⟨0, 0, 0⟩ }
                                rolrohan := { ImageBank.reset with running := some ⟨0, 0, 0⟩ } } }

def inPhase (p : Phase) (stage : Nat) : State := { State.reset with life := { Life.reset with phase := p, stage := stage } }

/-- A slot that holds nothing, and two of them. -/
def emptySlot : Slot := ⟨none, Store.empty 8⟩
def emptyBank : ImageBank := { ImageBank.reset with a := emptySlot, b := emptySlot }
/-- No slot of either kind is accepted; or the pending one of either is refused; or a Gyton image is on trial. -/
def noImages (s : State) : State := { s with fw := { s.fw with gyton := emptyBank, rolrohan := emptyBank } }
def refusedPending (s : State) : State :=
  { s with fw := { s.fw with gyton := { ImageBank.reset with pending := some 1, b := emptySlot }
                             rolrohan := { ImageBank.reset with pending := some 1, b := emptySlot } } }
def onTrial (s : State) : State := { s with fw := { s.fw with gyton := { ImageBank.reset with pending := some 1, tried := true } } }

theorem chooses_active {s : State} {kind : Nat} {i : ImageInfo} (hp : (s.bank kind).pending = none)
    (hi : s.imageIn kind (s.bank kind).active = .ok i) : s.Chooses kind (s.bank kind).active i :=
  ⟨hi, .inr ⟨fun p h => (by rw [h.1] at hp; cases hp), .inl rfl⟩⟩
theorem no_fresh {s : State} {kind : Nat} (hp : (s.bank kind).pending = none) : ∀ p, ¬ s.freshSlot kind p := fun p h => by
  rw [h.1] at hp; cases hp
theorem chooses_none {s : State} {kind : Nat} {a b : Nat} (hp : (s.bank kind).pending = none)
    (ha : s.imageIn kind (s.bank kind).active = .error a) (hb : s.imageIn kind (1 - (s.bank kind).active) = .error b) : s.ChoosesNone kind :=
  ⟨fun p h => absurd h (no_fresh hp p), ⟨a, ha⟩, ⟨b, hb⟩⟩

theorem met_StepRunsFront : ∃ (s : State) (c : Instr) (rest : List Instr), s.pending = c :: rest :=
  ⟨{ up with pending := [.flr, .flr] }, .flr, [.flr], rfl⟩

theorem met_StepOnEmptyQueue : (State.reset.pending = [] ∧ State.reset.clocksRun = false) ∧
    ((inPhase .starting 2).pending = [] ∧ { inPhase .starting 2 with life := { (inPhase .starting 2).life with rootLocked := true } }.clocksRun = true ∧
      (inPhase .starting 2).isReady = false) ∧ (up.pending = [] ∧ up.clocksRun = true ∧ up.isReady = true) := by decide

theorem met_CyclesBalanced : State.reset.clock.Balanced ∧ step State.reset = .next State.reset.tick :=
  ⟨⟨rfl, rfl, Nat.le_refl _, by decide⟩, rfl⟩

theorem met_NothingElseActsEarly : actsEarly .doorbellPoll = false ∧ State.reset.isReady = false := by decide

theorem met_StartOfGyton : (State.reset.life.phase = .off ∧ State.reset.Chooses 1 0 ⟨0, 0, 0⟩) ∧
    ((inPhase .inReset 0).life.phase = .inReset ∧ (inPhase .inReset 0).Chooses 1 0 ⟨0, 0, 0⟩ ∧ (inPhase .inReset 0).fw.gyton.pending = none ∧
      0 = (inPhase .inReset 0).fw.gyton.active) ∧
    ((noImages State.reset).life.phase = .off ∧ (noImages State.reset).ChoosesNone 1) ∧
    ((noImages (inPhase .inReset 0)).life.phase = .inReset ∧ (noImages (inPhase .inReset 0)).ChoosesNone 1) ∧
    ((refusedPending State.reset).life.phase = .off ∧ (refusedPending State.reset).fw.gyton.pending = some 1 ∧
      (refusedPending State.reset).fw.gyton.tried = false ∧ ∃ e, (refusedPending State.reset).imageIn 1 1 = .error e) ∧
    up.life.phase ≠ .off ∧ up.life.phase ≠ .inReset :=
  ⟨⟨rfl, chooses_active rfl rfl⟩, ⟨rfl, chooses_active rfl rfl, rfl, rfl⟩, ⟨rfl, chooses_none rfl rfl rfl⟩, ⟨rfl, chooses_none rfl rfl rfl⟩,
    ⟨rfl, rfl, rfl, _, rfl⟩, by decide, by decide⟩

/-- Start-up waits for the reference clock. -/
def starting : State := inPhase .starting 2

theorem met_StartUp : (starting.life.phase = .starting ∧ starting.life.stage = 2) ∧
    (startRun.fail = none ∧ starting.Chooses 2 0 ⟨0, 0, 0⟩ ∧ ∀ p, ¬ starting.freshSlot 2 p) ∧
    { startRun with fail := some .pll }.fail = some .pll ∧ { startRun with fail := some (.link 2) }.fail = some (.link 2) ∧
    { startRun with fail := some (.sram 255) }.fail = some (.sram 255) ∧ { startRun with fail := some (.stack 19) }.fail = some (.stack 19) ∧
    ((noImages starting).ChoosesNone 2 ∧ ∀ p, ¬ (noImages starting).freshSlot 2 p) ∧
    ((refusedPending starting).freshSlot 2 1 ∧ (∃ e, (refusedPending starting).imageIn 2 1 = .error e) ∧
      ∃ e, (refusedPending starting).imageIn 1 1 = .error e) :=
  ⟨⟨rfl, rfl⟩, ⟨rfl, chooses_active rfl rfl, no_fresh rfl⟩, rfl, rfl, rfl, rfl, ⟨chooses_none rfl rfl rfl, no_fresh rfl⟩,
    ⟨⟨rfl, rfl⟩, ⟨_, rfl⟩, ⟨_, rfl⟩⟩⟩

theorem met_StartUp_trial : ((onTrial starting).trialOpen = true ∧ (onTrial starting).trialEnded.Chooses 1 0 ⟨0, 0, 0⟩) ∧
    ((onTrial (noImages starting)).trialOpen = true ∧
      { onTrial starting with fw := { (onTrial starting).fw with gyton := { emptyBank with pending := some 1, tried := true } } }.trialEnded.ChoosesNone 1) ∧
    starting.trialOpen = false ∧ up.life.phase ≠ .starting ∧
    { starting with fw := { starting.fw with rolrohan := { ImageBank.reset with pending := some 1, b := emptySlot } } }.Chooses 1 0 ⟨0, 0, 0⟩ :=
  ⟨⟨rfl, chooses_active rfl rfl⟩, ⟨rfl, chooses_none rfl rfl rfl⟩, rfl, by decide, chooses_active rfl rfl⟩

/-- R402: from reset, power and a stable reference take the module to READY. -/
theorem test_reaches_ready : (match exec (.powerOn 0 0) State.reset with
    | .next t => (match exec (.rootPllLock startRun) t with
      | .next u => u.isReady && u.clock.time == 900000000
      | _ => false)
    | _ => false) = true := by decide +kernel

theorem met_ResetsClear : (up.life.phase ≠ .off ∧ up.life.thermtrip = false) ∧ State.reset.life.phase = .off ∧
    { up with life := { up.life with thermtrip := true } }.life.thermtrip = true := by decide

theorem up_quiet : up.Quiet := ⟨rfl, rfl, rfl, rfl, rfl, rfl, rfl, rfl, rfl, rfl, rfl⟩

theorem met_FunctionResets : up.functionRuns = true ∧ up.Quiet ∧ up.net.qps = [] ∧ up.isReady = true ∧ up.host.buffer.length < 256 ∧
    State.reset.functionRuns = false ∧
    ({ starting with life := { starting.life with rootLocked := true }, pcie := up.pcie }.functionRuns = true ∧ starting.isReady = false) :=
  ⟨rfl, up_quiet, rfl, rfl, by decide, rfl, rfl, rfl⟩

def aStep (num : Nat) (st : StepState) : StepRec :=
  { num := num, st := st, epoch := 0, cause := 0, closed := false, heard := [], combined := 0, lowest := 0, sentUp := false, outcome := none
    mirrorTo := none, mirrorAcked := false, group := none, book := [] }

/-- Core 3's record holds one watchdog expiry at the start, and a step is open. -/
def watched : State :=
  { up with plate := { Plate.reset with watchTimes := [(3, 0)] }
            proof := { Proof.reset with steps := [aStep 1 .isOpen], stepNow := 1 } }

/-- A descriptor of `n` bytes from its nonzero words. -/
def descOf (n : Nat) (ws : List (Nat × Nat)) : List Byte :=
  (List.range (n / 8)).flatMap (fun i => leBytes 8 (((ws.find? (fun x => x.1 == 8 * i)).map (·.2)).getD 0))

def openRing : Ring := { Ring.reset with enable := true }
/-- A command of ring 0, started or not, and its words. -/
def aCommand (started : Bool) (ws : List (Nat × Nat)) : FetchedCmd :=
  { id := 1, bytes := descOf 64 ws, seq := 0, fetched := 0, started := started, due := none }
def withCommand (s : State) (c : FetchedCmd) : State := { s with host := { HostSide.reset with rings := [(0, { openRing with cmds := [c] })] } }

theorem met_LinkScanAndMaintenance :
    (up.life.phase = .ready ∧ up.life.rootLocked = true ∧ up.pcie.loopActive = false ∧ up.pcie.d3hot = false) ∧
    (up.functionRuns = true ∧ up.pcie.linkUp = true ∧ up.pcie.cfgReady = true ∧ up.pcie.loopActive = false ∧ up.pcie.follower = false) ∧
    (State.reset.functionRuns = false ∧ State.reset.life.rootLocked = false ∧ State.reset.life.phase = .off) ∧
    up.life.phase ≠ .off ∧ (inPhase .inReset 0).life.phase = .inReset ∧
    (up.isReady = true ∧ up.expiries 0 = 0 ∧ up.proof.steps = [] ∧ up.plate.coresScheduled = []) ∧
    (watched.isReady = true ∧ watched.proof.steps ≠ [] ∧ 1 ≤ watched.expiries 3) ∧
    (2 ∈ { up with life := { up.life with failedLinks := [2] } }.life.failedLinks) ∧ 0 ∉ up.life.failedLinks ∧ up.Quiet ∧ up.commands = [] ∧
    (withCommand up (aCommand true [(0, 7)])).OnlyCommand 0 (aCommand true [(0, 7)]) ∧
    (withCommand up (aCommand true [(0, 9)])).OnlyCommand 0 (aCommand true [(0, 9)]) ∧
    (aCommand true [(0, 7)]).typ = cmdEvacuate ∧ (aCommand true [(0, 9)]).typ ≠ cmdEvacuate ∧ (aCommand true [(0, 9)]).typ ≠ cmdHandover :=
  ⟨by decide, by decide, by decide, by decide, rfl, by decide, by decide, by decide, by decide, up_quiet, by decide,
    ⟨⟨rfl, rfl, rfl, rfl, rfl, rfl, rfl, rfl, rfl, rfl, rfl⟩, by decide +kernel, by decide +kernel⟩,
    ⟨⟨rfl, rfl, rfl, rfl, rfl, rfl, rfl, rfl, rfl, rfl, rfl⟩, by decide +kernel, by decide +kernel⟩, by decide, by decide, by decide⟩

/-- A pass over HBM that is under way, the register having been turned off since; and one that ends. -/
def scrubbing : State := { up with plate := { Plate.reset with scrubHbm := false, scrubbing := [1] } }

theorem met_scrub : up.isReady = true ∧ up.Sound ∧ (up.scrubTarget 1 64 = some 64 ∧ up.scrubs 1 = true ∧ 64 / 64 ≠ up.lastBlock 1) ∧
    (up.scrubTarget 1 (up.hbmBytes - 64) = some (up.hbmBytes - 64) ∧ (up.hbmBytes - 64) / 64 = up.lastBlock 1) ∧
    (up.scrubTarget 2 0x20000000000 = some 0x20000000000 ∧ up.scrubs 2 = true) ∧ scrubbing.scrubs 1 = true ∧
    { up with plate := { Plate.reset with scrubHbm := false } }.scrubs 1 = false ∧ up.scrubTarget 1 0x20000000000 = none ∧
    8 ≤ (({ up with plate := { Plate.reset with scrubbed := [2, 3, 4, 5, 6, 7, 8, 9] } }).plate.scrubbed.filter (· != 10)).length :=
  ⟨rfl, ⟨rfl, rfl⟩, by decide +kernel, by decide +kernel, by decide +kernel, by decide +kernel, by decide +kernel, by decide +kernel, by decide⟩

theorem met_ModuleStops : up.clocksRun = true ∧ State.reset.clocksRun = false ∧ up.gytonRuns = true ∧ State.reset.gytonRuns = false ∧
    (up.life.phase ≠ .off ∧ up.life.thermtrip = false ∧ ((35 : Fin 36).val < 3 ∨ 16 ≤ (35 : Fin 36).val) ∧
      ((0 : Fin 36).val < 3 ∨ 16 ≤ (0 : Fin 36).val) ∧ 3 ≤ (15 : Fin 36).val ∧ (15 : Fin 36).val < 16) ∧
    (inPhase (.stopped .lockstep) 8).life.phase = .stopped .lockstep ∧ (inPhase (.stopped .lockstep) 8).fw.collector = none ∧
    up.life.phase ≠ .stopped .lockstep := by decide

/-! ### Power -/

def request : Frank :=
  { id := 5, op := 9, use_ := .run, cls := 5, watts := 25, dur := 100, band := 0, shareNum := 1, shareDen := 1, dutyNum := 1, dutyDen := 1
    denied := false, counted := false, deniedAt := 0, timeoutMs := 1, ageUs := 1, aged := false, thermalOnly := false, energy := 0, ran := 0
    since := 0, parent := 0 }
def topUp : Frank := { request with use_ := .topUp, parent := 1 }

/-- A frank held and a top-up of it asked for. -/
def toppingUp : State := { up with power := { Power.reset with held := [{ request with id := 1 }], requests := [topUp] } }

def asking (f : Frank) : State :=
  { up with power := { Power.reset with requests := [f] } }

def anOp (id kind : Nat) (desc : List Byte) : Op :=
  { id := id, ring := 0, kind := kind, addr := 0, desc := desc, phase := .taken, step := none, issueTime := 0, sum := 0, begun := false
    ending := none }

theorem met_SensorsAndUpkeep : up.isReady = true ∧ up.anyStreams = false ∧
    { up with plate := { Plate.reset with warm := true } }.plate.warm = true ∧ up.plate.warm = false ∧
    (sensors.hbm[19]? = some 0) ∧
    (1000 ≤ bits (accessValue (.wide 1000) up.power.limitRequest) 11 0 ∧ bits (accessValue (.wide 2400) up.power.limitRequest) 11 0 ≤ 2400 ∧
      bits (accessValue (.wide 1000) up.power.limitRequest) 11 0 ≤ 2400) ∧
    (bits (accessValue (.wide 999) up.power.limitRequest) 11 0 < 1000 ∧ 2400 < bits (accessValue (.wide 2401) up.power.limitRequest) 11 0) := by
  decide

def drifting (top : Bool) (sample : Nat) : State :=
  { up with power := { Power.reset with drift := true, driftTopUp := top, stretch := 16, samples := [sample] } }

theorem met_DriftAndStretch : (up.isReady = true ∧ up.power.drift = false) ∧
    ((drifting true 0).power.drift = true ∧ (drifting true 0).power.driftTopUp = true ∧
      (drifting true 0).power.requests.any (fun f => f.use_ == .topUp) = false) ∧
    ((drifting false 1).power.driftTopUp = false ∧ (drifting false 1).chargedMw < (drifting false 1).power.samples.headD 0) ∧
    ((drifting false 0).isReady = true ∧ (drifting false 0).power.samples.headD 0 ≤ (drifting false 0).chargedMw) := by decide

/-- Denied since the start, and now 1 ms after. -/
def denied : State :=
  { asking { request with denied := true } with seq := { Seq.reset with window := [anOp 9 opMove (zeros 128)] }
                                                clock := { Clock.reset with time := 1000000 } }

theorem met_Franks : ((asking request).isReady = true ∧ (asking request).nextGrant = some request ∧ request.use_ ≠ .topUp) ∧
    (toppingUp.nextGrant = some topUp ∧ topUp.use_ = .topUp ∧ toppingUp.retryMarks.nextGrant.map (·.use_) = some .topUp) ∧
    (∀ f, up.nextGrant = some f → f.id ≠ 5) ∧
    (asking { request with watts := 3000 }).retryMarks.nextGrant = none ∧ ((asking request).retryMarks.nextGrant.map (·.use_) = some .run) ∧
    ((denied.power.requests.filter (fun f => f.use_ != .topUp)).find? (·.denied) = some { request with denied := true } ∧
      (denied.power.requests.filter (fun f => f.use_ != .topUp)).any (·.aged) = false ∧ request.deniedAt + 1000 * request.ageUs ≤ denied.clock.time) ∧
    (denied.power.requests.find? (fun r => r.id == request.id) = some { request with denied := true } ∧
      request.since + 1000000 * request.timeoutMs ≤ denied.clock.time ∧
      denied.op 9 = some (anOp 9 opMove (zeros 128)) ∧ (anOp 9 opMove (zeros 128)).resultAddr = 0) ∧
    (asking request).clock.time < request.since + 1000000 * request.timeoutMs := by decide +kernel

theorem met_GrantsFitFastLedger : ((asking request).power.held.map (·.id)).Nodup ∧ ∃ t, exec (.frankGrant 5) (asking request) = .next t ∧
    t.power.held ≠ (asking request).power.held := ⟨by decide, _, rfl, by decide +kernel⟩

/-! ### Management -/

def box : FwReq := .mailbox 7
def oob : FwReq := .mctp 1 2 2 4 [1, 2]

/-- The controller has an update of KIND 2 staged; the inactive slot holds a factory image, verified. -/
def staged : State :=
  { up with fw := { up.fw with lock := some .controller, stagedKind := 2, verified := true
                               rolrohan := { ImageBank.reset with b := Slot.factoryA } } }

/-- The same with an empty slot. -/
def stagedEmpty : State := { staged with fw := { staged.fw with rolrohan := { ImageBank.reset with b := ⟨none, Store.empty 8⟩ } } }

def newer : Slot := ⟨some ⟨0, 3, 0⟩, Store.empty 8⟩
def reportedEvent : EventRec := ⟨1, 8, 0, 0, 0, [], 0, true⟩
def report (n : Nat) : Report := ⟨n, reportedEvent, none, 0⟩

theorem met_FirmwareOperations :
    (staged.hears oob = true ∧ staged.lockedOut oob = false ∧ staged.fwArg oob 0 = 2 ∧ staged.staging oob = true ∧
      staged.fwArg oob 2 + staged.fwArg oob 1 ≤ slotBytes staged.fw.stagedKind ∧ staged.fwData oob = (staged, .ok [1, 2]) ∧
      checkImage staged.fw.stagedKind staged.fuses.fuseCount (staged.stagedSlot staged.fw.stagedKind) = .ok ⟨0, 0, 0⟩ ∧
      staged.fw.verified = true) ∧
    checkImage stagedEmpty.fw.stagedKind stagedEmpty.fuses.fuseCount (stagedEmpty.stagedSlot stagedEmpty.fw.stagedKind) = .error 4 ∧
    (staged.hears box = true ∧ staged.lockedOut box = true) ∧ (staged.gytonRuns = true ∧ staged.fw.lock.isSome = true) ∧
    (staged.fwData (.mctp 1 2 0 0 []) = (staged, .error 2) ∧ staged.fwArg (.mctp 1 2 0 0 []) 2 + staged.fwArg (.mctp 1 2 0 0 []) 1 ≤
      slotBytes staged.fw.stagedKind) ∧
    slotBytes staged.fw.stagedKind < staged.fwArg (.mctp 1 2 1 0xFFFFFFFF [1]) 2 + staged.fwArg (.mctp 1 2 1 0xFFFFFFFF [1]) 1 ∧
    (up.hears oob = true ∧ up.lockedOut oob = false ∧ up.staging oob = false ∧ up.fw.lock = none) ∧
    (up.fwArg (.mctp 1 3 0 0 []) 0 ≠ 1 ∧ up.fwArg (.mctp 1 3 0 0 []) 0 ≠ 2) ∧
    { staged with fw := { staged.fw with verified := false } }.fw.verified = false ∧ State.reset.hears oob = false :=
  ⟨⟨rfl, rfl, rfl, rfl, by decide, rfl, rfl, rfl⟩, rfl, by decide, by decide, ⟨rfl, by decide⟩, by decide, by decide, by decide, rfl, rfl⟩

/-- Two banks whose active images have SEC_VERSION 3. -/
def versioned : State :=
  { up with fw := { up.fw with gyton := { ImageBank.reset with a := newer }, rolrohan := { ImageBank.reset with a := newer } } }

theorem met_FirmwareOperations_commit : versioned.hears (.mctp 1 3 0 0 []) = true ∧ versioned.lockedOut (.mctp 1 3 0 0 []) = false ∧
    versioned.fuses.fuseCount < versioned.fwArg (.mctp 1 3 0 0 []) 0 ∧ versioned.fwArg (.mctp 1 3 0 0 []) 0 ≤ versioned.activeVersion 1 ∧
    versioned.fwArg (.mctp 1 3 0 0 []) 0 ≤ versioned.activeVersion 2 ∧ versioned.fwArg (.mctp 1 3 0 0 []) 0 ≤ 64 ∧
    versioned.activeVersion 1 < versioned.fwArg (.mctp 1 4 0 0 []) 0 ∧ 64 < versioned.fwArg (.mctp 1 65 0 0 []) 0 := by decide

def queued : State := { up with fw := { up.fw with bound := [(reportedEvent, none)], queue := [report 0], eid := 8 } }

/-- A full queue, of faults only or with another report in it; what waits is a fault or not. -/
def full (fault mixed : Bool) : State :=
  { queued with fw := { queued.fw with
      bound := [({ reportedEvent with kind := if fault then 1 else 9 }, none)]
      queue := (if mixed then { report 7 with event := { reportedEvent with kind := 9 } } else report 7) :: List.replicate 1023 (report 0) } }

theorem met_ManagementMessages : (up.gytonRuns = true ∧ up.fw.collector = none ∧ up.fw.bound = [] ∧ up.fw.queue = []) ∧
    (queued.fw.bound = [(reportedEvent, none)] ∧ queued.fw.queue.length < 1024) ∧ (queued.fw.queue = [report 0] ∧ queued.fw.eid ≠ 0) ∧
    (1024 ≤ (full true true).fw.queue.length ∧ (full true true).fw.queue.find? (fun r => r.event.kind != 1) =
      some { report 7 with event := { reportedEvent with kind := 9 } }) ∧
    (1024 ≤ (full false false).fw.queue.length ∧ ∀ r ∈ (full true false).fw.queue, r.event.kind = 1) ∧
    up.mgmtServed = true ∧ (1000 ≤ (1000 : BitVec 16).toNat ∧ (2400 : BitVec 16).toNat ≤ 2400) ∧
    ((999 : BitVec 16).toNat < 1000 ∧ 2400 < (2401 : BitVec 16).toNat) ∧ (1 : BitVec 8).toNat ≤ 1 ∧ 1 < (2 : BitVec 8).toNat ∧
    (State.reset.mgmtServed = false ∧ State.reset.gytonRuns = false) :=
  ⟨by decide, by decide, by decide, by decide +kernel, by decide +kernel, rfl, by decide, by decide, by decide, by decide, by decide⟩

def linked (p : Spdm) : State := { up with fw := { up.fw with spdmDoe := p, spdmMctp := p } }
def negotiated : Spdm := { Spdm.reset with version := true, caps := true, algs := true }

theorem met_AttestationAnswers : up.spdmServed .doe = true ∧ up.spdmServed .mctp = true ∧ (linked negotiated).spdmServed .doe = true ∧
    ((linked negotiated).spdm .doe).version = true ∧ ((linked negotiated).spdm .mctp).caps = true ∧
    ((linked negotiated).spdm .doe).algs = true ∧ (up.spdm .doe).version = false ∧ (up.spdm .doe).caps = false ∧ (up.spdm .doe).algs = false ∧
    State.reset.spdmServed .mctp = false := by decide

theorem met_SessionsAndIde : (((linked negotiated).spdm .doe).algs = true ∧ ((linked negotiated).spdm .doe).session = none) ∧
    (((linked { negotiated with session := some 1 }).spdm .mctp).session = some 1 ∧
      ((linked { negotiated with session := some 1 }).spdm .mctp).established = false) ∧
    ((linked { negotiated with session := some 1, established := true }).spdmServed .doe = true ∧
      (linked { negotiated with session := some 1, established := true }).fw.spdmDoe.established = true) ∧
    ((linked negotiated).fw.spdmDoe.established = false ∧ up.pcie.ide ≠ .secure ∧ State.reset.spdmServed .doe = false) ∧
    { up with pcie := { up.pcie with ide := .keyed } }.pcie.ide = .keyed ∧
    ({ up with pcie := { up.pcie with ide := .secure } }.functionRuns = true ∧ { up with pcie := { up.pcie with ide := .secure } }.pcie.ide = .secure) := by
  decide +kernel

/-! ### Host side -/

def polling (n : Nat) (r : Ring) : State :=
  { up with host := { HostSide.reset with polling := true, pageEnable := true, rings := [(n, r)] } }

theorem met_DoorbellAndFetching :
    ({ polling 0 openRing with host := { (polling 0 openRing).host with polling := false } }.mayRequest = true ∧ (polling 0 openRing).host.pageEnable = true) ∧
    (up.host.pageEnable = false ∧ up.host.polling = false) ∧
    ((polling 63 openRing).isReady = true ∧ (polling 63 openRing).host.polling = true ∧
      (polling 63 openRing).commands.all (fun c => knownType c.typ) = true ∧
      doorbellWord (word64 (zeros 504 ++ leBytes 8 0xFFFFFFEF00000010) (8 * 63)) = some 16 ∧ ((polling 63 openRing).ring 63).enable = true ∧
      ((polling 63 openRing).ring 63).stopped = false ∧
      (16 + 2 ^ 32 - ((polling 63 openRing).ring 63).fetched) % 2 ^ 32 ≤ 2 ^ ((polling 63 openRing).ring 63).log2) ∧
    (doorbellWord (word64 (leBytes 8 0xFFFFFFEE00000011) (8 * 0)) = some 17 ∧
      2 ^ ((polling 0 openRing).ring 0).log2 < (17 + 2 ^ 32 - ((polling 0 openRing).ring 0).fetched) % 2 ^ 32) ∧
    doorbellWord (word64 (leBytes 8 1) (8 * 0)) = none ∧
    (15 ≤ { (polling 0 openRing).host with failedPolls := 15 }.failedPolls ∧ (polling 0 openRing).host.faultTime = none ∧
      (polling 0 openRing).host.buffer.length < 256 ∧ (polling 0 openRing).host.failedPolls < 15) := by decide +kernel

def fetching : State := polling 63 { openRing with producer := 1 }
def linkless : State := { fetching with life := { fetching.life with failedLinks := [2] } }
/-- A block of the control cores' memory is poisoned. -/
def coreFault : State := { fetching with mem := { Memory.reset with poison := [(hiddenAddr 10 0 0 / 64, true)] } }

theorem met_DoorbellAndFetching_fetch : fetching.Fetches 63 ∧ fetching.Sound ∧ fetching.life.failedLinks = [] ∧
    fetching.commands.all (fun c => knownType c.typ) = true ∧
    knownType (field (padTo 64 [14]) 0 1) = true ∧ knownType (field (padTo 64 [15]) 0 1) = false ∧ (fetching.ring 63).waiting = none ∧
    (fetching.ring 63).cmd fetching.nextId = none ∧ (fetching.fetchedState 63 [15]).mayStart 63 (fetching.fetchedCmd 63 [15]) = true ∧
    (linkless.Fetches 63 ∧ linkless.Sound ∧ linkless.life.failedLinks = 2 :: [] ∧ linkless.commands.all (fun c => knownType c.typ) = true ∧
      heavyType (field (padTo 64 [2]) 0 1) = true ∧ heavyType (field (padTo 64 [14]) 0 1) = false ∧ (linkless.ring 63).cmd linkless.nextId = none) ∧
    ((up.ring 63).enable = false) ∧ (coreFault.Fetches 63 ∧ coreFault.mem.poison ≠ [] ∧ memoryId (hiddenAddr 10 0 0) = 10) :=
  ⟨⟨rfl, rfl, rfl, by decide, by decide, by decide⟩, ⟨rfl, rfl⟩, rfl, by decide, by decide, by decide, by decide, by decide, by decide +kernel,
    ⟨⟨rfl, rfl, rfl, by decide, by decide, by decide⟩, ⟨rfl, rfl⟩, rfl, by decide, by decide, by decide, by decide⟩, rfl,
    ⟨⟨rfl, rfl, rfl, by decide, by decide, by decide⟩, by decide, by decide⟩⟩

def queues (c : CQ) : State := { up with host := { HostSide.reset with cqs := [(63, c)], msixEnable := true, msixPend := [(63, true)] } }

theorem met_QueuesAndInterrupts :
    ((queues { CQ.reset with enable := true }).isReady = true ∧ ((queues { CQ.reset with enable := true }).ring 0).enable = false ∧
      ((queues { CQ.reset with enable := true }).ring 0).cmds = [] ∧ bit (accessValue (.wide 0x13F10) (sqSizeReg Ring.reset)) 16 = true ∧
      bits (accessValue (.wide 0x13F10) (sqSizeReg Ring.reset)) 4 0 = 16 ∧ bits (accessValue (.wide 0x3F04) (sqSizeReg Ring.reset)) 4 0 = 4 ∧
      bit (accessValue (.wide 0x3F04) (sqSizeReg Ring.reset)) 16 = false ∧
      ((queues { CQ.reset with enable := true }).cq (bits (accessValue (.wide 0x13F10) (sqSizeReg Ring.reset)) 13 8)).enable = true ∧
      (up.cq (bits (accessValue (.wide 0x13F10) (sqSizeReg Ring.reset)) 13 8)).enable = false) ∧
    (bits (accessValue (.wide 3) (sqSizeReg Ring.reset)) 4 0 < 4 ∧ 16 < bits (accessValue (.wide 17) (sqSizeReg Ring.reset)) 4 0) ∧
    ((polling 0 openRing).ring 0).enable = true ∧
    ({ polling 0 { Ring.reset with cmds := [aCommand true []] } with host := { (polling 0 { Ring.reset with cmds := [aCommand true []] }).host with
        cqs := [(0, { CQ.reset with enable := true })] } }.cq 0).enable = true ∧
    ((polling 0 { Ring.reset with cmds := [aCommand true []] }).ring 0).cmds ≠ [] ∧
    ((up.cq 0).enable = false ∧ bits (accessValue (.wide 0x104) (cqSizeReg (up.cq 0))) 4 0 = 4 ∧
      bits (accessValue (.wide 0x110) (cqSizeReg (up.cq 0))) 4 0 = 16 ∧ 16 < bits (accessValue (.wide 0x111) (cqSizeReg (up.cq 0))) 4 0) ∧
    (((queues { CQ.reset with enable := true }).cq 63).enable = true ∧ (queues { CQ.reset with enable := true }).queueUsed 63 = false ∧
      (polling 0 openRing).queueUsed 0 = true ∧ bit (accessValue (.wide 0x004) (cqSizeReg ((queues { CQ.reset with enable := true }).cq 63))) 8 = false) ∧
    (up.host.eqEnable = false ∧ bit (accessValue (.wide 0x1001) (bitOf up.host.eqEnable + up.host.eqBase.toNat)) 0 = true ∧ up.host.buffer = []) ∧
    { up with host := { HostSide.reset with eqEnable := true } }.host.eqEnable = true ∧
    (((queues { CQ.reset with irqEnable := true, irqTimeUs := 1, uncovered := 1 }).cq 63).irqEnable = true ∧
      ((queues { CQ.reset with irqEnable := true, irqTimeUs := 1, uncovered := 1 }).cq 63).irqTimeUs ≠ 0 ∧
      (queues { CQ.reset with irqEnable := true, irqTimeUs := 1, uncovered := 1 }).vectorMasked 63 = true) ∧
    (up.cq 0).irqEnable = false ∧
    { queues CQ.reset with host := { (queues CQ.reset).host with msix := [(63, ⟨0, 0, false⟩)] } }.vectorMasked 63 = false ∧
    ((queues CQ.reset).functionRuns = true ∧ (queues CQ.reset).host.msixFnMask = false ∧ (queues CQ.reset).host.msixEnable = true ∧
      (queues CQ.reset).mayRequest = true ∧ (queues CQ.reset).host.held = [] ∧ (queues CQ.reset).host.msixPend.get false 63 = true) ∧
    up.host.msixPend.get false 5 = false ∧ State.reset.functionRuns = false := by decide +kernel

/-- A read or a write that succeeds; that succeeds with a result; that fails in a way. -/
def good {α ε : Type} (x : State × Except ε α) : Bool := match x.2 with | .ok _ => true | .error _ => false
def okWith {α ε : Type} (p : State × Except ε α) (f : State → α → Bool) : Bool := match p.2 with | .ok x => f p.1 x | .error _ => false
def errWith {α ε : Type} (p : State × Except ε α) (f : State → ε → Bool) : Bool := match p.2 with | .ok _ => false | .error e => f p.1 e

theorem good_split {α ε : Type} (p : State × Except ε α) (h : good p = true) : ∃ t x, p = (t, .ok x) := by
  obtain ⟨t, x⟩ := p
  cases x with
  | error _ => cases h
  | ok x => exact ⟨t, x, rfl⟩

theorem okWith_split {α ε : Type} (p : State × Except ε α) (f : State → α → Bool) (h : okWith p f = true) :
    ∃ t x, p = (t, .ok x) ∧ f t x = true := by
  obtain ⟨t, x | x⟩ := p
  · cases h
  · exact ⟨t, x, rfl, h⟩

theorem err_split {α ε : Type} (p : State × Except ε α) (f : State → ε → Bool) (h : errWith p f = true) : ∃ t e, p = (t, .error e) ∧ f t e = true := by
  obtain ⟨t, e | x⟩ := p
  · exact ⟨t, e, rfl, h⟩
  · cases h

theorem err_of {α ε : Type} [DecidableEq ε] (p : State × Except ε α) (e : ε) (h : errWith p (fun _ x => decide (x = e)) = true) :
    ∃ t, p = (t, .error e) := by
  obtain ⟨t, x, hp, hx⟩ := err_split p _ h
  exact ⟨t, by rw [hp, of_decide_eq_true hx]⟩

theorem none_split {α : Type} (p : State × Option α) (h : p.2 = none) : ∃ t, p = (t, none) := ⟨p.1, Prod.ext rfl h⟩

/-- BAR2 at the last gigabyte of HBM, of which one block may be poisoned, and at the module's own tray window. -/
def barAt (base : Word) (bad : Nat) : State :=
  { up with host := { up.host with bar2Base := base }, mem := { Memory.reset with poison := [(bad, true)] } }
def lastGiB : Nat := up.hbmBytes - 2 ^ 30

theorem met_Bar2Window : (2 ^ 36 - 1) + 1 ≤ 2 ^ 36 ∧ up.bar2Target (up.host.bar2Base.toNat + (2 ^ 36 - 1)) = true ∧
    (∃ t bs, up.readPhys allowOwn (up.host.bar2Base.toNat + (2 ^ 36 - 1)) 1 = (t, .ok bs) ∧ ∀ r ∈ t.pendingOutputs, False) ∧
    { up with host := { up.host with bar2Base := 0x100000000000 } }.bar2Target 0x100000000000 = false ∧
    up.check allowOwn (up.host.bar2Base.toNat + (2 ^ 36 - 1)) [7].length = .ok (.hbm, 2 ^ 36 - 1) ∧ up.refusesWrite (2 ^ 36 - 1) 1 = false ∧
    (∃ t, (barAt 0 5).readPhys allowOwn ((barAt 0 5).host.bar2Base.toNat + 320) 64 = (t, .error (.bad 320)) ∧
      (barAt 0 5).bar2Target ((barAt 0 5).host.bar2Base.toNat + 320) = true) ∧
    ((barAt (BitVec.ofNat 64 lastGiB) 0).bar2Target ((barAt (BitVec.ofNat 64 lastGiB) 0).host.bar2Base.toNat + (2 ^ 30 - 1)) = true ∧
      (∃ t, (barAt (BitVec.ofNat 64 lastGiB) 0).readPhys allowOwn ((barAt (BitVec.ofNat 64 lastGiB) 0).host.bar2Base.toNat + (2 ^ 30 - 1)) 2 =
        (t, .error (.addr up.hbmBytes))) ∧
      ∃ t, (barAt (BitVec.ofNat 64 lastGiB) 0).writePhys allowOwn ((barAt (BitVec.ofNat 64 lastGiB) 0).host.bar2Base.toNat + (2 ^ 30 - 1)) [1, 2] =
        (t, .error (.addr up.hbmBytes))) ∧
    2 ^ 36 < 2 ^ 36 + 1 := by
  obtain ⟨t, bs, h, g⟩ := okWith_split (up.readPhys allowOwn (up.host.bar2Base.toNat + (2 ^ 36 - 1)) 1) (fun t _ => t.pendingOutputs.isEmpty)
    (by decide +kernel)
  obtain ⟨u, hu⟩ := err_of ((barAt 0 5).readPhys allowOwn ((barAt 0 5).host.bar2Base.toNat + 320) 64) (.bad 320) (by decide +kernel)
  exact ⟨by decide, by decide +kernel, ⟨t, bs, h, by simp [List.isEmpty_iff.mp g]⟩, by decide +kernel, by decide +kernel, by decide +kernel,
    ⟨u, hu, by decide +kernel⟩, ⟨by decide +kernel, err_of _ _ (by decide +kernel), err_of _ _ (by decide +kernel)⟩, by decide⟩

/-- A WAIT on a semaphore, issued: until its value is at least a target, with 1 us; it consumes. -/
def waitFor (target : Nat) : Op := anOp 9 opWait (descOf 128 [(0, 0x2005), (0x10, 65535), (0x18, 2 ^ 32 + target)])
def issuedOp (o : Op) : Op := { o with phase := .issued }

theorem met_SemaphoreAndSeedWrites : up.isReady = true ∧ (∀ o ∈ up.seq.window, o.kind = opWait → o.phase ≠ .issued) ∧
    (65534 : BitVec 16).toNat % 2 = 0 ∧ (65535 : BitVec 16).toNat % 2 = 1 ∧ bit (accessValue (.wide 1) 0) 0 = true ∧
    bit (accessValue (.high 1) 0) 0 = false ∧ { up with mem := { up.mem with invBusy := true } }.mem.invBusy = true ∧
    up.mem.invBusy = false ∧
    ((issuedOp (waitFor 5)).semIndex = (65535 : BitVec 16).toNat ∧ (issuedOp (waitFor 5)).resultAddr = 0 ∧
      (issuedOp (waitFor 5)).condHolds 5 = true ∧ (issuedOp (waitFor 5)).condHolds 4 = false) := by decide +kernel

/-- The first entry of a table at HBM's start is a pointer with WRITE = 1. -/
def badPointer : State := { up with mem := { Memory.reset with ram := (Store.empty 8).write 0 [5] } }

theorem met_SemaphoreAndSeedWrites_pointer : badPointer.Sound ∧ (∀ e ∈ badPointer.mem.tlb, e.1 ≠ ((1 : Word).toNat, 0 / 0x10000)) ∧
    badPointer.walkMeets 1 0 pointerWrites :=
  ⟨⟨rfl, rfl⟩, by decide, by decide, by decide +kernel, .inl ⟨.inl rfl, by decide +kernel⟩⟩

theorem met_RegisterWrites : up.isReady = true ∧ bits (accessValue (.wide 250) 0) 16 0 = 250 ∧ bits (accessValue (.low 100000) 0) 16 0 = 100000 ∧
    bits (accessValue (.wide 249) 0) 16 0 < 250 ∧ 100000 < bits (accessValue (.wide 100001) 0) 16 0 ∧ up.host.pageEnable = false ∧
    up.host.eqEnable = false ∧ bits (accessValue (.wide 6) 0) 4 0 = 6 ∧ bits (accessValue (.wide 1) 0) 1 0 ≠ 0 ∧ bits (accessValue (.wide 0) 0) 1 0 = 0 ∧
    (bits (accessValue (.wide 0x180A03) 0) 15 8 = 10 ∧ bits (accessValue (.wide 0x180A03) 0) 23 16 = 24 ∧
      bits (accessValue (.wide 0x180903) 0) 15 8 < 10 ∧ 24 < bits (accessValue (.wide 0x190A03) 0) 23 16) ∧
    bits (accessValue (.wide 64) 0) 6 0 = 64 ∧ bits (accessValue (.wide 24) 0) 4 0 = 24 ∧
    bits (accessValue (.wide 60000000) 0) 31 0 = 60000000 ∧ bits (accessValue (.wide 1000) 0) 31 0 = 1000 ∧
    (bits (accessValue (.wide 0x10000) 0) 47 0 % 65536 = 0 ∧ up.inHbm (bits (accessValue (.wide 0x10000) 0) 47 0) 65536 = true ∧
      bits (accessValue (.wide 0x10001) 0) 47 0 % 64 ≠ 0 ∧ up.inHbm (bits (accessValue (.wide 0x20000000000) 0) 47 0) 64 = false) ∧
    watched.proof.steps ≠ [] ∧ bits (accessValue (.wide 50) 0) 6 0 = 50 ∧
    (bits (accessValue (.wide 0x00A0001) 0) 15 0 = 1 ∧ bits (accessValue (.wide 0x00A0001) 0) 31 16 = 10) ∧
    (up.powered = true ∧ bits (accessValue (.wide 7) 0) 7 0 = 7 ∧ (0x80004 : Nat) % 8 ≠ 0) ∧
    (State.reset.isReady = false ∧ gytonOwned 0x10000 = false ∧ { up with fw := { up.fw with firewall := true } }.fw.firewall = true) := by
  decide +kernel

def testing : State := { up with hbmTest := { HbmTest.reset with busy := true, stack := 8 } }

theorem met_LoopsAndTests : (up.pcie.loopActive = false ∧ bits (accessValue (.wide 0x11) 0) 1 0 ≠ 0 ∧ bits (accessValue (.wide 0x11) 0) 19 4 ≠ 0 ∧
      bits (accessValue (.wide 0x10) 0) 1 0 = 0 ∧ bits (accessValue (.wide 0x1) 0) 19 4 = 0) ∧
    { up with pcie := { up.pcie with loopActive := true } }.pcie.loopActive = true ∧
    (bits (accessValue (.wide 0xB3) 0) 4 0 < 20 ∧ bits (accessValue (.wide 0xB3) 0) 6 5 = 1 ∧ bit (accessValue (.wide 0xB3) 0) 7 = true ∧
      bit (accessValue (.wide 0x33) 0) 7 = false ∧ up.openStep = none ∧
      up.commands.any (fun c => hbmTestBars c.typ) = false ∧ up.hbmTest.busy = false) ∧
    (20 ≤ bits (accessValue (.wide 0x14) 0) 4 0 ∧ bits (accessValue (.wide 0xE0) 0) 6 5 = 3) ∧
    (testing.openStep.isSome || testing.commands.any (fun c => hbmTestBars c.typ) || testing.hbmTest.busy) = true ∧
    (memoryId (0x123456789 / 4096 * 4096) = 1 ∧ hbmStack (0x123456789 / 4096 * 4096) = testing.hbmTest.stack) ∧
    (bits (accessValue (.wide 5) 0) 2 0 ≤ 5 ∧ bits (accessValue (.wide 5) 0) 5 3 = 0 ∧ bits (accessValue (.wide 0x1B) 0) 5 3 = 3 ∧
      bits (accessValue (.wide 0x1B) 0) 2 0 = 3) ∧
    (5 < bits (accessValue (.wide 6) 0) 2 0 ∧ 3 < bits (accessValue (.wide 0x20) 0) 5 3 ∧ bits (accessValue (.wide 0x9) 0) 2 0 = 1 ∧
      bits (accessValue (.wide 0x9) 0) 5 3 = 1) := by decide +kernel

/-! ### Ports -/

def ports (p : Nat) (x : Port) (topo : SMap TopoEntry) : State := { up with net := { Net.reset with ports := [(p, x)], topo := topo, group := 3 } }

/-- Every entry of the table is the unused one but the first, whose KIND is reserved. -/
def badTable : State := { up with mem := { Memory.reset with ram := (Store.empty 8).write 0 [255] } }
/-- The table cannot be read; it is not aligned. -/
def noTable (base : Word) : State := { up with net := { Net.reset with topoBase := base } }

theorem met_NetworkSetup :
    (bits (accessValue (.wide 0x27) 0) 2 1 ≠ 0 ∧ bits (accessValue (.wide 0x27) 0) 4 3 ≠ 3 ∧
      (ports 7 Port.reset []).trayAllowed 5 (bits (accessValue (.wide 0x27) 0) 2 1) = true ∧
      bits (accessValue (.wide 0x27) 0) 0 0 ≠ ((ports 7 Port.reset []).port 5).enable ∧ ((ports 7 Port.reset []).port 5).state = portDown) ∧
    (bits (accessValue (.wide 0x39) 0) 4 3 = 3 ∧ bits (accessValue (.wide 0x20) 0) 2 1 = 0 ∧
      up.trayAllowed 5 (bits (accessValue (.wide 0x27) 0) 2 1) = false) ∧
    (bits (accessValue (.wide 0x4) (up.netReg 0x20)) 3 2 ≠ up.net.group ∧ up.portsOf 1 = []) ∧
    (BitVec.ofNat 64 (accessValue (.wide 1) (up.netReg 0x40)) ≠ up.net.prefix6 ∧ up.portsOf 0 = []) ∧
    (1024 ≤ bits (accessValue (.wide 0x3000400) 0) 15 0 ∧ bits (accessValue (.wide 0x3000400) 0) 26 22 = 12 ∧
      bits (accessValue (.wide 0x5000400) 0) 26 22 = 20 ∧ bits (accessValue (.wide 0x3000400) 0) 15 0 ≠ up.net.udpPort) ∧
    (bits (accessValue (.wide 1023) 0) 15 0 < 1024 ∧ bits (accessValue (.wide 0x2C00400) 0) 26 22 = 11 ∧
      20 < bits (accessValue (.wide 0x5400400) 0) 26 22) ∧
    (up.net.topoBase.toNat % 64 = 0 ∧ up.readPhys allowHbm up.net.topoBase.toNat 768 = (up, .ok (zeros 768)) ∧
      up.firstBadTopo 0 (records 32 24 (zeros 768)) = none) ∧
    badTable.readPhys allowHbm badTable.net.topoBase.toNat 768 = (badTable, .ok (255 :: zeros 767)) ∧
    badTable.firstBadTopo 0 (records 32 24 (255 :: zeros 767)) = some 0 ∧ (noTable 1).net.topoBase.toNat % 64 ≠ 0 ∧
    ((noTable 0x20000000000).net.topoBase.toNat % 64 = 0 ∧
      good ((noTable 0x20000000000).readPhys allowHbm (noTable 0x20000000000).net.topoBase.toNat 768) = false) := by decide +kernel

theorem met_NetworkSetup_ports : ∀ p, (up.port p).state = portDown ∧ (up.port p).enable = 0 := fun _ => ⟨rfl, rfl⟩

def waitingPort : Port := { Port.reset with enable := 1, state := portLabelWait }
/-- Port 23 waits for its label, facing a node. -/
def waiting23 : State := ports 23 waitingPort [(23, { TopoEntry.unused with kind := 1 })]
/-- The same of a node with a valid identity, facing a switch. -/
def switched : State :=
  let s := ports 23 waitingPort [(23, { TopoEntry.unused with kind := 2 })]
  { s with net := { s.net with nodeValid := true } }

theorem met_PortEvents :
    (((ports 23 { Port.reset with state := portTraining } []).port 23).state = portTraining ∧
      ((ports 23 { Port.reset with state := portTraining } []).port 23).loopMode = 0) ∧
    (2 ≤ (waiting23.port 23).state ∧ waiting23.Still 23 ∧ waiting23.NoTraffic 23) ∧ (up.port 0).state < 2 ∧
    ((waiting23.setPort 23 { waitingPort with heard := none }).judge 23 = 8 ∧ waiting23.net.nodeValid = false ∧
      validLabel (some []) = none ∧ switched.judge 23 = 0 ∧ switched.NoTraffic 23 ∧ switched.net.nodeValid = true ∧
      (switched.topoEntry 23).kind ≠ 1 ∧ (waiting23.topoEntry 23).kind = 1) ∧
    (((ports 6 { Port.reset with state := portUp } []).port 6).role = 0 ∧ ((ports 6 { Port.reset with state := portUp } []).port 6).state = portUp) ∧
    ((up.port 6).state ≠ portUp ∧ (up.mgmtServed = true ∧ up.fw.collector = none) ∧
      { up with fw := { up.fw with collector := some (1, 2) } }.fw.collector.isSome = true) :=
  ⟨by decide, ⟨by decide, .inl (by decide), ⟨rfl, rfl, rfl, rfl⟩⟩, by decide,
    ⟨by decide +kernel, by decide, by decide, by decide +kernel, ⟨rfl, rfl, rfl, rfl⟩, rfl, by decide, by decide⟩, by decide, by decide⟩

/-! ### The vector engine -/

def runOf (check : Nat) (w : Word) : VecRun :=
  { op := 9, prog := [w], pc := 0, ended := false, check := check, root := 0, seed := 0, step := 0, tids := [0, 0, 0, 0]
    useCtr := [0, 0, 0, 0], valid := [true, true, true, true], entries := [Entry.free, Entry.free, Entry.free, Entry.free], uses := []
    words := 0, failure := none, faultPc := none, masked := false, lastStart := 0, lastOcc := 0, busyEnd := 0, pipes := [], gstat0 := []
    wrote := [] }

/-- C0 about to execute a word; virtual page 0 is C0's local store, writable. -/
def running (check : Nat) (w : Word) : State :=
  { up with vec := { Vectors.reset with e0 := { Engine.reset with run := some (runOf check w) } }
            mem := { Memory.reset with tlb := [((0, 0), 0x20000000001)] } }

/-- A word of an opcode whose other fields are zero: one BF16 element, V0, S0. -/
def plain (op : Nat) : Word := BitVec.ofNat 64 op

theorem atWord_plain (check op : Nat) (h : op < 256) : (running check (plain op)).atWord (dieIndex .c0) (plain op) op = some (runOf check (plain op)) := by
  have e : wordOp (plain op) = op := by simp [wordOp, plain, bits]; omega
  simp [State.atWord, State.engine, dieIndex, running, runOf, e]

theorem due_plain (op : Nat) (h : op < 256) : (running 1 (plain op)).WordDue .c0 (plain op) op .agree (runOf 1 (plain op)) :=
  ⟨rfl, ⟨rfl, rfl⟩, atWord_plain 1 op h, .inr rfl⟩

/-- The same word, as the scalar unit gets it, with what its duplicates found. -/
def issue (op : Nat) (v : UnitVote) : ScalarIssue := ⟨plain op, v⟩

theorem met_ScalarAndControlWords : scalarResult (.sadd .c0 (issue 5 .agree)) =
      some (.c0, issue 5 .agree, 5, fun e => e.sreg 0 + e.sreg 0) ∧
    ∀ op, op < 16 → (running 1 (plain op)).ScalarDue .c0 (issue op .agree) op (runOf 1 (plain op)) :=
  ⟨rfl, fun op h => ⟨rfl, atWord_plain 1 op (by omega), .inr rfl⟩⟩

/-- Bit 13 of SNOP; SB of SMOV; IMM of SSHR; the condition of SJUMP. -/
theorem met_ScalarAndControlWords_stray : strayField 0x2000 ∧ strayField 0x100004 ∧ strayField 0x10000000D ∧ strayField 0x40F ∧
    wordOp 0x2000 ≤ 0xF ∧ wordOp 0x40F ≤ 0xF := by
  refine ⟨.inl (.inl ?_), .inr (.inr (.inr (.inl ?_))), .inr (.inr (.inr (.inr (.inl ?_)))), .inr (.inr (.inr (.inr (.inr ?_)))), ?_, ?_⟩ <;> decide

theorem met_ArithmeticWords : (running 1 (plain 0x32)).WordDue .c0 (plain 0x32) 0x32 .agree (runOf 1 (plain 0x32)) ∧
    (∃ x, arithResult (.vmovs .c0 (plain 0x32) .agree) = some x) ∧ isInt (wordEtype 0x80000000000033) = true ∧
    (running 1 0x80000000000033).WordDue .c0 0x80000000000033 0x33 .agree (runOf 1 0x80000000000033) :=
  ⟨due_plain _ (by omega), ⟨_, rfl⟩, by decide, ⟨rfl, ⟨rfl, rfl⟩, by decide +kernel, .inr rfl⟩⟩

theorem met_PredicateWords : (∃ x, compareResult (.vcmpun .c0 (plain 0x46) .agree) = some x) ∧
    (∃ x, predicateResult (.pmov .c0 (plain 0x4F) .agree) = some x) ∧
    ∀ op ∈ [0x46, 0x47, 0x4F, 0x80], (running 1 (plain op)).WordDue .c0 (plain op) op .agree (runOf 1 (plain op)) :=
  ⟨⟨_, rfl⟩, ⟨_, rfl⟩, fun op h => due_plain op (by revert op; decide)⟩

theorem met_ConversionWords : (∃ x, convertResult (.vcvt .c0 (plain 0x50) .agree) = some x) ∧
    (running 1 (plain 0x50)).WordDue .c0 (plain 0x50) 0x50 .agree (runOf 1 (plain 0x50)) := ⟨⟨_, rfl⟩, due_plain _ (by omega)⟩

theorem met_MovementWords : ∀ op ∈ [0x48, 0x58, 0x59, 0x5A, 0x5B, 0x5C, 0x5D, 0x5E, 0x5F],
    (running 1 (plain op)).WordDue .c0 (plain op) op .agree (runOf 1 (plain op)) := fun op h => due_plain op (by revert op; decide)

/-- The one element of the plain load and of the plain stores can be reached. -/
theorem met_LoadWords : (∃ x, loadResult (.vld .c0 (plain 0x60) .agree) = some x) ∧
    (running 1 (plain 0x60)).WordDue .c0 (plain 0x60) 0x60 .agree (runOf 1 (plain 0x60)) ∧
    ∃ t xs, (running 1 (plain 0x60)).vecElems 0 0 (memFmt (plain 0x60)) (vecStride ((running 1 (plain 0x60)).engine 0) (plain 0x60)) false
      (wantedSpots ((running 1 (plain 0x60)).engine 0) (plain 0x60) false) (vecSpots ((running 1 (plain 0x60)).engine 0) (plain 0x60)) =
      (t, .ok xs) := ⟨⟨_, rfl⟩, due_plain _ (by omega), good_split _ (by decide +kernel)⟩

def plainStore (op : Nat) : State × Except (Nat × Nat) (List (List Nat)) :=
  (running 1 (plain op)).vecElems 0 0 (memFmt (plain op)) (vecStride ((running 1 (plain op)).engine 0) (plain op)) true
    ((((running 1 (plain op)).engine 0).mask (plain op)).map (fun m => m || wordPzero (plain op)))
    (vecSpots ((running 1 (plain op)).engine 0) (plain op))

theorem met_StoreWords : (∃ x, storeResult (.vst .c0 (plain 0x61) .agree) = some x) ∧
    (∀ op ∈ [0x61, 0x64, 0x65], (running 1 (plain op)).WordDue .c0 (plain op) op .agree (runOf 1 (plain op))) ∧
    (∃ t xs, plainStore 0x61 = (t, .ok xs)) ∧ (∃ t xs, plainStore 0x65 = (t, .ok xs)) ∧ wordCount (plain 0x61) = 1 ∧
    ((running 1 (plain 0x61)).engine 0).maskAt (plain 0x61) 0 = true :=
  ⟨⟨_, rfl⟩, fun op h => due_plain op (by revert op; decide), good_split _ (by decide +kernel), good_split _ (by decide +kernel), by decide, by decide⟩

theorem met_TableWords : (∀ op ∈ [0x66, 0x67, 0x68, 0x69, 0x6A, 0x6B],
      (running 1 (plain op)).WordDue .c0 (plain op) op .agree (runOf 1 (plain op))) ∧
    (∃ t as, (running 1 (plain 0x66)).vecBytes 0 (allowVec 0 0) false (vecBase ((running 1 (plain 0x66)).engine 0) (plain 0x66))
      (ceilDiv (wordCount (plain 0x66)) 8) = (t, .ok as)) ∧
    (∃ t, (running 1 (plain 0x67)).vecBytes 0 (allowVec 0 0) true (vecBase ((running 1 (plain 0x67)).engine 0) (plain 0x67))
      (ceilDiv (wordCount (plain 0x67)) 8) = (t, .ok [0x20000000000])) ∧
    vecBase ((running 1 (plain 0x6A)).engine 0) (plain 0x6A) % 8 = 0 ∧
    (∃ t bs, (running 1 (plain 0x6A)).readVirt 0 (allowVec 0 0) (vecBase ((running 1 (plain 0x6A)).engine 0) (plain 0x6A)) 32768 = (t, .ok bs)) ∧
    ((running 1 (plain 0x6B)).pagesWritable 0 (allowVec 0 0) (pageFuel 32768) (vecBase ((running 1 (plain 0x6B)).engine 0) (plain 0x6B)) 32768).2 = none :=
  ⟨fun op h => due_plain op (by revert op; decide), good_split _ (by decide +kernel), ⟨running 1 (plain 0x67), by decide +kernel⟩, by decide,
    good_split _ (by decide +kernel), by decide +kernel⟩

theorem met_ReductionWords : (∃ x, extremeResult (.vrargmax .c0 (plain 0x76) .agree) = some x) ∧
    (∃ x, segmentResult (.vsegmaxabs .c0 (plain 0x7B) .agree) = some x) ∧
    ∀ op ∈ [0x70, 0x71, 0x75, 0x76, 0x7B, 0x7C, 0x7D, 0x7E, 0x81],
      (running 1 (plain op)).WordDue .c0 (plain op) op .agree (runOf 1 (plain op)) :=
  ⟨⟨_, rfl⟩, ⟨_, rfl⟩, fun op h => due_plain op (by revert op; decide)⟩

theorem met_VotedWords : (running 3 (plain 0x10)).isReady = true ∧ (running 3 (plain 0x10)).Sound ∧
    (running 3 (plain 0x10)).atWord (dieIndex .c0) (plain 0x10) 0x10 = some (runOf 3 (plain 0x10)) ∧
    wordChecked (runOf 3 (plain 0x10)) (plain 0x10) = true ∧ (∃ x, arithResult (.vadd .c0 (plain 0x10) .mismatch) = some x) ∧
    (∃ x, arithResult (.vadd .c0 (plain 0x10) (.masked .c1 7)) = some x) ∧
    (running 3 (plain 0x10)).otherFailed 0 (runOf 3 (plain 0x10)) = false ∧
    scalarForm (.sadd .c0 (issue 5 .mismatch)) = some (.c0, issue 5 .mismatch, 5) ∧
    (∃ f, scalarResult (.sadd .c0 (issue 5 (.masked .c1 7))) = some (.c0, issue 5 (.masked .c1 7), 5, f)) ∧
    (running 3 (plain 5)).isReady = true ∧ (running 3 (plain 5)).atWord (dieIndex .c0) (plain 5) 5 = some (runOf 3 (plain 5)) ∧
    (runOf 3 (plain 5)).check = 3 ∧ (running 3 (plain 5)).otherFailed 0 (runOf 3 (plain 5)) = false :=
  ⟨rfl, ⟨rfl, rfl⟩, atWord_plain 3 _ (by omega), rfl, ⟨_, rfl⟩, ⟨_, rfl⟩, rfl, rfl, ⟨_, rfl⟩, rfl, atWord_plain 3 _ (by omega), rfl, rfl⟩

/-! ### Ops -/

def aProgram : Program :=
  { ring := 0, cmd := 1, root := 0, check := 2, duet := false, seed := 0, histLen := 16, marginExp := 1, flushLog2 := 4, runLength := 32
    next := none, stopped := false, completed := 0, failure := none, saturated := none, best := 0, bestTag := 0, proofFailed := false }

/-- One op, or several, of ring 0 in the window; virtual page 0 is C0's local store, writable, and begins with some bytes. -/
def inWindow (bytes : List Byte) (os : List Op) : State :=
  { up with seq := { Seq.reset with programs := [aProgram], window := os }
            mem := { Memory.reset with tlb := [((0, 0), 0x20000000001)], ram := (Store.empty 8).write 0x20000000000 bytes } }

theorem free_of (bytes : List Byte) (o : Op) (h : (inWindow bytes [o]).opFree o = true) (hi : o.id = 9) :
    (inWindow bytes [o]).Free 9 o.kind o := ⟨rfl, by simp [inWindow, State.op, hi], hi, rfl, h⟩

/-- C0 and one word. -/
def vecOp : Op := anOp 9 opVec (descOf 128 [(0, 0x802), (0x18, 1)])
def badVec : Op := anOp 9 opVec (descOf 128 [(0, 2)])

theorem met_VecOps : (inWindow [1] [vecOp]).Free 9 opVec vecOp ∧ (inWindow [1] [vecOp]).program 0 = some aProgram ∧
    (inWindow [1] [vecOp]).enginesFree vecOp = true ∧ (inWindow [1] [vecOp]).entriesFree vecOp = true ∧ vecDescBad vecOp = false ∧
    (inWindow [1] [vecOp]).readVirt 0 allowProgram vecOp.progAddr 8 = (inWindow [1] [vecOp], .ok [1, 0, 0, 0, 0, 0, 0, 0]) ∧
    ((inWindow [1] [vecOp]).slotEntries vecOp aProgram).all (·.isSome) = true ∧
    programBad (wordsOf 1 [1, 0, 0, 0, 0, 0, 0, 0]) vecOp.slotsUsed (((inWindow [1] [vecOp]).slotEntries vecOp aProgram).map (·.getD Entry.free))
      false false = false ∧
    (inWindow [1] [badVec]).Free 9 opVec badVec ∧ vecDescBad badVec = true ∧ badVec.resultAddr = 0 :=
  ⟨free_of _ _ (by decide +kernel) rfl, rfl, by decide, by decide +kernel, by decide +kernel, by decide +kernel, by decide +kernel, by decide +kernel,
    free_of _ _ (by decide +kernel) rfl, by decide +kernel, by decide +kernel⟩

def vecDone : State :=
  { inWindow [] [vecOp] with vec := { Vectors.reset with e0 := { Engine.reset with run := some { runOf 1 1 with ended := true } } } }

theorem met_VecOps_complete : vecDone.isReady = true ∧ vecDone.op 9 = some vecOp ∧ vecOp.id = 9 ∧ vecDone.program vecOp.ring = some aProgram ∧
    vecDone.vecRuns 9 ≠ [] ∧ (∀ r ∈ vecDone.vecRuns 9, r.ended = true) ∧ vecOp.resultAddr = 0 := by decide +kernel

/-- A product of 1 by 1 by 1 in BF16: A at 0, B at 64, the output at 128. -/
def matOp : Op :=
  anOp 9 opMatmul (descOf 128 [(0, 1), (0x18, 64), (0x28, 128), (0x48, 0x1000001), (0x50, 1), (0x58, 0x4000000040), (0x60, 64), (0x70, 2 ^ 41)])
/-- The same as the first member of a fold chain. -/
def keepOp : Op :=
  anOp 9 opMatmul (descOf 128 [(0, 1), (0x18, 64), (0x48, 0x1000001), (0x50, 1), (0x58, 0x4000000040), (0x70, 2 ^ 41), (0x78, 0x1000F00)])

def blank : Entry := Entry.fresh 0 16 1
def matStart (o : Op) (x : (Scale × Option SlotUse) × (Scale × Option SlotUse)) : MatRun :=
  startMat o aProgram (matDesc o) blank blank blank none x
/-- A FOLD_CONT with no chain to go on. -/
def badMat : Op := { matOp with desc := descOf 128 [(0, 1), (0x18, 64), (0x48, 0x1000001), (0x50, 1), (0x58, 0x4000000040), (0x70, 2 ^ 41), (0x78, 0x1800F00)] }

/-- The state in which an op's areas have been checked; then its chain is read, the loader buffers met and its scales taken. -/
def areasReached (o : Op) : State × Option MemErr :=
  (((inWindow [] [o]).acting 9).discardChains (matDesc o)).matReach 0 (matDesc o)
    (effectiveCheck (matDesc o).check 2 == 3 || (matDesc o).resident blank.histCount blank.pinned || (matDesc o).band == 0)
    ((matDesc o).resident blank.histCount blank.pinned)
def chainReached (o : Op) : State × Option MemErr := (areasReached o).1.chainRead (matDesc o)
def scalesRead (o : Op) : State × Except MemErr ((Scale × Option SlotUse) × (Scale × Option SlotUse)) :=
  ((chainReached o).1.meetHidden 5 9).1.matScales 0 (matDesc o) blank blank

theorem met_MatmulStarts :
    (∀ o ∈ [matOp, keepOp], (inWindow [] [o]).Free 9 opMatmul o ∧ (inWindow [] [o]).program 0 = some aProgram ∧
      (inWindow [] [o]).regionFree o = true ∧ (inWindow [] [o]).entriesFree o = true ∧ (inWindow [] [o]).matRun 9 = none ∧
      (inWindow [] [o]).entryFor (matDesc o).aTid 16 1 = some blank ∧ (inWindow [] [o]).entryFor (matDesc o).bTid 16 1 = some blank ∧
      (inWindow [] [o]).entryFor (matDesc o).outTid 16 1 = some blank ∧ (matDesc o).entriesBad blank blank blank = false ∧
      (inWindow [] [o]).chainBad (matDesc o) = false ∧
      productKnownBad (matDesc o) ((inWindow [] [o]).chainOf (matDesc o)) blank blank = false ∧
      (inWindow [] [o]).needsSeed (matDesc o) = false ∧ (areasReached o).2 = none ∧ (chainReached o).2 = none ∧
      ((chainReached o).1.meetHidden 5 9).2 = false ∧
      ∃ s5 x, scalesRead o = (s5, .ok x) ∧
        productBad (matDesc o) ((inWindow [] [o]).chainOf (matDesc o)) (matStart o x) = false ∧ ∀ r, s5.plateFree r = true) ∧
    (matDesc keepOp).foldKeep = true ∧ (matDesc keepOp).foldCont = false ∧
    ((inWindow [] [badMat]).Free 9 opMatmul badMat ∧ (inWindow [] [badMat]).regionFree badMat = true ∧ (inWindow [] [badMat]).entriesFree badMat = true ∧
      badMat.resultAddr = 0 ∧ (inWindow [] [badMat]).program 0 = some aProgram ∧ (inWindow [] [badMat]).entryFor (matDesc badMat).aTid 16 1 = some blank ∧
      (inWindow [] [badMat]).entryFor (matDesc badMat).bTid 16 1 = some blank ∧
      (inWindow [] [badMat]).entryFor (matDesc badMat).outTid 16 1 = some blank ∧ (inWindow [] [badMat]).chainBad (matDesc badMat) = true) := by
  refine ⟨?_, by decide +kernel, by decide +kernel, free_of _ _ (by decide +kernel) rfl, by decide +kernel, by decide +kernel, by decide +kernel, rfl,
    by decide +kernel, by decide +kernel, by decide +kernel, by decide +kernel⟩
  intro o ho
  have hs : okWith (scalesRead o) (fun t x => !productBad (matDesc o) ((inWindow [] [o]).chainOf (matDesc o)) (matStart o x) &&
      t.plateHolders.isEmpty) = true := by
    simp only [List.mem_cons, List.not_mem_nil, or_false] at ho
    obtain rfl | rfl := ho <;> decide +kernel
  obtain ⟨s5, x, h, g⟩ := okWith_split _ _ hs
  simp only [Bool.and_eq_true, Bool.not_eq_true', List.isEmpty_iff] at g
  have he : ∃ s5 x, scalesRead o = (s5, .ok x) ∧
      productBad (matDesc o) ((inWindow [] [o]).chainOf (matDesc o)) (matStart o x) = false ∧ ∀ r, s5.plateFree r = true :=
    ⟨s5, x, h, g.1, fun r => by simp [State.plateFree, g.2]⟩
  simp only [List.mem_cons, List.not_mem_nil, or_false] at ho
  obtain rfl | rfl := ho <;>
    exact ⟨free_of _ _ (by decide +kernel) rfl, rfl, by decide +kernel, by decide +kernel, rfl, by decide +kernel, by decide +kernel, by decide +kernel,
      by decide +kernel, by decide +kernel, by decide +kernel, by decide +kernel, by decide +kernel, by decide +kernel, by decide +kernel, he⟩

/-! The plate -/

def held9 : Frank := { request with op := 9 }
/-- An issued op on the plate, its frank held. -/
def onPlate (o : Op) (r : MatRun) : State :=
  { inWindow [] [{ o with phase := .issued }] with plate := { Plate.reset with running := [r] }
                                                   power := { Power.reset with held := [held9] } }
def noScale : (Scale × Option SlotUse) × (Scale × Option SlotUse) := ((.exp 0, none), (.exp 0, none))
/-- The runs of the two products, with a checking mode, tiles withheld, and passes, drains and a decision behind them. -/
def matRun (o : Op) (check : Nat) (owed : List (Nat × Nat)) (pass drained decided : Nat) : MatRun :=
  { matStart o noScale with check := check, owed := owed, pass := pass, drained := drained, decided := decided }

theorem on_plate (o : Op) (r : MatRun) (hi : o.id = 9) (ho : o.ring = 0) (hr : r.op = 9) :
    (onPlate o r).OnPlate 9 { o with phase := .issued } r aProgram :=
  ⟨rfl, by simp [onPlate, inWindow, State.op, hi], hi, by simp [onPlate, State.matRun, hr], hr, by simp [onPlate, inWindow, State.program, ho]; rfl⟩

/-- The kept product at its one pass; and as a run that folds its tile sums into its slots. -/
def keepRun (check : Nat) (owed : List (Nat × Nat)) : MatRun := matRun keepOp check owed 0 0 0
def foldRun (check : Nat) (owed : List (Nat × Nat)) : MatRun :=
  { keepRun check owed with d := { matDesc keepOp with accAdd := true } }
def noFaults : PassFaults := ⟨[], []⟩
/-- One bit of the tree integer of the one tile. -/
def oneFault : List TileFault := [⟨0, 0, 2 ^ 80⟩]
def foldsAgree : DieVotes := ⟨1, 2, none⟩
def foldsLost : DieVotes := ⟨0, 0, some .c1⟩

/-- What a pass reads, and whether something holds of it. -/
def readsWith (r : MatRun) (f : List (List Val) × List (List Val) → Bool) : Bool :=
  okWith (((onPlate keepOp r).acting 9).passOperands 0 r) (fun _ x => f x)
theorem reads_split (r : MatRun) (f : List (List Val) × List (List Val) → Bool) (h : readsWith r f = true) :
    ∃ t x, ((onPlate keepOp r).acting 9).passOperands 0 r = (t, .ok x) ∧ f x = true := okWith_split _ _ h

theorem met_PlatePasses_state : ∀ r ∈ [keepRun 1 [], keepRun 2 [], keepRun 3 [], foldRun 1 [], foldRun 2 [], foldRun 3 [], keepRun 2 [(0, 0)],
      foldRun 2 [(0, 0)], keepRun 3 [(0, 0)], foldRun 3 [(0, 0)]],
    (onPlate keepOp r).OnPlate 9 { keepOp with phase := .issued } r aProgram ∧ (onPlate keepOp r).streams r = true ∧ r.blockRoom = true := by
  intro r h
  have hs : (onPlate keepOp r).streams r = true ∧ r.blockRoom = true ∧ r.op = 9 := by
    revert r
    decide +kernel
  exact ⟨on_plate _ _ rfl rfl hs.2.2, hs.1, hs.2.1⟩

/-- A pass taken, or lost by its folds; tiles withheld; a re-run that fails and one that masks; a difference that asks for a vote. -/
theorem met_PlatePasses :
    (keepRun 1 []).makesFolds = false ∧ (foldRun 1 []).makesFolds = true ∧ foldsAgree.lost = none ∧ foldsLost.lost ≠ none ∧
    (∃ t x, ((onPlate keepOp (foldRun 1 [])).acting 9).passOperands 0 (foldRun 1 []) = (t, .ok x) ∧ true = true) ∧
    (∃ t x, ((onPlate keepOp (keepRun 2 [])).acting 9).passOperands 0 (keepRun 2 []) = (t, .ok x) ∧
      ((keepRun 2 []).withheld x [] == [] && (keepRun 2 []).withheld x oneFault != [] && (foldRun 2 []).withheld x [] == []) = true) ∧
    (∃ t x, ((onPlate keepOp (keepRun 3 [])).acting 9).passOperands 0 (keepRun 3 []) = (t, .ok x) ∧
      ((keepRun 3 []).disputed x noFaults == [] && (keepRun 3 []).disputed x ⟨oneFault, []⟩ != []) = true) ∧
    (∃ t x, ((onPlate keepOp (keepRun 2 [(0, 0)])).acting 9).passOperands 0 (keepRun 2 [(0, 0)]) = (t, .ok x) ∧
      (List.any [(0, 0)] ((keepRun 2 [(0, 0)]).tileFails x oneFault) && !List.any [(0, 0)] ((keepRun 2 [(0, 0)]).tileFails x [])) = true) :=
  ⟨by decide +kernel, by decide +kernel, rfl, by decide, reads_split _ (fun _ => true) (by decide +kernel), reads_split _ _ (by decide +kernel),
    reads_split _ _ (by decide +kernel), reads_split _ _ (by decide +kernel)⟩

/-- The product's pages are gone. -/
def unmapped (r : MatRun) : State := { onPlate keepOp r with mem := Memory.reset }

theorem met_PlatePasses_unreadable : (unmapped (keepRun 1 [])).streams (keepRun 1 []) = true ∧
    ∃ t e, ((unmapped (keepRun 1 [])).acting 9).passOperands 0 (keepRun 1 []) = (t, .error e) ∧ true = true :=
  ⟨by decide +kernel, err_split _ (fun _ _ => true) (by decide +kernel)⟩

/-- Run V agrees with run D; and it agrees with neither where their signatures differ, which are free values (log 17). -/
theorem met_VotePasses : (∃ t x, (((onPlate keepOp (keepRun 3 [(0, 0)])).acting 9).releaseUse 9 .vote).passOperands 0 (keepRun 3 [(0, 0)]) = (t, .ok x) ∧
      ((keepRun 3 [(0, 0)]).verdict x [] (0, 0) == some 0) = true) ∧ (keepRun 3 [(0, 0)]).check = 3 ∧ (keepRun 3 [(0, 0)]).culprit = 0xFFFF ∧
    (∀ (r : MatRun) (x : List (List Val) × List (List Val)), r.tileIn x oneFault (0, 0) ≠ r.tileIn x r.dup (0, 0) →
      (r.signature x oneFault 0 ≠ r.signature x r.first 0 → r.verdict x oneFault (0, 0) = none) ∧
      (r.signature x oneFault 0 = r.signature x r.first 0 → r.verdict x oneFault (0, 0) = some 1536)) ∧
    (keepRun 3 [(0, 0)]).tileIn ([[Val.pow2 0]], [[Val.pow2 0]]) oneFault (0, 0) ≠
      (keepRun 3 [(0, 0)]).tileIn ([[Val.pow2 0]], [[Val.pow2 0]]) (keepRun 3 [(0, 0)]).dup (0, 0) :=
  ⟨okWith_split _ (fun _ x => (keepRun 3 [(0, 0)]).verdict x [] (0, 0) == some 0) (by decide +kernel), rfl, rfl,
    fun r x h => ⟨fun g => by simp [MatRun.verdict, h, g], fun g => by simp [MatRun.verdict, h, g]⟩, by decide +kernel⟩

theorem met_ResiduesCatch : tileChecked [Val.pow2 0] [Val.pow2 0] = true ∧
    (keepRun 2 []).residueFails [Val.pow2 0] [Val.pow2 0] 0 = false := by decide +kernel

/-- A decided run whose drains saturated. -/
def satRun : MatRun := { matRun matOp 2 [] 1 1 0 with aSat := .num false 2 1 0 }
/-- A run with its next block drained, a row outvoted on each die. -/
def drainVote : DieVotes := ⟨1, 1, none⟩
def drainOf (r : MatRun) : MatRun :=
  { ((r.indexes (r.area (r.drained * r.d.kt)).m0 (r.area (r.drained * r.d.kt)).h (r.area (r.drained * r.d.kt)).n0 (r.area (r.drained * r.d.kt)).w).foldl
      (MatRun.countElem 0 0) (r.withScale.votes 3 drainVote)) with
    drained := r.drained + 1, rowsFrom := if r.blockRoom then r.rowsFrom else max r.rowsFrom 0 }
/-- A run with its row statistics still to be written, at virtual page 0. -/
def statRun : MatRun :=
  { matRun matOp 2 [] 1 1 0 with d := { matDesc matOp with rowmax := true } }

theorem met_DrainsAndBrackets :
    (∀ r ∈ [matRun matOp 2 [] 1 0 0, { matRun matOp 2 [] 1 0 0 with overlap := [(0, 1)] }], r.drainDue = true ∧
      (onPlate matOp r).OnPlate 9 { matOp with phase := .issued } r aProgram ∧ (onPlate matOp r).holdsFrank 9 = true ∧
      (onPlate matOp r).asksFrank 9 = false) ∧
    (matRun matOp 2 [] 1 0 0).d.stores = true ∧ (matRun matOp 2 [] 1 0 0).overlap = [] ∧
    (∃ t, ((onPlate matOp (matRun matOp 2 [] 1 0 0)).acting 9).writeAll 0
      ((drainOf (matRun matOp 2 [] 1 0 0)).blockPieces 0 0 ((matRun matOp 2 [] 1 0 0).area 0)) = (t, none)) ∧
    (((onPlate matOp (matRun matOp 2 [] 1 0 0)).acting 9).writeAll 0
      ((drainOf (matRun matOp 2 [] 1 0 0)).blockPieces 0 0 ((matRun matOp 2 [] 1 0 0).area 0))).1.matRun 9 = some (matRun matOp 2 [] 1 0 0) ∧
    ((onPlate matOp satRun).OnPlate 9 { matOp with phase := .issued } satRun aProgram ∧ satRun.runDone = true ∧ satRun.overflowed = true ∧
      satRun.brackets < 2) ∧
    (∀ r ∈ [matRun matOp 2 [] 1 1 0, statRun], (onPlate matOp r).OnPlate 9 { matOp with phase := .issued } r aProgram ∧
      r.runDone = true ∧ r.overflowed = false ∧ r.overlap = []) ∧
    ((matRun matOp 2 [] 1 1 0).d.rowmax || (matRun matOp 2 [] 1 1 0).d.rowsum) = false ∧ (statRun.d.rowmax || statRun.d.rowsum) = true ∧
    (∃ t, ((onPlate matOp statRun).acting 9).writeAll 0 statRun.allStats = (t, none)) ∧
    (((onPlate matOp statRun).acting 9).writeAll 0 statRun.allStats).1.matRun 9 = some statRun ∧
    ((onPlate matOp (matRun matOp 2 [] 1 1 1)).matRun 9 = some (matRun matOp 2 [] 1 1 1) ∧ (matRun matOp 2 [] 1 1 1).failure = none ∧
      (onPlate matOp (matRun matOp 2 [] 1 1 1)).holdsFrank 9 = true ∧ (onPlate matOp (matRun matOp 2 [] 1 1 1)).asksFrank 9 = false) := by
  refine ⟨?_, by decide +kernel, rfl, none_split _ (by decide +kernel), by decide +kernel,
    ⟨on_plate _ _ rfl rfl rfl, by decide +kernel, by decide +kernel, by decide +kernel⟩, ?_, by decide +kernel, by decide +kernel,
    none_split _ (by decide +kernel), by decide +kernel, by decide +kernel⟩ <;>
  · intro r h
    simp only [List.mem_cons, List.not_mem_nil, or_false] at h
    obtain rfl | rfl := h <;> exact ⟨by first | decide +kernel | exact on_plate _ _ rfl rfl rfl, by first | decide +kernel | exact on_plate _ _ rfl rfl rfl,
      by decide +kernel, by decide +kernel⟩

/-- In whole form, its result left in accumulator memory. -/
def slotOp : Op := { matOp with desc := descOf 128 [(0, 1), (0x18, 64), (0x48, 0x1000001), (0x50, 1), (0x58, 0x4000000040), (0x70, 2 ^ 41), (0x78, 0x700)] }

/-- A run whose pass met a fault that stood. -/
def failedRun : MatRun := { matRun slotOp 2 [] 0 0 0 with failure := some (0x30, none) }

theorem met_MatmulCompletes_failed : (onPlate slotOp failedRun).OnPlate 9 { slotOp with phase := .issued } failedRun aProgram ∧
    failedRun.failure = some (0x30, none) := ⟨on_plate _ _ rfl rfl rfl, rfl⟩

theorem met_MatmulCompletes : (onPlate slotOp (matRun slotOp 2 [] 1 1 2)).OnPlate 9 { slotOp with phase := .issued } (matRun slotOp 2 [] 1 1 2) aProgram ∧
    (matRun slotOp 2 [] 1 1 2).decided = 2 ∧ slotOp.resultAddr = 0 ∧ (matRun slotOp 2 [] 1 1 2).failure = none ∧
    (matRun slotOp 2 [] 1 1 2).d.whole = true ∧ (matRun slotOp 2 [] 1 1 2).d.foldKeep = false ∧
    ((matRun slotOp 2 [] 1 1 2).d.slotRange 0).1 + 3 ≤ ((matRun slotOp 2 [] 1 1 2).d.slotRange 1).1 ∧
    ((matRun slotOp 2 [] 1 1 2).slotBytes 0).length = 3 ∧ noSlot (((matRun slotOp 2 [] 1 1 2).d.slotRange 0).1 + 2) = false :=
  ⟨on_plate _ _ rfl rfl rfl, by decide +kernel, by decide +kernel, by decide +kernel, by decide +kernel, by decide +kernel, by decide +kernel, by decide +kernel,
    by decide +kernel⟩

/-- On Q0 of C0, with a condition; NEXT is 128 and TAKEN is 256. -/
def branchOn (cond : Nat) : Op := anOp 9 opBranch (descOf 128 [(0, 0x807 + cond * 2 ^ 17), (8, 128), (0x10, 256)])

theorem met_Branches : ((inWindow [] [branchOn 7]).Free 9 opBranch (branchOn 7) ∧ branchBad (branchOn 7) = false) ∧
    ((inWindow [] [issuedOp (branchOn 7)]).op 9 = some (issuedOp (branchOn 7)) ∧ (inWindow [] [issuedOp (branchOn 7)]).program 0 = some aProgram ∧
      aProgram.stopped = false ∧ (branchOn 7).resultAddr = 0 ∧ (branchOn 7).taken 0 = true ∧ (branchOn 7).branchTaken ≠ 0) ∧
    ((branchOn 6).taken 0 = false ∧ (branchOn 6).next ≠ 0) ∧
    ((inWindow [] [issuedOp (branchOn 7), { issuedOp vecOp with id := 10 }]).op 9 = some (issuedOp (branchOn 7)) ∧
      { issuedOp vecOp with id := 10 } ∈ (inWindow [] [issuedOp (branchOn 7), { issuedOp vecOp with id := 10 }]).seq.window) :=
  ⟨⟨free_of _ _ (by decide +kernel) rfl, by decide +kernel⟩, ⟨rfl, rfl, rfl, by decide +kernel, by decide +kernel, by decide +kernel⟩,
    ⟨by decide +kernel, by decide +kernel⟩, rfl, .tail _ (.head _)⟩

/-- One row of 64 bytes from virtual address 0 to 128. -/
def moveOp : Op := anOp 9 opMove (descOf 128 [(0, 3), (0x10, 0x8007000000000000), (0x18, 0x8007000000000080), (0x28, 0x100000040)])
/-- One row of 64 MiB of HBM. -/
def bigMove : Op := anOp 9 opMove (descOf 128 [(0, 3), (0x10, 0x7000000000000), (0x18, 0x7000010000000), (0x28, 0x104000000)])
/-- Its destination is the tray member `m`. -/
def memberMove (m : Nat) : Op := anOp 9 opMove (descOf 128 [(0, 3), (0x10, 0x8007000000000000), (0x18, m * 2 ^ 48), (0x28, 0x100000040)])
/-- Member 0 of a tray of four, its first ports in some state. -/
def inTray (os : List Op) (state : Nat) : State :=
  { inWindow [] os with net := { Net.reset with group := 3, ports := [(0, { Port.reset with role := 1, state := state }), (1, { Port.reset with role := 1, state := state })] } }

theorem none_wanted {s : State} (h : s.net.channels.all (fun p => p.2.wanted.isEmpty) = true) : s.NoneWanted := fun p hp => by
  have := List.all_eq_true.1 h p hp
  simpa using this

/-- The state in which the copy is done; that in which the frames to a member are sent, its ports UP; and the members of a tray. -/
def copied : State × List (Nat × Nat × Nat) × Option MemErr :=
  (((inWindow [] [moveOp]).acting 9).issue moveOp).1.copyPieces 0 (((inWindow [] [moveOp]).acting 9).issue moveOp).2 (moveOp.movePieces 0x10000)
def pushing : State := inTray [memberMove 1] portUp
def pushed : State × Option MemErr :=
  (((pushing.acting 9).issue (memberMove 1)).1.setOp { ((pushing.acting 9).issue (memberMove 1)).2 with begun := true }).pushPieces 0
    ((pushing.acting 9).issue (memberMove 1)).2 ((pushing.acting 9).issue (memberMove 1)).2.framePieces
/-- Its source is the tray member 1. -/
def pullMove : Op := anOp 9 opMove (descOf 128 [(0, 3), (0x10, 2 ^ 48), (0x18, 0x8007000000000080), (0x28, 0x100000040)])

theorem met_Moves :
    ((inWindow [] [moveOp]).Free 9 opMove moveOp ∧ (inWindow [] [moveOp]).moveBad moveOp = false ∧
      ((inWindow [] [moveOp]).acting 9).moveAsks 0 moveOp = false ∧
      moveOp.moveSrcMember = 7 ∧ moveOp.moveDstMember = 7 ∧ moveOp.moveSemAdd = 0 ∧ moveOp.resultAddr = 0 ∧
      copied = (copied.1, copied.2.1, none) ∧ copied.1.quiet 9 = true ∧ copied.1.NoneWanted) ∧
    ((inWindow [] [bigMove]).Free 9 opMove bigMove ∧ (inWindow [] [bigMove]).moveBad bigMove = false ∧
      ((inWindow [] [bigMove]).acting 9).moveAsks 0 bigMove = true ∧ (inWindow [] [bigMove]).NoneWanted) ∧
    (pushing.Free 9 opMove (memberMove 1) ∧ pushing.moveBad (memberMove 1) = false ∧ (pushing.acting 9).moveAsks 0 (memberMove 1) = false ∧
      (memberMove 1).moveDstMember ≠ 7 ∧ (memberMove 1).moveSrcMember = 7 ∧ pushing.pairDead 1 = false ∧ pushed.2 = none ∧ pushed.1.NoneWanted) ∧
    ((inTray [pullMove] portUp).Free 9 opMove pullMove ∧ (inTray [pullMove] portUp).moveBad pullMove = false ∧
      (inTray [pullMove] portUp).NoneWanted ∧ ((inTray [pullMove] portUp).acting 9).moveAsks 0 pullMove = false ∧ pullMove.moveSrcMember = 1 ∧
      (inTray [pullMove] portUp).pairDead 1 = false ∧ pullMove.framePieces ≠ []) ∧
    ((inWindow [] [memberMove 4]).Free 9 opMove (memberMove 4) ∧ (inWindow [] [memberMove 4]).moveBad (memberMove 4) = true ∧
      (inWindow [] [memberMove 4]).quiet 9 = true ∧ (memberMove 4).resultAddr = 0) ∧
    ((inTray [memberMove 1] portDead).Free 9 opMove (memberMove 1) ∧ ((inTray [memberMove 1] portDead).acting 9).moveAsks 0 (memberMove 1) = false ∧
      (inTray [memberMove 1] portDead).quiet 9 = true ∧ (inTray [memberMove 1] portDead).NoneWanted ∧
      (inTray [memberMove 1] portDead).pairDead 1 = true) := by
  refine ⟨⟨free_of _ _ (by decide +kernel) rfl, by decide +kernel, by decide +kernel, by decide +kernel, by decide +kernel, by decide +kernel, by decide +kernel,
    Prod.ext rfl (Prod.ext rfl (by decide +kernel)), by decide +kernel, none_wanted (by decide +kernel)⟩,
    ⟨free_of _ _ (by decide +kernel) rfl, by decide +kernel, by decide +kernel, none_wanted (by decide +kernel)⟩,
    ⟨⟨rfl, rfl, rfl, rfl, by decide +kernel⟩, by decide +kernel, by decide +kernel, by decide +kernel, by decide +kernel, by decide +kernel, by decide +kernel,
      none_wanted (by decide +kernel)⟩,
    ⟨⟨rfl, rfl, rfl, rfl, by decide +kernel⟩, by decide +kernel, none_wanted (by decide +kernel), by decide +kernel, by decide +kernel, by decide +kernel,
      by decide +kernel⟩,
    ⟨free_of _ _ (by decide +kernel) rfl, by decide +kernel, by decide +kernel, by decide +kernel⟩, ⟨rfl, rfl, rfl, rfl, by decide +kernel⟩, by decide +kernel,
    by decide +kernel, none_wanted (by decide +kernel), by decide +kernel⟩

/-- Adds 5 to semaphore 65535 of a member; 7 is this module. -/
def signalTo (m : Nat) : Op := anOp 9 opSignal (descOf 128 [(0, 6), (0x10, m * 2 ^ 16 + 65535), (0x18, 5)])

theorem unwatched {s : State} (h : s.seq.window.all (fun o => o.kind != opWait || o.phase != .issued) = true) : s.Unwatched := fun o ho hk => by
  have := List.all_eq_true.1 h o ho
  simpa [hk] using this

theorem met_SignalsAndWaits :
    ((inWindow [] [signalTo 7]).Free 9 opSignal (signalTo 7) ∧ (inWindow [] [signalTo 7]).signalBad (signalTo 7) = false ∧ (signalTo 7).signalMember = 7 ∧
      (signalTo 7).resultAddr = 0 ∧ (inWindow [] [signalTo 7]).Unwatched) ∧
    ((inTray [signalTo 1] portUp).Free 9 opSignal (signalTo 1) ∧ (inTray [signalTo 1] portUp).signalBad (signalTo 1) = false ∧
      (signalTo 1).signalMember ≠ 7 ∧ (inTray [signalTo 1] portUp).pairDead 1 = false) ∧
    ((inTray [signalTo 1] portDead).Free 9 opSignal (signalTo 1) ∧ (inTray [signalTo 1] portDead).signalBad (signalTo 1) = false ∧
      (inTray [signalTo 1] portDead).pairDead 1 = true) ∧
    ((inWindow [] [waitFor 0]).Free 9 opWait (waitFor 0) ∧ waitBad (waitFor 0) = false ∧ (waitFor 0).condHolds ((inWindow [] [waitFor 0]).sem 65535) = true ∧
      (waitFor 0).resultAddr = 0 ∧ (waitFor 0).consumes = true ∧ (inWindow [] [waitFor 0]).Unwatched) ∧
    ((inWindow [] [waitFor 1]).Free 9 opWait (waitFor 1) ∧ waitBad (waitFor 1) = false ∧ (waitFor 1).condHolds ((inWindow [] [waitFor 1]).sem 65535) = false) ∧
    ((inWindow [] [issuedOp (waitFor 1)]).op 9 = some (issuedOp (waitFor 1)) ∧ (issuedOp (waitFor 1)).waitLimitUs ≠ 0 ∧
      (issuedOp (waitFor 1)).condHolds ((inWindow [] [issuedOp (waitFor 1)]).sem (issuedOp (waitFor 1)).semIndex) = false) := by
  refine ⟨⟨free_of _ _ (by decide +kernel) rfl, by decide +kernel, by decide +kernel, by decide +kernel, unwatched (by decide +kernel)⟩,
    ⟨⟨rfl, rfl, rfl, rfl, by decide +kernel⟩, by decide +kernel, by decide +kernel, by decide +kernel⟩,
    ⟨⟨rfl, rfl, rfl, rfl, by decide +kernel⟩, by decide +kernel, by decide +kernel⟩,
    ⟨free_of _ _ (by decide +kernel) rfl, by decide +kernel, by decide +kernel, by decide +kernel, by decide +kernel, unwatched (by decide +kernel)⟩,
    ⟨free_of _ _ (by decide +kernel) rfl, by decide +kernel, by decide +kernel⟩, rfl, by decide +kernel, by decide +kernel⟩

def boundaryOf (by_ : BoundaryBy) : Boundary := boundaryNow by_ 8 0 false 0
/-- A state with steps and a boundary. -/
def withProof (s : State) (steps : List StepRec) (b : Option Boundary) : State :=
  { s with proof := { Proof.reset with steps := steps, stepNow := 7, stepProved := 5, boundary := b } }
def stepOp9 : Op := anOp 9 opStep (descOf 128 [(0, 8)])

theorem met_StepsAndBoundaries :
    ((withProof (inWindow [] [stepOp9]) [aStep 7 .isOpen] none).Free 9 opStep stepOp9 ∧ stepOp9.stepBad = false ∧
      (withProof (inWindow [] [stepOp9]) [aStep 7 .isOpen] none).openStep = some (aStep 7 .isOpen)) ∧
    (up.isReady = true ∧ up.proof.boundary = none) ∧
    ((withProof (inWindow [] [issuedOp moveOp]) [] (some (boundaryOf (.mark 0 1)))).proof.waiting = false ∧
      (withProof (inWindow [] [issuedOp moveOp]) [] (some (boundaryOf (.mark 0 1)))).drainedFor (boundaryOf (.mark 0 1)) = false) ∧
    ((withProof up [] (some (boundaryOf (.mark 0 1)))).isReady = true ∧ (withProof up [] (some (boundaryOf (.mark 0 1)))).proof.waiting = false ∧
      (withProof up [] (some (boundaryOf (.mark 0 1)))).drainedFor (boundaryOf (.mark 0 1)) = true ∧
      (withProof up [] (some (boundaryOf (.mark 0 1)))).proof.repair = none ∧ (boundaryOf (.mark 0 1)).table = none ∧
      (withProof up [] (some (boundaryOf (.mark 0 1)))).proof.keptWritten = false ∧ up.net.epoch = (boundaryOf (.mark 0 1)).epoch ∧
      (withProof up [] (some (boundaryOf (.mark 0 1)))).proof.free = [] ∧ (withProof up [] (some (boundaryOf (.mark 0 1)))).proof.poolPages = 0 ∧
      up.plate.scheduled = [] ∧ up.plate.lanesScheduled = [] ∧ up.plate.coresScheduled = []) := by
  refine ⟨⟨⟨rfl, rfl, rfl, rfl, by decide +kernel⟩, by decide +kernel, rfl⟩, ⟨rfl, rfl⟩, by decide +kernel, by decide +kernel⟩

/-- A broadcast of BF16 tensors from a rank, of virtual page 0, in a group. -/
def collOp (group count peer : Nat) : Op :=
  anOp 9 opColl (descOf 128 [(0, 0x1804), (0x10, 0x700000000 + group), (0x38, count), (0x40, peer * 2 ^ 16)])
/-- One of an E4M3 element from this rank, which every member widens. -/
def wideOp : Op := anOp 9 opColl (descOf 128 [(0, 0x21804), (0x10, 0x700000000), (0x38, 1), (0x40, 0x22)])
/-- Rank 0 of group 0, whose members are nodes 0 to 16. -/
def inGroup17 (o : Op) (runs : List CollRun) : State :=
  { inWindow [] [o] with net := { Net.reset with active := [(0, some ⟨0, List.range 17⟩)], colls := runs, nodeValid := true } }
def collRun9 (peer : Nat) : CollRun := CollRun.start 9 (collDesc (collOp 0 1 peer)) ⟨0, List.range 17⟩ 0 4096

/-- What the checks of a COLL find, its scales taken. -/
def collPlanned (o : Op) : Option (State × CollRun) :=
  (((inGroup17 o []).acting 9).collPlan o).bind (((inGroup17 o []).acting 9).collScales aProgram)

/-- A COLL that has passed its checks and reached its areas, its descriptor's output so large or so small, and what it then reads. -/
def collReached (o : Op) : State × Option MemErr := ((collPlanned o).map (fun x => x.1.reachAreas 0 allowOwn x.2.areas)).getD (up, none)
def collRunOf (o : Op) : CollRun := ((collPlanned o).map (·.2)).getD (collRun9 0)
def collRead (o : Op) (i : State) : State × Except MemErr (List (List Byte)) :=
  i.readTensors 0 (collRunOf o).d.inAddr (collRunOf o).d.inStride (packedBytes (collRunOf o).d.count (collRunOf o).d.inFmt) (collRunOf o).inputs

theorem met_Collectives_large : (inGroup17 (collOp 0 32768 0) []).Free 9 opColl (collOp 0 32768 0) ∧
    (inGroup17 (collOp 0 32768 0) []).program 0 = some aProgram ∧ (inGroup17 (collOp 0 32768 0) []).entriesFree (collOp 0 32768 0) = true ∧
    (collPlanned (collOp 0 32768 0)).isSome = true ∧ (collReached (collOp 0 32768 0)).2 = none ∧ 2 ^ 20 ≤ (collRunOf (collOp 0 32768 0)).bytesOut :=
  ⟨⟨rfl, rfl, rfl, rfl, by decide +kernel⟩, rfl, by decide +kernel, by decide +kernel, by decide +kernel, by decide +kernel⟩

/-- A small one starts at once; one that had asked for a frank starts once it holds it; the widening one's adders may disagree. -/
theorem met_Collectives_start : ∀ o ∈ [collOp 0 1 0, wideOp], (inGroup17 o []).Free 9 opColl o ∧ (inGroup17 o []).entriesFree o = true ∧
    (inGroup17 o []).program 0 = some aProgram ∧ (inGroup17 o []).collRun 9 = none ∧
    (inGroup17 (issuedOp o) []).op 9 = some (issuedOp o) ∧ (inGroup17 (issuedOp o) []).isReady = true ∧
    (collPlanned o).isSome = true ∧ (collReached o).2 = none ∧ (collRunOf o).bytesOut < 2 ^ 20 ∧ (collReached o).1.net.closed = [] ∧
    (collReached o).1.net.early = [] ∧ ((collReached o).1.issue o).1.badPartner (collRunOf o) = none ∧ (collRunOf o).inputs ≠ 0 ∧
    (collRunOf o).d.stageBytes = 0 ∧ o.resultAddr = 0 ∧ good (collRead o ((collReached o).1.issue o).1) = true ∧
    (collPlanned (issuedOp o)).isSome = true ∧ good (collRead (issuedOp o) (collReached (issuedOp o)).1) = true := by
  intro o ho
  simp only [List.mem_cons, List.not_mem_nil, or_false] at ho
  obtain rfl | rfl := ho <;>
    exact ⟨⟨rfl, rfl, rfl, rfl, by decide +kernel⟩, by decide +kernel, rfl, rfl, rfl, rfl, by decide +kernel, by decide +kernel, by decide +kernel,
      by decide +kernel, by decide +kernel, by decide +kernel, by decide +kernel, by decide +kernel, by decide +kernel, by decide +kernel, by decide +kernel,
      by decide +kernel⟩

theorem met_Collectives_votes : (collRunOf (collOp 0 1 0)).vote 0 .agree = .agree ∧ (collRunOf wideOp).vote 0 (.masked .c1 3) = .masked .c1 3 ∧
    (collRunOf wideOp).vote 0 .mismatch = .mismatch := by decide +kernel

/-- A closed step of the same group, which waits for its child of rank 1. -/
def closedStep : StepRec := { aStep 7 .latent with closed := true, group := some ⟨0, List.range 17⟩ }

theorem met_Collectives :
    ((inGroup17 (issuedOp (collOp 0 1 0)) [collRun9 0]).collRun 9 = some (collRun9 0) ∧
      (inGroup17 (issuedOp (collOp 0 1 0)) [collRun9 0]).op 9 = some (issuedOp (collOp 0 1 0)) ∧
      (inGroup17 (issuedOp (collOp 0 1 0)) [collRun9 0]).program 0 = some aProgram ∧
      (inGroup17 (issuedOp (collOp 0 1 0)) [collRun9 0]).collDone (collRun9 0) = true ∧ (collRun9 0).d.stageBytes = 0 ∧
      ∃ t, ((inGroup17 (issuedOp (collOp 0 1 0)) [collRun9 0]).acting 9).collWrite 0 (collRun9 0).outputs = (t, none)) ∧
    ((inGroup17 (issuedOp (collOp 0 1 16)) [collRun9 16]).collWaits (collRun9 16) 16 = true ∧
      (inGroup17 (issuedOp (collOp 0 1 16)) [collRun9 16]).collWaits (collRun9 16) 1 = false ∧
      (inGroup17 (issuedOp (collOp 0 1 16)) [collRun9 16]).collRun 9 = some (collRun9 16)) ∧
    ((withProof (inGroup17 (collOp 0 1 0) []) [closedStep] none).step_ 7 = some closedStep ∧
      (withProof (inGroup17 (collOp 0 1 0) []) [closedStep] none).verdictWaits closedStep 1 = true) :=
  ⟨⟨rfl, rfl, rfl, by decide +kernel, by decide +kernel, none_split _ (by decide +kernel)⟩, by decide +kernel, by decide +kernel⟩

theorem met_Collectives_refused : (inWindow [] [collOp 31 1 0]).Free 9 opColl (collOp 31 1 0) ∧ (inWindow [] [collOp 31 1 0]).program 0 = some aProgram ∧
    (inWindow [] [collOp 31 1 0]).entriesFree (collOp 31 1 0) = true ∧
    (((inWindow [] [collOp 31 1 0]).acting 9).collPlan (collOp 31 1 0)).bind (((inWindow [] [collOp 31 1 0]).acting 9).collScales aProgram) = none ∧
    (collOp 31 1 0).resultAddr = 0 :=
  ⟨free_of _ _ (by decide +kernel) rfl, rfl, by decide +kernel, by decide +kernel, by decide +kernel⟩
/-- A BRANCH with a RESULT_ADDR. -/
def recordAt (addr : Nat) : Op := anOp 9 opBranch (descOf 128 [(0, 0xE0807), (0x20, addr)])
/-- The op issued, and another of its ring. -/
def twoOps (addr : Nat) : State := inWindow [] [recordAt addr, { issuedOp vecOp with id := 10 }]

/-- R437: a RESULT_ADDR that is not a multiple of 32 is a bad descriptor. -/
theorem test_misaligned_record : branchBad (recordAt 16) = true ∧ branchBad (recordAt 32) = false := by decide +kernel

theorem met_ResultRecords :
    ((recordAt 64).resultAddr % 32 = 0 ∧ (recordAt 64).resultAddr ≠ 0 ∧ ∃ t, (twoOps 64).writeVirt ((twoOps 64).rootOf 0) allowOps 64 (zeros 32) = (t, .ok ())) ∧
    ((recordAt 16).resultAddr % 32 ≠ 0 ∧ (twoOps 16).program 0 = some aProgram ∧ { issuedOp vecOp with id := 10 } ∈ (twoOps 16).seq.window) ∧
    ((withCommand (inWindow [] [recordAt 16]) (aCommand true [(0, 1)])).seq.window = [recordAt 16] ∧
      ((withCommand (inWindow [] [recordAt 16]) (aCommand true [(0, 1)])).ring 0).cmd 1 = some (aCommand true [(0, 1)])) ∧
    ((recordAt 0x10000).resultAddr ≠ 0 ∧ (recordAt 0x10000).resultAddr % 32 = 0 ∧
      ∃ t a, (twoOps 0x10000).writeVirt ((twoOps 0x10000).rootOf 0) allowOps 0x10000 (zeros 32) = (t, .error (.addr a)) ∧
        t.program 0 = some aProgram ∧ { issuedOp vecOp with id := 10 } ∈ t.seq.window) := by
  refine ⟨⟨by decide +kernel, by decide +kernel, ?_⟩, ⟨by decide +kernel, rfl, .tail _ (.head _)⟩, ⟨rfl, rfl⟩, by decide +kernel, by decide +kernel, ?_⟩
  · obtain ⟨t, ⟨⟩, h⟩ := good_split _ (by decide +kernel : good ((twoOps 64).writeVirt ((twoOps 64).rootOf 0) allowOps 64 (zeros 32)) = true)
    exact ⟨t, h⟩
  · exact ⟨_, virtDetail 0x10000, Prod.ext rfl (by decide +kernel), by decide +kernel, by decide +kernel⟩

theorem due_of (s : State) (c : FetchedCmd) (typ : Nat) (hr : s.isReady = true) (hs : c.started = false) (ht : c.typ = typ)
    (hm : (withCommand s c).mayStart 0 c = true) : (withCommand s c).Due 0 typ c :=
  ⟨hr, by simp [withCommand, State.ring, SMap.get, Ring.waiting, openRing, hs], by simp [withCommand, State.ring, SMap.get, Ring.cmd, openRing], ht, hm⟩

/-- A program about to take the op at virtual address 0, of a kind. -/
def taking (kind : Byte) : State :=
  { inWindow [kind] [] with seq := { Seq.reset with programs := [{ aProgram with next := some 0 }] } }
/-- A copy of 64 bytes of HBM; its direction is in the mode word. -/
def copyCmd (started : Bool) (mode : Nat) : FetchedCmd := aCommand started [(0, 2), (0x10, 0x1000), (0x18, 64), (0x20, 64), (0x28, mode)]
def copying : State :=
  let s := withCommand up (copyCmd true 0)
  { s with host := { s.host with dma := [{ ring := 0, cmd := 1, root := 0, got := [7], step := none }] } }

theorem met_RingCommands :
    ((withCommand up (aCommand false [(0, 9)])).Due 0 cmdFence (aCommand false [(0, 9)]) ∧ (aCommand false [(0, 9)]).headerBad = false ∧
      (aCommand false [(0, 9)]).restBad 0x18 = false) ∧
    ((withCommand up (aCommand false [(0, 1), (0x10, 2 ^ 63)])).Due 0 cmdOpProgram (aCommand false [(0, 1), (0x10, 2 ^ 63)]) ∧
      (aCommand false [(0, 1), (0x10, 2 ^ 63)]).headerBad = false ∧ (aCommand false [(0, 1), (0x10, 2 ^ 63)]).restBad 0x18 = false ∧
      devBad (2 ^ 63) = false ∧ (withCommand up (aCommand false [(0, 1), (0x10, 2 ^ 63)])).stepFailed = false) ∧
    ((withCommand up (aCommand false [(0, 1)])).Due 0 cmdOpProgram (aCommand false [(0, 1)]) ∧ bit ((aCommand false [(0, 1)]).w 0x10) 63 = false) ∧
    ((taking 2).isReady = true ∧ (taking 2).program 0 = some { aProgram with next := some 0 } ∧ (taking 2).drawsFrom 0 = true ∧
      ∃ t bs, ({ taking 2 with actor := some (aProgram.cmd, 0) } : State).readVirt 0 allowOps 0 128 = (t, .ok bs) ∧
        ((field bs 0 1 = opVec ∧ (t.meetHidden 7 0).2 = false) ∧ (t.meetHidden 7 0).1.program 0 = some { aProgram with next := some 0 }) ∧
        (t.meetHidden 7 0).1.NoneWanted) ∧
    (∀ m < 2, (withCommand up (copyCmd false m)).Due 0 cmdDmaCopy (copyCmd false m) ∧ (withCommand up (copyCmd false m)).proof.boundary = none ∧
      dmaBad (copyCmd false m) = false ∧ (dmaDesc (copyCmd false m)).toHost = bit m 0 ∧
      ((withCommand up (copyCmd false m)).markStarted 0 1 cmdDmaCopy).dmaRange (dmaDesc (copyCmd false m)) = .ok ()) ∧
    (∃ t bs, ((withCommand up (copyCmd false 1)).markStarted 0 1 cmdDmaCopy).readDev 0 allowOwn 64 64 = (t, .ok bs)) ∧
    (copying.host.dma.find? (fun (x : DmaRun) => x.ring == 0) = some { ring := 0, cmd := 1, root := 0, got := [7], step := none } ∧
      (copying.ring 0).cmd 1 = some (copyCmd true 0) ∧ [(7 : Byte)].length + (zeros 62).length < (dmaDesc (copyCmd true 0)).len ∧
      (dmaDesc (copyCmd true 0)).len ≤ [(7 : Byte)].length + (zeros 63).length ∧
      ∃ t x, copying.writePieces 0 64 [(0, (dmaDesc (copyCmd true 0)).shuffled ((7 :: zeros 63).take 64))] = (t, .ok x)) := by
  refine ⟨⟨due_of _ _ _ rfl rfl (by decide) (by decide +kernel), by decide +kernel, by decide +kernel⟩, ⟨due_of _ _ _ rfl rfl (by decide) (by decide +kernel), by decide +kernel⟩,
    ⟨due_of _ _ _ rfl rfl (by decide) (by decide +kernel), by decide +kernel⟩, ⟨rfl, rfl, by decide +kernel, ?_⟩, ?_, good_split _ (by decide +kernel), ⟨by decide +kernel, by decide +kernel,
    by decide +kernel, by decide +kernel, good_split _ (by decide +kernel)⟩⟩
  · obtain ⟨t, bs, h, g⟩ := okWith_split (({ taking 2 with actor := some (aProgram.cmd, 0) } : State).readVirt 0 allowOps 0 128)
      (fun t bs => ((field bs 0 1 == opVec && (t.meetHidden 7 0).2 == false) &&
        decide ((t.meetHidden 7 0).1.program 0 = some { aProgram with next := some 0 })) &&
        (t.meetHidden 7 0).1.net.channels.all (fun p => p.2.wanted.isEmpty)) (by decide +kernel)
    simp only [Bool.and_eq_true, beq_iff_eq, decide_eq_true_eq] at g
    exact ⟨t, bs, h, g.1, none_wanted g.2⟩
  · intro m hm
    obtain rfl | rfl : m = 0 ∨ m = 1 := by omega
    all_goals exact ⟨due_of _ _ _ rfl rfl (by decide) (by decide +kernel), rfl, by decide +kernel, by decide +kernel, by decide +kernel⟩

def stepMarkTo (step : Nat) : FetchedCmd := aCommand false [(0, 3), (0x10, step)]
def okRun : FieldTestRun := { inTime := true, failed := [], ns := 5 }
/-- Its plate test failed, and it took too long. -/
def lateRun : FieldTestRun := { inTime := false, failed := [{ test := 0, unit := 3, place := 7 }], ns := 5 }
def asNode : State := { up with net := { Net.reset with nodeValid := true } }
def groupCmd (epoch : Nat) : FetchedCmd := aCommand false [(0, 12), (0x18, epoch * 2 ^ 32 + 31), (0x20, 1)]
def scaleCmd : FetchedCmd := aCommand false [(0, 10), (0x18, 0x13FFF)]
def counterCmd : FetchedCmd := aCommand false [(0, 14), (0x18, 0x13FFF0000)]
def testCmd : FetchedCmd := aCommand false [(0, 11), (0x10, 1)]

theorem group_reads : ∀ e < 2, okWith (((withCommand asNode (groupCmd e)).markStarted 0 1 cmdGroupSetup).readDev 0 allowOps 0 4)
    (fun t bs => decide (((records 4 1 bs).map leNat = [0] ∧ t.net.nodeId = 0 ∧ t.net.epoch = 0) ∧
      t.directorySize 31 (e == 0) + 1 ≤ 1048576 ∧ t.net.colls = [] ∧ t.net.channels = [])) = true := by decide +kernel

theorem met_ShortCommands :
    (∀ x ∈ [(([] : List StepRec), 8), ([aStep 7 .isOpen], 8), ([aStep 6 .failed, aStep 7 .isOpen], 8), ([aStep 7 .isOpen], 6)],
      (withCommand (withProof up x.1 none) (stepMarkTo x.2)).Due 0 cmdStepMark (stepMarkTo x.2) ∧ (stepMarkTo x.2).headerBad = false ∧
      (stepMarkTo x.2).restBad 0x20 = false ∧ (stepMarkTo x.2).w 0x10 = x.2 ∧ (withProof up x.1 none).net.epoch ≤ bits ((stepMarkTo x.2).w 0x18) 31 0) ∧
    ((withProof up [aStep 7 .isOpen] none).stepFailed = false ∧ (withProof up [aStep 6 .failed, aStep 7 .isOpen] none).stepFailed = true) ∧
    ((withCommand up (aCommand false [(0, 4)])).Due 0 cmdProveStatus (aCommand false [(0, 4)]) ∧ up.stepCode 0 = some 2) ∧
    ((withCommand up (aCommand false [(0, 5), (0x18, 0x400000)])).Due 0 cmdSnapshot (aCommand false [(0, 5), (0x18, 0x400000)]) ∧
      imageBytes 0 = 0x400000) ∧
    ((withCommand up scaleCmd).Due 0 cmdScaleSet scaleCmd ∧ bits (scaleCmd.w 0x18) 13 0 = 16383 ∧ bits (scaleCmd.w 0x18) 30 16 = 1 ∧
      up.namesEntry 16383 1 = false ∧
      ∃ t bs, ((withCommand up scaleCmd).markStarted 0 1 cmdScaleSet).readDev 0 allowOps 0 192 = (t, .ok bs) ∧
        (imagesValid 16383 (records 192 1 bs) && t.net.channels.isEmpty) = true) ∧
    ((withCommand up counterCmd).Due 0 cmdCounterRead counterCmd ∧ bits (counterCmd.w 0x18) 29 16 = 16383 ∧ bits (counterCmd.w 0x18) 46 32 = 1 ∧
      ∃ t x, ((withCommand up counterCmd).markStarted 0 1 cmdCounterRead).writeDev 0 allowOps 0 Entry.free.image = (t, .ok x)) ∧
    (∀ epoch < 2, (withCommand asNode (groupCmd epoch)).Due 0 cmdGroupSetup (groupCmd epoch) ∧ bits ((groupCmd epoch).w 0x18) 31 0 = 31 ∧
      bits ((groupCmd epoch).w 0x18) 63 32 = epoch ∧ bits ((groupCmd epoch).w 0x20) 17 0 = 1 ∧
      ∃ t bs, ((withCommand asNode (groupCmd epoch)).markStarted 0 1 cmdGroupSetup).readDev 0 allowOps 0 4 = (t, .ok bs) ∧
        ((records 4 1 bs).map leNat = [0] ∧ t.net.nodeId = 0 ∧ t.net.epoch = 0) ∧ t.directorySize 31 (epoch == 0) + 1 ≤ 1048576 ∧ t.net.colls = [] ∧
        t.net.channels = []) ∧
    ((withCommand up (aCommand false [(0, 13), (0x10, 0x10001FFFF)])).Due 0 cmdMirrorSetup (aCommand false [(0, 13), (0x10, 0x10001FFFF)]) ∧
      bits 0x10001FFFF 31 17 = 0 ∧ bit 0x10001FFFF 32 = true) ∧
    ((withCommand up testCmd).Due 0 cmdFieldTest testCmd ∧ bits (testCmd.w 0x10) 15 0 = 1 ∧ lateRun.inTime = false ∧
      (∃ f ∈ lateRun.failed, bit (bits (testCmd.w 0x10) 15 0) f.test.val = true) ∧
      ∃ t x, (((withCommand up testCmd).markStarted 0 1 cmdFieldTest).testEvents []).writeDev 0 allowOps 0 (testRecord 1 [] 5) = (t, .ok x)) := by
  refine ⟨?_, by decide, ⟨due_of _ _ _ rfl rfl (by decide) (by decide +kernel), rfl⟩, ⟨due_of _ _ _ rfl rfl (by decide) (by decide +kernel), rfl⟩,
    ⟨due_of _ _ _ rfl rfl (by decide) (by decide +kernel), by decide +kernel, by decide +kernel, rfl,
      okWith_split _ (fun t bs => imagesValid 16383 (records 192 1 bs) && t.net.channels.isEmpty) (by decide +kernel)⟩,
    ⟨due_of _ _ _ rfl rfl (by decide) (by decide +kernel), by decide +kernel, by decide +kernel, good_split _ (by decide +kernel)⟩, ?_,
    ⟨due_of _ _ _ rfl rfl (by decide) (by decide +kernel), by decide +kernel⟩,
    ⟨due_of _ _ _ rfl rfl (by decide) (by decide +kernel), by decide +kernel, rfl, ⟨_, .head _, by decide +kernel⟩, good_split _ (by decide +kernel)⟩⟩
  · intro x h
    simp only [List.mem_cons, List.not_mem_nil, or_false] at h
    obtain rfl | rfl | rfl | rfl := h <;> exact ⟨due_of _ _ _ rfl rfl (by decide) (by decide +kernel), by decide +kernel⟩
  · intro e he
    obtain rfl | rfl : e = 0 ∨ e = 1 := by omega
    all_goals
      refine ⟨due_of _ _ _ rfl rfl (by decide) (by decide +kernel), by decide +kernel, by decide +kernel, by decide +kernel, ?_⟩
      obtain ⟨t, bs, h, g⟩ := okWith_split _ _ (group_reads _ he)
      exact ⟨t, bs, h, of_decide_eq_true g⟩

/-! A checkpoint's writes fit their slot -/

theorem le_bytes_length : ∀ n x, (leBytes n x).length = n
  | 0, _ => rfl
  | n + 1, x => congrArg (· + 1) (le_bytes_length n (x / 256))

theorem flat_length {α : Type} (f : α → List Byte) (n : Nat) (h : ∀ a, (f a).length = n) : ∀ l : List α, (l.flatMap f).length = l.length * n
  | [] => by simp
  | a :: l => by rw [List.flatMap_cons, List.length_append, h, flat_length f n h l, List.length_cons, Nat.succ_mul, Nat.add_comm]

theorem image_length (e : Entry) : e.image.length = 192 := by
  simp only [Entry.image, List.length_append, le_bytes_length, flat_length _ 2 (fun _ => le_bytes_length 2 _), List.length_range]

theorem book_length (b : SMap Entry) : (bookImage b).length = 16384 * 192 := by
  rw [bookImage, flat_length _ 192 (fun _ => image_length _), List.length_range]

theorem header_length (a b c d : Nat) : (imageHeader a b c d).length ≤ 131072 := by
  simp only [imageHeader, padTo, zeros, List.length_append, List.length_take, List.length_replicate]
  omega

/-- A proved step 5 with an empty kept table, and a target whose ports are port 0. -/
def ckptCmd : FetchedCmd := aCommand false [(0, 6), (0x10, 5)]
def checkpointing : State :=
  { withCommand up ckptCmd with
    proof := { Proof.reset with stepProved := 5, kept := some ⟨0, []⟩ }
    mem := { Memory.reset with ram := (Store.empty 8).write 32 (leBytes 8 (2 ^ 62) ++ leBytes 4 1) }
    net := { Net.reset with qps := [(0, { QP.reset with state := 1 })] } }
def aTarget : Target := ⟨0, 0, 0, 0, 2 ^ 62, [0]⟩

theorem be_bytes_length (n x : Nat) : (beBytes n x).length = n := by rw [beBytes, List.length_reverse, le_bytes_length]

theorem signature_length (body : List Byte) (step : Nat) : (signature body step).length = 512 := by
  rw [signature]
  split
  · exact be_bytes_length _ _
  · rw [zeros, List.length_replicate]

theorem book_bound (s : State) : (s.bookImageOf 5).2.length ≤ 2 ^ 32 := by
  have := header_length 5 s.proof.provedEpoch s.proof.depth 0
  simp only [State.bookImageOf, zeros, List.length_append, List.length_replicate, List.length_map, List.length_range, book_length]
  omega

theorem ckpt_fits (s : State) (image : List Byte) (hi : image.length ≤ 2 ^ 32) :
    ∀ x ∈ s.ckptWrites 5 0 0 0 [] image, x.1 + x.2.length ≤ aTarget.limit / 131072 * 65536 := by
  intro x h
  simp only [State.ckptWrites, State.sheetBody, List.filter_nil, List.map_nil, List.append_nil, List.nil_append, List.cons_append, List.mem_cons,
    List.not_mem_nil, or_false] at h
  obtain rfl | rfl | rfl | rfl := h <;>
    simp only [sheetEntry, signature_length, State.sheetHeader, List.flatMap_cons, List.flatMap_nil, zeros, List.length_append, List.length_replicate, List.length_nil,
      le_bytes_length, be_bytes_length, List.length_take, aTarget] <;> omega

theorem met_LongCommands :
    (checkpointing.Due 0 cmdCheckpoint ckptCmd ∧ ckptCmd.headerBad = false ∧ ckptCmd.restBad 0x20 = false ∧ ckptCmd.w 0x18 = 0 ∧
      checkpointing.stepCode 5 ≠ some 3 ∧ ckptCmd.w 0x10 = checkpointing.proof.stepProved ∧ checkpointing.proof.ckpt = none ∧
      ∃ s1 s3 image w ws, (checkpointing.markStarted 0 1 cmdCheckpoint).readTarget 0 = (s1, some aTarget) ∧ s1.readyQp 0 aTarget = some 0 ∧
        aTarget.ports[0]? = some 0 ∧ (s1.meetCut []).cutRegions 5 [] = .ok [] ∧ (s1.meetCut []).ckptImage 5 0 = (s3, .ok image) ∧
        s3.ckptWrites 5 0 0 0 [] image = w :: ws ∧
        ∀ x ∈ w :: ws, x.1 + x.2.length ≤ aTarget.limit / 131072 * 65536) ∧
    ((withCommand up ckptCmd).Due 0 cmdCheckpoint ckptCmd ∧ ckptCmd.w 0x10 ≠ up.proof.stepProved ∧ up.proof.ckpt = none) ∧
    (((withCommand up (aCommand false [(0, 7)])).ring 0).cmds.find? (fun x => x.typ == cmdEvacuate && !x.started) = some (aCommand false [(0, 7)]) ∧
      (withCommand up (aCommand false [(0, 7)])).commands.any (fun d => d.typ == cmdEvacuate && d.started) = false ∧
      (aCommand false [(0, 7)]).headerBad = false ∧ (aCommand false [(0, 7)]).restBad 0x10 = false) ∧
    ((withCommand up (aCommand false [(0, 8)])).Due 0 cmdHandover (aCommand false [(0, 8)]) ∧ (aCommand false [(0, 8)]).restBad 0x10 = false ∧
      up.life.failedLinks = [] ∧ ({ serverTripped := true, ns := 0, keysZero := true } : HandoverRun).keysZero = true) := by
  refine ⟨⟨⟨rfl, by decide +kernel, by decide +kernel, by decide, by decide +kernel⟩, by decide +kernel, by decide +kernel, by decide +kernel, by decide +kernel,
    by decide +kernel, rfl, _, _, _, _, _, Prod.ext rfl (by decide +kernel), by decide +kernel, rfl, rfl, rfl, rfl, ?_⟩,
    ⟨due_of _ _ _ rfl rfl (by decide) (by decide +kernel), by decide +kernel⟩, by decide +kernel,
    ⟨due_of _ _ _ rfl rfl (by decide) (by decide +kernel), by decide +kernel⟩⟩
  exact ckpt_fits _ _ (book_bound _)


/-! ### The fabric -/

/-- A header from member 1 to member 0, one block of payload. -/
def hdr (typ addr : Nat) : List Byte := leBytes 1 typ ++ leBytes 1 1 ++ leBytes 3 0 ++ leBytes 3 0xFFFFFF ++ leBytes 6 addr ++ leBytes 2 0
def aFrame : YeFrame := { seq := 7, typ := 1, addr := 0, len := 64, tag := 0, payload := zeros 64, op := some 9 }
def aRead : YeRead := { member := 1, tag := 0, op := 9, dst := 0, virt := true, len := 64 }
/-- The pair to member 1 in some state, with the frames kept and the reads outstanding. -/
def trayWith (os : List Op) (state : Nat) (kept : List YeFrame) (reads : List YeRead) : State :=
  let s := inTray os state
  { s with net := { s.net with channels := [(1, { Channel.reset with unacked := kept, lost := true })], reads := reads } }
def trayUp (reads : List YeRead) : State := trayWith [issuedOp moveOp] portUp [] reads

/-- The module once the frame's ACK_SEQ is taken, and as the frame's effect finds it. -/
def turnAck (reads : List YeRead) (typ addr : Nat) : State := (trayUp reads).takeAck 1 (hdrAck (hdr typ addr))
def turnAt (reads : List YeRead) (typ addr : Nat) (payload : List Byte) : State × Bool :=
  ((turnAck reads typ addr).turned 1 (hdr typ addr) payload).meetHidden 9 (hdrSeq (hdr typ addr))

theorem not_of {α : Type} (x : α × Bool) (h : x.2 = false) : x = (x.1, false) := Prod.ext rfl h

theorem turn_of (reads : List YeRead) (typ addr : Nat) (payload : List Byte) (hf : (trayUp reads).frameOk 1 typ (hdr typ addr) payload = true)
    (hn : hdrSeq (hdr typ addr) = (((turnAck reads typ addr).channel 1).applied + 1) % 2 ^ 24)
    (he : ((turnAck reads typ addr).channel 1).early = []) (hm : (turnAt reads typ addr payload).2 = false) :
    (trayUp reads).Turn 0 typ (hdr typ addr) payload 1 (turnAck reads typ addr) (turnAt reads typ addr payload).1 :=
  { ready := rfl, tray := by decide, role := rfl, up := rfl, member := rfl, frame := hf, acked := by rw [turnAck], next := hn, alone := he
    clean := by
      have hc := not_of _ hm
      rw [turnAt] at hc
      rw [hc, turnAt] }

def twoReads : List YeRead := [aRead, { aRead with tag := 1 }]
def readsBack : State :=
  let y := (turnAt twoReads 3 0 (zeros 64)).1
  { y with net := { y.net with reads := y.net.reads.erase aRead } }

/-- Each frame that may be applied: a WRITE in range and one out of it, a READ_REQ, a READ_RESP with another to come, a SEM_ADD. -/
theorem met_TrayFrames_turns : (trayUp []).Turn 0 1 (hdr 1 0) (zeros 64) 1 (turnAck [] 1 0) (turnAt [] 1 0 (zeros 64)).1 ∧
    (trayUp []).Turn 0 1 (hdr 1 (2 ^ 47)) (zeros 64) 1 (turnAck [] 1 (2 ^ 47)) (turnAt [] 1 (2 ^ 47) (zeros 64)).1 ∧
    (trayUp []).Turn 0 2 (hdr 2 0) [] 1 (turnAck [] 2 0) (turnAt [] 2 0 []).1 ∧
    (trayUp twoReads).Turn 0 3 (hdr 3 0) (zeros 64) 1 (turnAck twoReads 3 0) (turnAt twoReads 3 0 (zeros 64)).1 ∧
    (trayUp []).Turn 0 6 (hdr 6 65535) [1, 0, 0, 0] 1 (turnAck [] 6 65535) (turnAt [] 6 65535 [1, 0, 0, 0]).1 := by
  refine ⟨turn_of _ _ _ _ ?_ ?_ ?_ ?_, turn_of _ _ _ _ ?_ ?_ ?_ ?_, turn_of _ _ _ _ ?_ ?_ ?_ ?_, turn_of _ _ _ _ ?_ ?_ ?_ ?_, turn_of _ _ _ _ ?_ ?_ ?_ ?_⟩ <;>
    decide +kernel

theorem met_TrayFrames_effects :
    ((turnAt [] 1 0 (zeros 64)).1.peerRange (hdrAddr (hdr 1 0)) (hdrLen (hdr 1 0)) = .ok 0 ∧
      (turnAt [] 1 0 (zeros 64)).1.refusesWrite 0 (hdrLen (hdr 1 0)) = false) ∧
    (turnAt [] 1 (2 ^ 47) (zeros 64)).1.peerRange (hdrAddr (hdr 1 (2 ^ 47))) (hdrLen (hdr 1 (2 ^ 47))) = .error (2 ^ 47) ∧
    (turnAt [] 1 (2 ^ 47) (zeros 64)).1.upPair 1 ≠ [] ∧
    (∃ t bs, (turnAt [] 2 0 []).1.readAt .hbm 0 (hdrLen (hdr 2 0)) = (t, .ok bs) ∧
      decide (t.net.channels = (turnAt [] 2 0 []).1.net.channels) = true) ∧
    (turnAt [] 2 0 []).1.peerRange (hdrAddr (hdr 2 0)) (hdrLen (hdr 2 0)) = .ok 0 ∧
    ((turnAt twoReads 3 0 (zeros 64)).1.net.reads.find? (fun (z : YeRead) => z.member == 1 && z.tag == hdrTag (hdr 3 0)) = some aRead ∧
      (turnAt twoReads 3 0 (zeros 64)).1.net.pulls = [] ∧ (turnAt twoReads 3 0 (zeros 64)).1.op 9 = some (issuedOp moveOp) ∧
      readsBack.net.reads.any (fun (z : YeRead) => z.op == 9) = true) ∧
    (∃ t x, (readsBack.acting 9).writeSide 0 true 0 ((zeros 64).take 64) = (t, .ok x) ∧
      decide (t.net = readsBack.net ∧ t.seq = (turnAt twoReads 3 0 (zeros 64)).1.seq) = true) ∧
    (turnAt [] 6 65535 [1, 0, 0, 0]).1.Unwatched :=
  ⟨by decide +kernel, by decide +kernel, by decide +kernel, okWith_split _ _ (by decide +kernel), by decide +kernel, by decide +kernel,
    okWith_split _ _ (by decide +kernel), unwatched (by decide +kernel)⟩

theorem met_TrayFrames :
    (((trayUp []).port 6).role ≠ 1 ∧ ((trayWith [] portDead [] []).port 0).state ≠ portUp) ∧
    ((trayWith [] portUp [] []).Controlled 0 4 (hdr 4 0) [] 1 ∧ (trayWith [] portUp [] []).Controlled 0 5 (hdr 5 0) [] 1 ∧
      (trayWith [] portUp [] []).NoneSettles 1 ∧ nakStatus (field [(5 : Byte), 7, 0, 0] 0 1) = false) ∧
    ((trayWith [issuedOp moveOp] portUp [aFrame] []).Controlled 0 5 (hdr 5 0) [0x21, 7, 0, 0] 1 ∧
      ((trayWith [issuedOp moveOp] portUp [aFrame] []).channel 1).unacked = [aFrame] ∧ nakStatus (field [(0x21 : Byte), 7, 0, 0] 0 1) = true ∧
      aFrame.seq = field [(0x21 : Byte), 7, 0, 0] 1 3 ∧ (trayWith [issuedOp moveOp] portUp [aFrame] []).seq.window = [issuedOp moveOp] ∧
      ∀ c ∈ (trayWith [issuedOp moveOp] portUp [aFrame] []).commands, c.due = none) ∧
    ((trayUp []).upPair 1 ≠ [] ∧ (trayWith [issuedOp moveOp] portDown [aFrame] []).upPair 1 = [] ∧
      (trayWith [issuedOp moveOp] portDown [aFrame] []).pairDead 1 = false ∧ (trayWith [issuedOp moveOp] portDown [aFrame] []).commands = [] ∧
      (trayWith [issuedOp moveOp] portDown [aFrame] []).needsPeer 1 9 = true ∧
      ((inTray [issuedOp moveOp] portDown).channel 1).lost = false ∧ (trayWith [] portDead [] []).pairDead 1 = true) :=
  ⟨by decide +kernel, ⟨⟨rfl, by decide, rfl, rfl, rfl, by decide +kernel⟩, ⟨rfl, by decide, rfl, rfl, rfl, by decide +kernel⟩,
      ⟨by decide +kernel, by decide +kernel, by decide +kernel⟩, by decide⟩,
    ⟨⟨rfl, by decide, rfl, rfl, rfl, by decide +kernel⟩, by decide +kernel⟩, by decide +kernel⟩

/-- A header from node 3 to node 0. -/
def nptFrom (coll epoch contributor : Nat) : NptHeader :=
  { srcNode := 3, dstNode := 0, collId := BitVec.ofNat 32 coll, epoch := BitVec.ofNat 32 epoch, chunkIndex := 0, contributor := BitVec.ofNat 32 contributor
    length := 2, ceCount := 1 }
def aChunk : OutChunk :=
  { id := 4, node := 3, kind := 1, h := nptFrom 7 1 16, bytes := [1, 2], op := none, gone := true, waits := false, busy := false, failed := false
    tries := 1, ports := [6] }
/-- Node 0, with port 6 up, its switch known, in layout epoch 1. -/
def onNet (f : Net → Net) : State :=
  { up with net := f { Net.reset with nodeValid := true, epoch := 1, ports := [(6, { Port.reset with state := portUp })]
                                      topo := [(6, { TopoEntry.unused with kind := 2 })] } }
def quiet : State := onNet id
def sending : State := onNet (fun n => { n with out := [aChunk], sessions := [(3, { Session.none with isOpen := true })] })
def merging : CollRun :=
  { CollRun.start 9 (collDesc (collOp 0 1 16)) ⟨1, List.range 17⟩ 0 4096 with rx := [{ phase := 0, rank := 16, index := 0, scale := 0, bytes := [1, 2] }] }
def inColl : State :=
  let s := onNet (fun n => { n with colls := [merging] })
  { s with seq := { Seq.reset with programs := [aProgram], window := [issuedOp (collOp 0 1 16)] } }
/-- What node 3 says of itself. -/
def labelOf3 : List Byte := (onNet (fun n => { n with nodeId := 3 })).label 0xFF false

def fromNode (h : NptHeader) : Packet := ⟨arrival, h⟩
/-- A COLL that widens what it hears, and the chunk it expects: its one element, from rank 16. -/
def wideRun : CollRun := CollRun.start 9 { collDesc wideOp with peer := 16, collId := 7 } ⟨1, List.range 17⟩ 0 4096
def wideChunk : NptHeader := { nptFrom 7 1 16 with srcNode := 16, length := 1 }
def wideColl : State :=
  let s := onNet (fun n => { n with colls := [wideRun] })
  { s with seq := { Seq.reset with programs := [aProgram], window := [issuedOp wideOp] } }

theorem hears (s : State) (h : NptHeader) (hr : s.isReady = true) (h6 : (s.port 6).role = 0 ∧ (s.port 6).state = portUp)
    (ho : s.forUs h = true) : s.Hears arrival h := ⟨hr, h6.1, h6.2, by decide, by decide, ho⟩

theorem met_Unheard : (up.port 6).state ≠ portUp ∧ ((quiet.port 6).role = 0 ∧ (quiet.port 6).state = portUp) ∧
    ({ arrival with tagged := true }.tagged = true ∧ 9216 < { arrival with size := 9217 }.size) ∧
    ({ arrival with intact := false }.intact = false ∧ { arrival with reserved := true }.reserved = true ∧
      quiet.forUs { nptFrom 7 1 16 with dstNode := 4 } = false) ∧
    quiet.Hears arrival { nptFrom 7 1 16 with chunkIndex := 2 ^ 30 } ∧
    collReservedBits { nptFrom 7 1 16 with chunkIndex := 2 ^ 30 } = true ∧ quiet.net.out = [] :=
  ⟨by decide, by decide, by decide, by decide, hears _ _ rfl (by decide) (by decide), by decide, rfl⟩

theorem met_EarlyChunks :
    (∀ e < 2, quiet.HearsChunk arrival (nptFrom 7 e 16)) ∧ quiet.collWith (nptFrom 7 1 16).collId = none ∧
    quiet.closedStatus (nptFrom 7 1 16) = none ∧ quiet.net.epoch ≤ (nptFrom 7 1 16).epoch.toNat ∧ quiet.net.early = [] ∧
    quiet.earlyRoom [1, 2].length = true ∧ quiet.earlyRoom (zeros (2 ^ 25 + 1)).length = false ∧ quiet.usable 3 ≠ [] ∧
    (quiet.closedStatus (nptFrom 7 0 16) = none ∧ (nptFrom 7 0 16).epoch.toNat < quiet.net.epoch) ∧
    ((onNet (fun n => { n with closed := [(7, 1, 0, none)] })).HearsChunk arrival (nptFrom 7 1 16) ∧
      (onNet (fun n => { n with closed := [(7, 1, 0, none)] })).closedStatus (nptFrom 7 1 16) = some 0) := by
  refine ⟨?_, by decide, by decide, by decide, rfl, by decide, ?_, by decide +kernel, by decide, ⟨hears _ _ rfl (by decide) (by decide), by decide⟩, by decide⟩
  · intro e he
    obtain rfl | rfl : e = 0 ∨ e = 1 := by omega
    all_goals exact ⟨hears _ _ rfl (by decide) (by decide), by decide⟩
  · simp only [State.earlyRoom, zeros, List.length_replicate]
    decide

theorem met_ChunksMerge :
    (inColl.ForColl arrival (nptFrom 7 1 16) merging (issuedOp (collOp 0 1 16)) aProgram ∧ (nptFrom 7 1 16).epoch.toNat = merging.g.epoch ∧
      merging.expects (nptFrom 7 1 16) [1, 2] = true ∧ merging.holds (nptFrom 7 1 16) = true) ∧
    (wideColl.ForColl arrival wideChunk wideRun (issuedOp wideOp) aProgram ∧ wideRun.expects wideChunk [1] = true ∧ wideRun.holds wideChunk = false ∧
      ((((wideColl.received arrival).acting 9).nptAnswer 2 wideChunk 0 []).meetHidden 9 wideChunk.chunkIndex.toNat).2 = false ∧
      wideRun.vote (chunkPhase wideChunk) .agree = .agree ∧ wideRun.vote (chunkPhase wideChunk) (.masked .c0 1) = .masked .c0 1 ∧
      wideRun.vote (chunkPhase wideChunk) .mismatch = .mismatch ∧ (issuedOp wideOp).resultAddr = 0) ∧
    (inColl.ForColl arrival (nptFrom 7 2 16) merging (issuedOp (collOp 0 1 16)) aProgram ∧ (nptFrom 7 2 16).epoch.toNat ≠ merging.g.epoch) ∧
    merging.expects (nptFrom 7 1 16) [1] = false ∧ inColl.usable 3 ≠ [] :=
  ⟨⟨⟨⟨hears _ _ rfl (by decide) (by decide), by decide⟩, by decide +kernel, rfl, rfl⟩, by decide +kernel⟩,
    ⟨⟨⟨hears _ _ rfl (by decide) (by decide), by decide⟩, by decide +kernel, rfl, rfl⟩, by decide +kernel⟩,
    ⟨⟨⟨hears _ _ rfl (by decide) (by decide), by decide⟩, by decide +kernel, rfl, rfl⟩, by decide +kernel⟩, by decide +kernel, by decide +kernel⟩

theorem met_ChunksAnswered :
    (sending.Hears arrival (nptFrom 7 1 16) ∧ sending.named (nptFrom 7 1 16) = some aChunk ∧ collReservedBits (nptFrom 7 1 16) = false ∧
      (nptFrom 7 1 16).ceCount ≠ 0 ∧ { nptFrom 7 1 16 with ceCount := 0 }.ceCount = 0 ∧ (sending.session 3).lastCut = none ∧
      ((onNet (fun n => { n with sessions := [(3, { Session.none with lastCut := some 0 })] })).session 3).lastCut = some 0 ∧ sending.usable 3 ≠ []) ∧
    (∀ code, ([] : List (BitVec 16)) ≠ [0xFFFF, code]) ∧
    (quiet.HearsChunk arrival (nptFrom 7 1 16) ∧ endingStatus (0x20 : BitVec 16).toNat = true ∧ quiet.net.colls = [] ∧
      quiet.closedStatus (nptFrom 7 1 16) = none) ∧
    (inColl.HearsChunk arrival (nptFrom 7 1 16) ∧
      inColl.net.colls.find? (fun x => x.d.collId == (nptFrom 7 1 16).collId && x.g.epoch == (nptFrom 7 1 16).epoch.toNat) = some merging ∧
      inColl.op 9 = some (issuedOp (collOp 0 1 16)) ∧ (issuedOp (collOp 0 1 16)).resultAddr = 0) ∧
    ((0x1234 : BitVec 16) ≠ 0 ∧ endingStatus (0x1234 : BitVec 16).toNat = false) ∧
    (sending.net.out.find? (fun y => y.id == 4) = some aChunk ∧ aChunk.gone = true ∧ sending.sessionOpen 3 = true ∧
      sending.net.out.find? (fun y => y.id == 5) = none) ∧
    ((sending.session 3).isOpen = true ∧ (quiet.session 3).isOpen = false) :=
  ⟨⟨hears _ _ rfl (by decide) (by decide), by decide +kernel⟩, fun _ => by simp, ⟨⟨hears _ _ rfl (by decide) (by decide), by decide⟩, by decide⟩,
    ⟨⟨hears _ _ rfl (by decide) (by decide), by decide⟩, by decide +kernel⟩, by decide, by decide +kernel, by decide +kernel⟩

theorem met_SessionsMeet : quiet.Hears arrival (nptFrom 0 0 0) ∧ opensSession (chunkSender (nptFrom 0 0 0)) labelOf3 = true ∧ labelNumerics labelOf3 = 1 ∧
    quiet.net.out = [] ∧ quiet.usable 3 ≠ [] ∧ opensSession (chunkSender (nptFrom 0 0 0)) (zeros 27) = false ∧ quiet.net.colls = [] ∧
    quiet.proof.restore = none ∧ (quiet.session 3).dead = false :=
  ⟨hears _ _ rfl (by decide) (by decide), by decide +kernel, by decide +kernel, rfl, by decide +kernel, by decide +kernel, rfl, rfl, by decide +kernel⟩

/-- A store kept for node 3, with a staged and a committed cut. -/
def storing (staged : List Cut) (committed : Option Cut) : State :=
  { up with proof := { Proof.reset with store := ⟨0, 50, 3, true, staged, committed⟩ } }
def aCut : Cut := { step := 5, pages := [(0, 0, [1])], image := some [2], whole := false }
def restoring : State := { up with proof := { Proof.reset with restore := some (3, 0, 1), partner := some 3 } }
/-- Step 7 of rank 0 of three. -/
def inProofGroup (r : StepRec) : State :=
  let s := onNet (fun n => { n with active := [(0, some ⟨0, [0, 1, 2]⟩)] })
  { s with proof := { Proof.reset with steps := [r], stepNow := 7, stepProved := 6 } }
def closed7 : StepRec := { aStep 7 .latent with closed := true, group := some ⟨0, [0, 1, 2]⟩ }

/-- Steps of which number 6 waits only for its mirror; nothing is left to stop. -/
def mirrored : StepRec := { aStep 6 .latent with closed := true, mirrorTo := some 3 }
def proving (r : StepRec) : State := onNet (fun n => n) |> fun s => { s with proof := { Proof.reset with steps := [r], stepNow := 7, stepProved := 5, partner := some 3 } }
/-- A message's header, from node 3; and the verdict of rank 1, on step 7. -/
def message : NptHeader := { nptFrom 1 0 1 with collId := 1 }
theorem hears_mirror (s : State) (h : s.Hears arrival message) : s.HearsMirror arrival message ((s.received arrival).nptAnswer 2 message 0 []) := ⟨h, rfl⟩
/-- On the net, with the proof's state of another. -/
def netProof (x : State) : State := { quiet with proof := x.proof }

theorem met_MirrorsServe :
    (∀ x ∈ [up, storing [] none, storing [aCut] none, restoring, storing [] (some aCut)], (netProof x).Hears arrival message) ∧
    ((netProof up).proof.restore = none ∧ (netProof up).proof.repair = none ∧ (netProof up).storeFor 3 = false ∧
      chunkSender message = 3 ∧ (netProof up).proof.partner ≠ some 3 ∧ (netProof up).step_ 5 = none) ∧
    ((netProof (storing [] none)).storeFor 3 = true ∧ 50 ≤ (netProof (storing [] none)).proof.store.pages) ∧
    { (storing [] none).proof.store with pages := 49 }.pages < 50 ∧
    ((netProof (storing [aCut] none)).storeFor 3 = true ∧ aCut.step = 5 ∧
      aCut.pages.length + 48 + ceilDiv aCut.pages.length 8192 ≤ (netProof (storing [aCut] none)).proof.store.pages) ∧
    ((netProof restoring).proof.restore = some (chunkSender message, 0, 1) ∧ (netProof restoring).proof.partner = some (chunkSender message)) ∧
    ((netProof (storing [] (some aCut))).storeFor 3 = true ∧ (netProof (storing [] (some aCut))).proof.store.committed = some aCut) ∧
    ((proving mirrored).Hears arrival message ∧ (proving mirrored).proof.partner = some 3 ∧ 6 = ((proving mirrored).proof.stepProved + 1) % 2 ^ 64 ∧
      mirrored.combined = 0 ∧ mirrored.sentUp = false ∧ mirrored.outcome = none ∧ mirrored.group = none ∧ mirrored.st = .latent ∧
      (proving mirrored).proof.boundary = none) ∧
    ((proving mirrored).proof.restore = none ∧ (proving mirrored).proof.repair = none ∧ (proving mirrored).Idle ∧
      (proving mirrored).step_ 6 = some mirrored ∧ mirrored.mirrorAcked = false ∧ mirrored.st ≠ .failed) := by
  refine ⟨?_, by decide +kernel, by decide, by decide, by decide, by decide, by decide,
    ⟨hears _ _ rfl (by decide) (by decide), by decide⟩, rfl, rfl, ⟨rfl, rfl, rfl⟩, by decide⟩
  intro x hx
  simp only [List.mem_cons, List.not_mem_nil, or_false] at hx
  obtain rfl | rfl | rfl | rfl | rfl := hx <;> exact hears _ _ rfl (by decide) (by decide)

theorem met_VerdictsHeard :
    ((inProofGroup (aStep 7 .isOpen)).Hears arrival message ∧ message.collId.toNat = 1 ∧
      (inProofGroup (aStep 7 .isOpen)).step_ (field (leBytes 8 7 ++ zeros 8) 0 8) = some (aStep 7 .isOpen) ∧ (aStep 7 .isOpen).closed = false ∧
      message.epoch.toNat = (aStep 7 .isOpen).epoch ∧ 1 = message.contributor.toNat ∧ field (leBytes 8 7 ++ zeros 8) 8 1 = 0 ∧
      field (leBytes 8 7 ++ leBytes 8 1) 8 1 ≠ 0 ∧ (inProofGroup (aStep 7 .isOpen)).Idle ∧
      1 ∈ (inProofGroup (aStep 7 .isOpen)).verdictChildren
        { aStep 7 .isOpen with group := (inProofGroup (aStep 7 .isOpen)).groupActive (inProofGroup (aStep 7 .isOpen)).proof.group } ∧
      1 ∉ (aStep 7 .isOpen).heard) ∧
    ((inProofGroup (aStep 7 .isOpen)).step_ (field (leBytes 8 8) 0 8) = none ∧ (inProofGroup (aStep 7 .isOpen)).proof.stepNow < field (leBytes 8 8) 0 8 ∧
      (inProofGroup (aStep 7 .isOpen)).proof.stepProved < field (leBytes 8 8) 0 8) ∧
    ((inProofGroup closed7).step_ 7 = some closed7 ∧ (inProofGroup closed7).verdictWaits closed7 1 = true ∧ closed7.st ≠ .failed ∧
      (inProofGroup closed7).Idle ∧ (inProofGroup closed7).step_ 6 = none) :=
  ⟨⟨hears _ _ rfl (by decide) (by decide), rfl, by decide +kernel, rfl, rfl, rfl, by decide +kernel, by decide +kernel, ⟨rfl, rfl, rfl⟩, by decide +kernel, by decide⟩,
    by decide +kernel, by decide +kernel, by decide +kernel, by decide, ⟨rfl, rfl, rfl⟩, by decide +kernel⟩

/-- Targets of zeros but the first, contexts of zeros but the first. -/
def qps (k : Nat) (q : QP) (run : Option CkptRun) : State :=
  { up with net := { Net.reset with qps := [(k, q)], rdmaTargets := 0, qpBaseReg := 0x10000 }
            proof := { Proof.reset with ckpt := run }
            mem := { Memory.reset with ram := ((Store.empty 8).write 32 (leBytes 8 (2 ^ 62) ++ leBytes 4 1)).write 0x1000C [1, 0, 0, 1] } }
/-- One write of two bytes, or of two packets, outstanding; and a checkpoint that waits for the pair. -/
def waitingQp (retries : Nat) : QP := { QP.reset with state := 1, unacked := [(9, 64, [1, 2])], retries := retries }
def twoPackets : QP := { QP.reset with state := 1, unacked := [(9, 64, zeros 4097)] }
def ckptRun (writes : List (Nat × List Byte)) : CkptRun :=
  { ring := 0, cmd := 1, target := 255, qp := 3, step := 5, mode := 0, slot := 0, writes := writes, done := 0 }

theorem met_QueuePairsLoad :
    (∃ t u bs, (qps 0 QP.reset none).readTarget 0 = (t, some aTarget) ∧ t.readPhys allowHbm (t.contextAddr (qpKey 0 0)) 64 = (u, .ok bs) ∧
      (contextBad bs = false ∧ u.net.qpBaseReg.toNat % 65536 = 0 ∧ u.qp (qpKey 0 0) = QP.reset ∧ 0 < aTarget.ports.length)) ∧
    (∃ t u bs, (qps 0 { QP.reset with inUse := true } none).readTarget 0 = (t, some aTarget) ∧
      t.readPhys allowHbm (t.contextAddr (qpKey 0 0)) 64 = (u, .ok bs) ∧ (contextBad bs = false ∧ (u.qp (qpKey 0 0)).inUse = true)) ∧
    (∃ t u bs, checkpointing.readTarget 0 = (t, some aTarget) ∧ t.readPhys allowHbm (t.contextAddr (qpKey 0 0)) 64 = (u, .ok bs) ∧ contextBad bs = true) ∧
    aTarget.ports.length ≤ (1 : BitVec 2).toNat ∧
    (∃ t, { up with net := { Net.reset with rdmaTargets := 1 } }.readTarget 255 = (t, none)) ∧
    ((qps 1023 { QP.reset with inUse := true } none).qp (qpKey (255 : BitVec 8).toNat (3 : BitVec 2).toNat)).inUse = true ∧
    (up.qp (qpKey 255 3)).inUse = false := by
  refine ⟨?_, ?_, ?_, by decide, ⟨_, Prod.ext rfl (by decide +kernel)⟩, by decide +kernel, by decide +kernel⟩
  · obtain ⟨u, bs, h, g⟩ := okWith_split (((qps 0 QP.reset none).readTarget 0).1.readPhys allowHbm
      (((qps 0 QP.reset none).readTarget 0).1.contextAddr (qpKey 0 0)) 64)
      (fun u bs => decide (contextBad bs = false ∧ u.net.qpBaseReg.toNat % 65536 = 0 ∧ u.qp (qpKey 0 0) = QP.reset ∧ 0 < aTarget.ports.length))
      (by decide +kernel)
    exact ⟨_, u, bs, Prod.ext rfl (by decide +kernel), h, of_decide_eq_true g⟩
  · obtain ⟨u, bs, h, g⟩ := okWith_split (((qps 0 { QP.reset with inUse := true } none).readTarget 0).1.readPhys allowHbm
      (((qps 0 { QP.reset with inUse := true } none).readTarget 0).1.contextAddr (qpKey 0 0)) 64)
      (fun u bs => decide (contextBad bs = false ∧ (u.qp (qpKey 0 0)).inUse = true)) (by decide +kernel)
    exact ⟨_, u, bs, Prod.ext rfl (by decide +kernel), h, of_decide_eq_true g⟩
  · obtain ⟨u, bs, h, g⟩ := okWith_split ((checkpointing.readTarget 0).1.readPhys allowHbm ((checkpointing.readTarget 0).1.contextAddr (qpKey 0 0)) 64)
      (fun _ bs => contextBad bs) (by decide +kernel)
    exact ⟨_, u, bs, Prod.ext rfl (by decide +kernel), h, g⟩

theorem met_QueuePairsWork :
    ((up.qp (qpKey 255 3)).unacked = [] ∧ (up.qp (qpKey 255 3)).state ≠ 1) ∧
    ((qps 1023 (waitingQp 6) (some (ckptRun [(64, [1, 2]), (128, [3])]))).qp (qpKey (255 : BitVec 8).toNat (3 : BitVec 2).toNat) = waitingQp 6 ∧
      (waitingQp 6).unacked = [((9 : BitVec 24).toNat, 64, [1, 2])] ∧ (waitingQp 6).state = 1 ∧ (waitingQp 6).retries < 7 ∧
      (waitingQp 6).lastCut = none ∧
      (qps 1023 (waitingQp 6) (some (ckptRun [(64, [1, 2]), (128, [3])]))).proof.ckpt = some (ckptRun [(64, [1, 2]), (128, [3])]) ∧
      (qps 1023 (waitingQp 6) (some (ckptRun [(64, [1, 2])]))).proof.ckpt = some (ckptRun [(64, [1, 2])]) ∧ (ckptRun []).target = (255 : BitVec 8).toNat ∧
      (ckptRun []).qp = (3 : BitVec 2).toNat) ∧
    (acked24 (8 : BitVec 24).toNat 9 = false ∧ ((8 : BitVec 24).toNat + packetCount 4097 + 2 ^ 24 - 9) % 2 ^ 24 = 1 ∧ 1 < packetCount 4097) ∧
    (twoPackets.unacked = [(9, 64, zeros 4097)] ∧ (zeros 4097).length = 4097) ∧
    ((∃ c, { waitingQp 6 with lastCut := some 0 }.lastCut = some c ∧ up.clock.time < c + 20000)) ∧
    (7 ≤ (waitingQp 7).retries ∧ (waitingQp 7).unacked ≠ [] ∧ (qps 1023 (waitingQp 7) none).proof.ckpt = none ∧
      (qps 1023 (waitingQp 7) (some (ckptRun []))).proof.ckpt = some (ckptRun [])) :=
  ⟨by decide +kernel, by decide +kernel, by decide, ⟨rfl, by rw [zeros, List.length_replicate]⟩, ⟨0, rfl, by decide⟩, by decide +kernel⟩

/-! ### Translation, latches and held requests -/

theorem met_TranslationFaults : up.Sound ∧ 2 ^ 48 - 1 < 2 ^ 48 ∧ (∀ e ∈ up.mem.tlb, e.1 ≠ ((1 : Word).toNat, (2 ^ 48 - 1) / 0x10000)) ∧
    up.walkMeets 1 (2 ^ 48 - 1) (entryFaults false) ∧ up.walkMeets 1 (2 ^ 48 - 1) (entryFaults true) :=
  ⟨⟨rfl, rfl⟩, by decide, by decide, ⟨by decide, by decide +kernel, .inl (.inl (by decide +kernel))⟩, ⟨by decide, by decide +kernel, .inl (.inl (by decide +kernel))⟩⟩

theorem met_ProgramsLatchRootAndSeed : up.isReady = true ∧
    (withCommand up (aCommand false [(0, 1), (0x10, 2 ^ 63)])).Due 0 cmdOpProgram (aCommand false [(0, 1), (0x10, 2 ^ 63)]) ∧
    (withCommand up (aCommand false [(0, 8)])).Due 0 cmdHandover (aCommand false [(0, 8)]) :=
  ⟨rfl, due_of _ _ _ rfl rfl (by decide) (by decide +kernel), due_of _ _ _ rfl rfl (by decide) (by decide +kernel)⟩

/-- In D3hot, with a command that has completed. -/
def asleep : State := { withCommand up (aCommand true [(0, 9)]) with pcie := { up.pcie with d3hot := true } }

theorem met_HeldInD3hot : asleep.isReady = true ∧ asleep.pcie.d3hot = true ∧ (asleep.ring 0).cmd 1 = some (aCommand true [(0, 9)]) ∧
    (asleep.complete 0 1 0 false 0).functionRuns = true ∧ asleep.pcie.linkUp = true ∧ asleep.pcie.cfgReady = true ∧ asleep.pcie.loopActive = false ∧
    asleep.pcie.follower = false ∧ (asleep.complete 0 1 0 false 0).host.held ≠ [] := by decide +kernel

end Sys2Proof.Tests
end

/-! ## REGISTER_WRITE

A register write is decoded once into its block and its offset there. At READY the blocks without a command of their own are
gathered in `writeBlock`; the mailbox and the MSI-X table, which take writes from power on, have a rule each. -/

namespace Sys2Proof.Proofs

open Sys2Proof Sys2Proof.Machine Sys2Proof.Laws

/-! ### Where a write goes -/

/-- R185, R404: the write at offset `o` of a block that answers at READY only. -/
def writeBlock (b o : Nat) (a : RegAccess) (s : State) : State :=
  match b with
  | 1 => s.writeRings o a
  | 2 => if o = 0 then
      let v := accessValue a s.mem.ptRoot.toNat
      { s with mem := { s.mem with ptRoot := BitVec.ofNat 64 (bits v 0 0 + at_ (bits v 47 17) 17) } }
    else s
  | 3 => s.writePlate o a
  | 4 => s.writeNumerics o a
  | 5 => s.writeNet o a
  | 6 => s.writeProof o a
  | 7 => s.writePower o a
  | 0x0A => if o = 0x420 then { s with life := { s.life with extended := bit (accessValue a (bitOf s.life.extended)) 0 } } else s
  | _ => s

theorem powered_of_isReady {s : State} (hr : s.isReady = true) : s.powered = true := by
  have hp : s.life.phase = .ready := by simpa [State.isReady] using hr
  simp [State.powered, hp]

/-- Gyton's resources lie past every block of BAR0 and outside the MSI-X table (R370, R371). -/
theorem gytonOwned_eq_false {off : Nat} (h : off / 0x10000 < 16 ∨ off / 0x10000 = 0xF0) : gytonOwned off = false := by
  rcases h with h | h
  · simp [gytonOwned, Nat.not_le.mpr h]
  · simp [gytonOwned, h]

theorem registerWrite_misaligned (s : State) (a : RegAccess) {off : Nat} (h : off % 8 ≠ 0) : registerWrite off a s = s :=
  if_pos h

/-- R371: the write is refused by the firewall and told. -/
theorem registerWrite_firewall {s : State} {off : Nat} (a : RegAccess) (h8 : off % 8 = 0) (hf : s.fw.firewall = true)
    (hg : gytonOwned off = true) : registerWrite off a s = s.firewallEvent 10 off := by
  simp [registerWrite, h8, hf, hg]

theorem registerWrite_mailbox (s : State) (a : RegAccess) {o : Nat} (ho : o < 0x10000) (h8 : o % 8 = 0) :
    registerWrite (0x80000 + o) a s = s.writeMailbox o a := by
  have hb : (0x80000 + o) / 0x10000 = 8 := by omega
  have hm : (0x80000 + o) % 0x10000 = o := by omega
  have ha : (0x80000 + o) % 8 = 0 := by omega
  have hg : gytonOwned (0x80000 + o) = false := gytonOwned_eq_false (.inl (by omega))
  simp [registerWrite, hg, hb, hm, ha]

theorem registerWrite_msix (s : State) (a : RegAccess) {o : Nat} (ho : o < 0x10000) (h8 : o % 8 = 0) :
    registerWrite (0xF00000 + o) a s = s.writeMsix o a := by
  have hb : (0xF00000 + o) / 0x10000 = 0xF0 := by omega
  have hm : (0xF00000 + o) % 0x10000 = o := by omega
  have ha : (0xF00000 + o) % 8 = 0 := by omega
  have hg : gytonOwned (0xF00000 + o) = false := gytonOwned_eq_false (.inr hb)
  simp [registerWrite, hg, hb, hm, ha]

/-- R404: before READY the other blocks take no writes. -/
theorem registerWrite_notReady {s : State} {off : Nat} (a : RegAccess) (hr : s.isReady = false) (hm : off / 0x10000 ≠ 8)
    (hx : off / 0x10000 ≠ 0xF0) (hg : gytonOwned off = false) : registerWrite off a s = s := by
  simp [registerWrite, hr, hm, hx, hg]

theorem registerWrite_block {s : State} (a : RegAccess) (hr : s.isReady = true) {b o : Nat} (hb : b < 16) (hm : b ≠ 8)
    (ho : o < 0x10000) (h8 : o % 8 = 0) : registerWrite (b * 0x10000 + o) a s = writeBlock b o a s := by
  have hd : (b * 0x10000 + o) / 0x10000 = b := by omega
  have hmod : (b * 0x10000 + o) % 0x10000 = o := by omega
  have ha : (b * 0x10000 + o) % 8 = 0 := by omega
  have hx : b ≠ 0xF0 := by omega
  have hg : gytonOwned (b * 0x10000 + o) = false := gytonOwned_eq_false (.inl (hd.symm ▸ hb))
  simp only [registerWrite, hg, hd, hmod, ha, hr, hm, hx, ne_eq, not_true_eq_false, Bool.and_false, Bool.false_eq_true,
    Bool.not_true, if_false]
  rfl

/-! ### What the command answers -/

/-- The queue and the clocks aside, the command answers what the write makes of a module with power. -/
theorem exec_registerWrite {s t : State} {off : Nat} {a : RegAccess} (hp : s.powered = true) (h : registerWrite off a s = t) :
    exec (.registerWrite off a) s = done s t := by
  change done s (s.onlyIf s.powered (registerWrite off a)) = done s t
  rw [State.onlyIf, if_pos hp, h]

/-- A write without effect, with power or without. -/
theorem exec_registerWrite_keeps {s : State} {off : Nat} {a : RegAccess} (h : registerWrite off a s = s) :
    exec (.registerWrite off a) s = .next s := by
  change done s (s.onlyIf s.powered (registerWrite off a)) = .next s
  rw [State.onlyIf, h, ite_self]
  rfl

/-- A setup write at READY answers what its block makes of it, when that keeps the queue, the clocks and the actor. -/
theorem exec_setupWrite {s t : State} {a : RegAccess} (hr : s.isReady = true) (b o : Nat) (h : writeBlock b o a s = t)
    (hk : done s t = .next t := by rfl) (hb : b < 16 := by decide) (hm : b ≠ 8 := by decide) (ho : o < 0x10000 := by decide)
    (h8 : o % 8 = 0 := by decide) : exec (.registerWrite (b * 0x10000 + o) a) s = .next t :=
  (exec_registerWrite (powered_of_isReady hr) ((registerWrite_block a hr hb hm ho h8).trans h)).trans hk

/-! ### The mailbox (R379) -/

/-- Entry `i` of an array register is found at its offset. -/
theorem arrayIndex_entry {i base st count : Nat} (hi : i < count) (hst : 0 < st) :
    arrayIndex (base + st * i) base st count = some i := by
  have hlt : st * i < st * count := Nat.mul_lt_mul_of_pos_left hi hst
  simp [arrayIndex, hlt, hst]

theorem writeMailbox_arg (s : State) (a : RegAccess) {i : Nat} (hi : i < 4) :
    s.writeMailbox (8 + 8 * i) a = { s with fw := { s.fw with
      mboxArgs := s.fw.mboxArgs.set 0 i (BitVec.ofNat 64 (accessValue a (s.fw.mboxArgs.get 0 i).toNat)) } } := by
  simp [State.writeMailbox, arrayIndex_entry hi]

theorem writeMailbox_unknownOp {s : State} {a : RegAccess} (hr : s.isReady = true)
    (hv : bits (accessValue a 0) 7 0 = 0 ∨ 6 < bits (accessValue a 0) 7 0) :
    s.writeMailbox 0 a = { s with fw := { s.fw with
      mboxResult := 2, mboxTag := BitVec.ofNat 16 (accessValue a 0 / 2 ^ 16), mboxDetail := 0 } } := by
  have hn : [1, 2, 3, 4, 5, 6].contains (bits (accessValue a 0) 7 0) = false := by simp; omega
  exact if_pos ⟨rfl, hr, by rw [hn]; rfl⟩

/-! ### The MSI-X table (R185, R186) -/

@[simp] theorem sendHost_msix (s : State) (o : Output) : (s.sendHost o).host.msix = s.host.msix := by
  unfold State.sendHost; split <;> rfl

/-- Sending pending messages leaves the table's entries as they are. -/
@[simp] theorem sendPending_msix (vs : List Nat) (s : State) : (s.sendPending vs).host.msix = s.host.msix := by
  induction vs generalizing s with
  | nil => rfl
  | cons v vs ih =>
    rw [State.sendPending, ih]
    split
    · exact sendHost_msix _ _
    · rfl

/-- The address half of a vector's entry takes the value. -/
theorem writeMsix_addr (s : State) (a : RegAccess) {v : Nat} (hv : v < 128) :
    ((s.writeMsix (16 * v) a).host.msix.get MsixEntry.reset v) = { s.host.msix.get MsixEntry.reset v with
      addr := BitVec.ofNat 64 (accessValue a (s.host.msix.get MsixEntry.reset v).addr.toNat) } := by
  have hlt : 16 * v < 0x800 := by omega
  simp [State.writeMsix, State.msixReg, hlt]

/-- The other half holds the data and the mask. -/
theorem writeMsix_data (s : State) (a : RegAccess) {v : Nat} (hv : v < 128) :
    ((s.writeMsix (16 * v + 8) a).host.msix.get MsixEntry.reset v) = { s.host.msix.get MsixEntry.reset v with
      data := BitVec.ofNat 32 (accessValue a (s.msixReg (16 * v + 8))), mask := bit (accessValue a (s.msixReg (16 * v + 8))) 32 } := by
  have hlt : 16 * v + 8 < 0x800 := by omega
  have hd : (16 * v + 8) / 16 = v := by omega
  simp [State.writeMsix, hlt, hd]

/-! ### The statement -/

theorem setupWritesHold : SetupWritesHold := by
  intro s a hr
  refine ⟨?_, ?_, ?_, ?_, ?_, ?_, ?_, ?_, ?_, ?_, ?_, ?_, ?_, ?_, ?_, ?_, ?_, ?_, ?_, ?_, ?_, ?_, ?_, ?_, ?_, ?_⟩
  -- RINGS
  · exact fun lo hi => exec_setupWrite hr 1 8 (if_neg (by omega))
  · exact fun out => exec_setupWrite hr 1 8 (if_pos out)
  · exact fun free => exec_setupWrite hr 1 0 (if_neg (by rcases free with h | h <;> simp [h]))
  · exact fun disabled lo hi => exec_setupWrite hr 1 0x18 (if_neg (by simp [disabled]; omega))
  · exact fun enabled => exec_setupWrite hr 1 0x18 (if_pos (by simp [enabled]))
  · exact exec_setupWrite hr 1 0x28 rfl
  -- MEMORY
  · exact exec_setupWrite hr 2 0 rfl
  -- PLATE
  · exact fun ne => exec_setupWrite hr 3 0 (if_neg ne)
  · exact fun eq => exec_setupWrite hr 3 0 (if_pos eq)
  · exact exec_setupWrite hr 3 8 rfl
  · exact fun mlo mhi hlo hhi => exec_setupWrite hr 3 0x30 (if_neg (by omega))
  · exact fun out => exec_setupWrite hr 3 0x30 (if_pos out)
  -- NUMERICS
  · exact fun lo hi => exec_setupWrite hr 4 0x10 (if_neg (by omega))
  · exact fun lo hi => exec_setupWrite hr 4 0x18 (if_neg (by omega))
  · exact exec_setupWrite hr 4 0x20 rfl
  -- NET
  · exact fun lo hi => exec_setupWrite hr 5 0x18 (if_neg (by omega))
  · exact fun al inside => exec_setupWrite hr 5 8 (if_pos (by simp [State.tableAt, al, inside]))
  · exact fun out => exec_setupWrite hr 5 8 (if_neg (by rcases out with h | h <;> simp [State.tableAt, h]))
  · exact fun al inside => exec_setupWrite hr 5 0x70 (if_pos (by simp [State.tableAt, al, inside]))
  -- PROOF
  · exact exec_setupWrite hr 6 0 rfl
  · exact exec_setupWrite hr 6 8 rfl
  · exact fun busy => ⟨exec_setupWrite hr 6 0x10 (if_neg (by simpa using busy)),
      exec_setupWrite hr 6 0x18 (if_neg (by simpa using busy))⟩
  · exact fun lo hi => exec_setupWrite hr 6 0x20 (if_neg (by omega))
  · exact exec_setupWrite hr 6 0x28 rfl
  -- POWER and TEST
  · exact fun tlo thi alo ahi => exec_setupWrite hr 7 0x18 (if_neg (by omega))
  · exact exec_setupWrite hr 10 0x420 rfl

/-- R371: a write that reaches for Gyton's domain changes nothing but the host's side and the reports. -/
theorem firewalled_told {s : State} {off : Nat} (a : RegAccess) (hp : s.powered = true) (hf : s.fw.firewall = true)
    (hg : gytonOwned off = true) (h8 : off % 8 = 0) :
    ∃ t, exec (.registerWrite off a) s = .next t ∧ t.Reports 9 7 10 ∧ t.mem = s.mem ∧ t.life = s.life ∧ t.fuses = s.fuses ∧
      t.plate = s.plate ∧ t.power = s.power ∧ t.net = s.net ∧ t.proof = s.proof := by
  have told : (s.firewallEvent 10 off).Reports 9 7 10 := raise_reports s 9 7 _ _ 10 _ rfl
  obtain ⟨h, x, b, frame, -⟩ := raise_frame s 9 7 s.currentStep 0 10 (leBytes 8 off)
  have he : s.firewallEvent 10 off = _ := frame
  rw [he] at told
  exact ⟨_, exec_registerWrite hp ((registerWrite_firewall a h8 hf hg).trans he), told, rfl, rfl, rfl, rfl, rfl, rfl, rfl⟩

theorem otherWritesHold : OtherWritesHold := by
  refine ⟨?args, ?unknownOp, ?vectors, ?misaligned, ?early, ?gyton⟩
  case args =>
    intro s i a hp
    have harg := (registerWrite_mailbox s a (o := 8 + 8 * i.val) (by omega) (by omega)).trans (writeMailbox_arg s a i.isLt)
    rw [← Nat.add_assoc] at harg
    exact exec_registerWrite hp harg
  case unknownOp =>
    exact fun s a hr hv => exec_registerWrite (powered_of_isReady hr)
      ((registerWrite_mailbox s a (o := 0) (by decide) rfl).trans (writeMailbox_unknownOp hr hv))
  case vectors =>
    intro s v a hp
    have haddr := writeMsix_addr s a v.isLt
    have hdata := writeMsix_data s a v.isLt
    refine ⟨⟨_, exec_registerWrite hp (registerWrite_msix s a (by omega) (by omega)), congrArg MsixEntry.addr haddr⟩, ?_⟩
    have hw := registerWrite_msix s a (o := 16 * v.val + 8) (by omega) (by omega)
    rw [show 0xF00000 + (16 * v.val + 8) = 0xF00008 + 16 * v.val by omega] at hw
    exact ⟨_, exec_registerWrite hp hw, congrArg MsixEntry.data hdata, congrArg MsixEntry.mask hdata, (congrArg MsixEntry.addr hdata :)⟩
  case misaligned => exact fun s off a h => exec_registerWrite_keeps (registerWrite_misaligned s a h)
  case early => exact fun s off a hr hm hx hg => exec_registerWrite_keeps (registerWrite_notReady a hr hm hx hg)
  case gyton => exact fun s off a hp hf hg h8 => firewalled_told a hp hf hg h8

/-- Settles O26: a setup write is one branch of its block's rule; the others go to the mailbox, the MSI-X table or the firewall. -/
theorem registerWrites : Obligations.RegisterWrites := ⟨setupWritesHold, otherWritesHold⟩

end Sys2Proof.Proofs

/-! ## Clocks and stops

A tick without a command, and what stops the module whole: the reference lost, the management pair diverging, a thermal trip. -/

namespace Sys2Proof.Proofs

open Sys2Proof Sys2Proof.Machine Sys2Proof.Laws

/-! ### A tick (R15, R18) -/

/-- ACLK cycles move the clocks alone, and never MODULE_TIME (R15, R178). -/
theorem aclkCycles_moves_clock (fuel : Nat) (s : State) :
    ∃ c, s.aclkCycles fuel = { s with clock := c } ∧ c.time = s.clock.time := by
  induction fuel generalizing s with
  | zero => exact ⟨s.clock, rfl, rfl⟩
  | succ k ih =>
    unfold State.aclkCycles
    dsimp only
    generalize (if stretchedAt s.stretchNow s.clock.stretchPos = true then 3 else 2) = periods
    split
    · exact ⟨s.clock, rfl, rfl⟩
    · exact ih _

theorem step_nil {s : State} (h : s.pending = []) : step s = .next s.tick := by rw [step, h]

/-- Settles O2: a tick without clocks keeps the state, one before READY only counts MODULE_TIME, and the ACLK cycles of READY move
the clocks alone. -/
theorem stepOnEmptyQueue : Obligations.StepOnEmptyQueue := by
  refine ⟨fun s hp hc => ?_, fun s hp hc hr => ?_, fun s hp hc hr => ?_⟩
  · simp [step_nil hp, State.tick, hc]
  · have early : ¬ ({ s with clock := { s.clock with time := (s.clock.time + 1) % 2 ^ 64 } } : State).isReady = true := by
      simpa [State.isReady] using hr
    rw [step_nil hp, State.tick, if_pos hc, if_neg early]
  · have ready : ({ s with clock := { s.clock with time := (s.clock.time + 1) % 2 ^ 64 } } : State).isReady = true := hr
    rw [step_nil hp, State.tick, if_pos hc, if_pos ready]
    obtain ⟨c, frame, time⟩ := aclkCycles_moves_clock 5 { s with clock := { s.clock with
      time := (s.clock.time + 1) % 2 ^ 64, rootLeft := s.clock.rootLeft + 8 } }
    exact ⟨_, rfl, by rw [frame]; exact time, by rw [frame]⟩

/-! ### How commands answer -/

/-- A meaning that keeps the queue, the clocks and the actor is the command's answer. -/
theorem done_next {s t : State} (hp : t.pending = s.pending := by rfl) (hc : t.clock = s.clock := by rfl)
    (ha : t.actor = s.actor := by rfl) : done s t = .next t := by
  obtain ⟨⟩ := t
  cases hp; cases hc; cases ha
  rfl

/-- At READY a command's event happens. -/
theorem whenReady_of_isReady {s : State} (hr : s.isReady = true) (f : State → State) : whenReady s f = done s (f s) :=
  congrArg (done s) (if_pos hr)

/-! ### Stops (R17, R310, R360) -/

/-- The lifecycle of a module that a cause has stopped; a stop of the management pair stands. -/
def haltedLife (l : Life) (c : StopCause) : Life :=
  { l with
    phase := if l.phase = .stopped .lockstep then l.phase else .stopped c
    rootLocked := false, oscillator := true, alertHw := true }

/-- A halt moves the lifecycle and the link, and memory is not retained. -/
theorem halt_frame (s : State) (c : StopCause) : ∃ m g k, s.halt c = { s with
    life := haltedLife s.life c, pcie := { s.pcie with linkUp := false, cfgReady := false }, mem := m, freeGen := g, numerics := k } :=
  ⟨_, _, _, rfl⟩

theorem clocksRun_of_unlocked {s : State} (h : s.life.rootLocked = false) : s.clocksRun = false := by
  simp [State.clocksRun, h]

theorem alert_of_alertHw {s : State} (h : s.life.alertHw = true) : s.alert = true := by simp [State.alert, h]

/-- The clocks run in no stop of the management pair. -/
theorem phase_ne_of_clocksRun {s : State} (h : s.clocksRun = true) : s.life.phase ≠ .stopped .lockstep := by
  intro hp; simp [State.clocksRun, hp] at h

/-- R389: the fixed-function sender sends its report, and to the collector where one is set. -/
theorem sendFixed_frame (s : State) : ∃ m, s.sendFixed = { s with outbox := s.outbox ++ .fixedReport 0x0E :: m } ∧
    (s.fw.collector = none → m = []) := by
  unfold State.sendFixed
  dsimp only
  split
  next c hc =>
    refine ⟨?more, ?frame, fun hn => absurd (hc.symm.trans hn) nofun⟩
    case frame => simp only [State.send, List.append_assoc]; rfl
  next => exact ⟨[], rfl, fun _ => rfl⟩

/-- R17: the loss of the reference, told by Gyton. -/
theorem refclkLoss_stops {s : State} (hc : s.clocksRun = true) :
    ∃ t, exec .refclkLoss s = .next t ∧ t.life = haltedLife s.life .clockLost ∧ t.pcie.linkUp = false ∧ t.Reports 1 0x10 0 := by
  have e : exec .refclkLoss s = done s ((s.halt .clockLost).fault 0x10 0 0 2 0 0 0 0 noColumns) :=
    congrArg (done s) (if_pos hc)
  obtain ⟨m, g, k, halted⟩ := halt_frame s .clockLost
  have told : ((s.halt .clockLost).fault 0x10 0 0 2 0 0 0 0 noColumns).Reports 1 0x10 0 := raise_reports _ _ _ _ _ _ _ rfl
  obtain ⟨h, x, b, frame, -⟩ := raise_frame (s.halt .clockLost) 1 0x10 (s.halt .clockLost).currentStep 0 0
    (faultDetail 2 0 0 0 0 noColumns)
  change State.fault _ 0x10 0 0 2 0 0 0 0 noColumns = _ at frame
  rw [e, frame]
  rw [frame] at told
  rw [halted] at told ⊢
  exact ⟨_, done_next, rfl, rfl, told⟩

/-- R360: the comparator stops the module, and Gyton reports the part where it runs. -/
theorem thermtrip_stops {s : State} (part : Fin 36) (temp : BitVec 16) (hoff : s.life.phase ≠ .off)
    (hold : s.life.thermtrip = false) (hpart : part.val < 3 ∨ 16 ≤ part.val) :
    ∃ t, exec (.thermtrip part temp) s = .next t ∧ t.life = { haltedLife s.life .thermtrip with thermtrip := true } ∧
      t.pcie.linkUp = false ∧ (s.gytonRuns = true → t.Reports 8 6 part.val) := by
  obtain ⟨m, g, k, halted⟩ := halt_frame s .thermtrip
  let u : State := { s.halt .thermtrip with life := { (s.halt .thermtrip).life with thermtrip := true } }
  have e : exec (.thermtrip part temp) s =
      done s (if s.gytonRuns then u.raise 8 6 u.currentStep 0 part.val (leBytes 2 temp.toNat) else u) :=
    congrArg (done s) (if_pos ⟨hoff, by simp [hold], hpart⟩)
  have hu : u = { s with
      life := { haltedLife s.life .thermtrip with thermtrip := true }
      pcie := { s.pcie with linkUp := false, cfgReady := false }
      mem := m, freeGen := g, numerics := k } := by
    simp only [u, halted]
  rw [e]
  split
  next hg =>
    have told : (u.raise 8 6 u.currentStep 0 part.val (leBytes 2 temp.toNat)).Reports 8 6 part.val :=
      raise_reports _ _ _ _ _ _ _ rfl
    obtain ⟨h, x, b, frame, -⟩ := raise_frame u 8 6 u.currentStep 0 part.val (leBytes 2 temp.toNat)
    rw [frame] at told ⊢
    rw [hu] at told ⊢
    exact ⟨_, done_next, rfl, rfl, fun _ => told⟩
  next hg =>
    rw [hu]
    exact ⟨_, done_next, rfl, rfl, fun h => absurd h hg⟩

/-- R310: a divergence of the management pair, told by the fixed-function sender. -/
theorem lockstep_stops {s : State} (hg : s.gytonRuns = true) :
    ∃ t m, exec .lockstep s = .next t ∧ t.life = haltedLife s.life .lockstep ∧ t.pcie.linkUp = false ∧
      t.outbox = s.outbox ++ .fixedReport 0x0E :: m ∧ (s.fw.collector = none → m = []) := by
  have e : exec .lockstep s = done s (s.halt .lockstep).sendFixed := congrArg (done s) (if_pos hg)
  obtain ⟨m, g, k, halted⟩ := halt_frame s .lockstep
  obtain ⟨more, sent, alone⟩ := sendFixed_frame (s.halt .lockstep)
  rw [e, sent]
  rw [halted] at alone ⊢
  exact ⟨_, more, done_next, rfl, rfl, rfl, alone⟩

/-- Settles O13: each stop leaves the lifecycle halted; what cannot happen in the present state changes nothing. -/
theorem moduleStops : Obligations.ModuleStops := by
  refine ⟨?loss, ?lossNot, ?lockstep, ?lockstepNot, ?trip, ?tripNot, ?again, ?againNot⟩
  case loss =>
    intro s hc
    obtain ⟨t, he, life, link, told⟩ := refclkLoss_stops hc
    exact ⟨t, he, by simp [life, haltedLife, phase_ne_of_clocksRun hc], clocksRun_of_unlocked (by rw [life]; rfl),
      by rw [life]; rfl, link, alert_of_alertHw (by rw [life]; rfl), told⟩
  case lossNot => exact fun s hc => congrArg (done s) (if_neg (by simp [hc]))
  case lockstep =>
    intro s hg
    obtain ⟨t, m, he, life, link, sent⟩ := lockstep_stops hg
    have phase : t.life.phase = .stopped .lockstep := by simp [life, haltedLife]
    exact ⟨t, m, he, phase, clocksRun_of_unlocked (by rw [life]; rfl), by simp [State.gytonRuns, phase], link,
      alert_of_alertHw (by rw [life]; rfl), sent⟩
  case lockstepNot => exact fun s hg => congrArg (done s) (if_neg (by simp [hg]))
  case trip =>
    intro s part temp hoff hold hpart
    obtain ⟨t, he, life, link, told⟩ := thermtrip_stops part temp hoff hold hpart
    exact ⟨t, he, by rw [life], fun h => by simp [life, haltedLife, h], clocksRun_of_unlocked (by rw [life]; rfl),
      by rw [life]; rfl, link, alert_of_alertHw (by rw [life]; rfl), told⟩
  case tripNot =>
    intro s part temp h
    refine congrArg (done s) (if_neg ?_)
    rintro ⟨hoff, hold, hpart⟩
    rcases h with h | h | h
    · exact hoff h
    · simp [h] at hold
    · omega
  case again =>
    intro s hp
    obtain ⟨m, sent, alone⟩ := sendFixed_frame s
    have e : exec .lockstepReportRepeat s = done s s.sendFixed := congrArg (done s) (if_pos hp)
    exact ⟨m, by rw [e, sent]; exact done_next, alone⟩
  case againNot => exact fun s hp => congrArg (done s) (if_neg hp)

end Sys2Proof.Proofs

/-! ## Translation

What a walk of the page tables comes to, and what an access makes of it (R25 to R29). -/

namespace Sys2Proof.Proofs

open Sys2Proof Sys2Proof.Machine Sys2Proof.Laws

/-! ### A memory without errors

Reads of a sound module meet nothing. -/

theorem poisoned_of_sound {s : State} (h : s.Sound) (a n : Nat) : s.poisoned a n = none := by
  simp [State.poisoned, h.1]

theorem meet_of_sound {s : State} (h : s.Sound) (bs : List Nat) : s.meet bs = s := by
  induction bs with
  | nil => rfl
  | cons b bs ih => rw [State.meet, h.2]; exact ih

theorem meetWalk_of_sound {s : State} (h : s.Sound) (root : Word) (va : Nat) : s.meetWalk root va = s := by
  unfold State.meetWalk
  induction s.walkEntries root va with
  | nil => rfl
  | cons p ps ih => simpa [State.meetEntries, meet_of_sound h, poisoned_of_sound h] using ih

/-- A sound memory outside the map meets nothing either. -/
theorem meetHidden_of_sound {s : State} (h : s.Sound) (memory use : Nat) : s.meetHidden memory use = (s, false) := by
  unfold State.meetHidden
  simp [h.1, h.2, State.meet]

/-! ### The walk, level by level (R25 to R27) -/

theorem pteAddr_mod_64K (e : Nat) : pteAddr e % 0x10000 = 0 ↔ bits e 15 12 = 0 := by
  simp only [pteAddr, bits]; omega

theorem pteAddr_mod_2M (e : Nat) : pteAddr e % 0x200000 = 0 ↔ bits e 20 12 = 0 := by
  simp only [pteAddr, bits]; omega

theorem pteReserved_eq_false (e : Nat) : pteReserved e = false ↔ bits e 11 3 = 0 ∧ bits e 63 48 = 0 := by
  simp [pteReserved]

/-- Level 3 faults, or its entry is a valid leaf. -/
theorem walk3_cases {s : State} (hs : s.Sound) (t va : Nat) : s.walk3 t va = .fault ∨
    (¬ entryFaults false 3 (s.ramWord (t + 8 * bits va 20 16)) ∧
      ∃ pte base size, s.walk3 t va = .leaf pte base size (bit (s.ramWord (t + 8 * bits va 20 16)) 2)) := by
  unfold State.walk3
  simp only [poisoned_of_sound hs]
  generalize s.ramWord (t + 8 * bits va 20 16) = e
  split
  · exact .inl rfl
  · split
    · exact .inl rfl
    next ok =>
      refine .inr ⟨?_, _, _, _, rfl⟩
      simp only [Bool.or_eq_true, Bool.not_eq_true', bne_iff_ne, not_or, Bool.not_eq_false, Bool.not_eq_true, ne_eq, not_not,
        pteAddr_mod_64K, pteReserved_eq_false] at ok
      simp [entryFaults, ok]

/-- Level 2 faults, or its entry is a valid leaf or a valid pointer, with WRITE = 0, to level 3. -/
theorem walk2_cases {s : State} (hs : s.Sound) (t va : Nat) : s.walk2 t va = .fault ∨
    (t % 0x10000 = 0 ∧ ¬ entryFaults false 2 (s.ramWord (t + 8 * bits va 33 21)) ∧
      ((bit (s.ramWord (t + 8 * bits va 33 21)) 1 = true ∧
          ∃ pte base size, s.walk2 t va = .leaf pte base size (bit (s.ramWord (t + 8 * bits va 33 21)) 2)) ∨
        (bit (s.ramWord (t + 8 * bits va 33 21)) 1 = false ∧ bit (s.ramWord (t + 8 * bits va 33 21)) 2 = false ∧
          s.walk2 t va = s.walk3 (pteAddr (s.ramWord (t + 8 * bits va 33 21))) va))) := by
  unfold State.walk2
  simp only [poisoned_of_sound hs]
  generalize s.ramWord (t + 8 * bits va 33 21) = e
  split
  · exact .inl rfl
  next base =>
    have aligned : t % 0x10000 = 0 := by simp at base; exact base.2
    split
    · exact .inl rfl
    next ok =>
      simp only [Bool.or_eq_true, Bool.not_eq_true', not_or, Bool.not_eq_false, Bool.not_eq_true, pteReserved_eq_false] at ok
      split
      next leaf =>
        split
        · exact .inl rfl
        next size =>
          simp only [bne_iff_ne, ne_eq, not_not, pteAddr_mod_2M] at size
          exact .inr ⟨aligned, by simp [entryFaults, ok, leaf, size], .inl ⟨leaf, _, _, _, rfl⟩⟩
      next pointer =>
        split
        · exact .inl rfl
        next write =>
          exact .inr ⟨aligned, by simp [entryFaults, ok, pointer], .inr ⟨by simpa using pointer, by simpa using write, rfl⟩⟩

/-- Level 1 faults, or its entry is a valid pointer, with WRITE = 0, to level 2; the alignment of its ADDR is level 2's to check. -/
theorem walk_cases {s : State} (hs : s.Sound) (root : Word) (va : Nat) : s.walk root va = .fault ∨
    (bit (s.entry1 root va) 2 = false ∧ (pteAddr (s.entry1 root va) % 0x10000 = 0 → ¬ entryFaults false 1 (s.entry1 root va)) ∧
      s.walk root va = s.walk2 (pteAddr (s.entry1 root va)) va) := by
  unfold State.walk State.entry1
  simp only [poisoned_of_sound hs]
  generalize s.ramWord _ = e
  split
  · exact .inl rfl
  · split
    · exact .inl rfl
    next ok =>
      simp only [Bool.or_eq_true, Bool.not_eq_true', not_or, Bool.not_eq_false, Bool.not_eq_true, pteReserved_eq_false] at ok
      refine .inr ⟨ok.1.2, fun h => ?_, rfl⟩
      rw [pteAddr_mod_64K] at h
      simp [entryFaults, ok, h]

/-- Bits above a page's offset are those of the page's address. -/
theorem bits_page {va lo hi : Nat} (h : 16 ≤ lo) : bits (va / 0x10000 * 0x10000) hi lo = bits va hi lo := by
  have e : va / 0x10000 * 0x10000 / 2 ^ lo = va / 2 ^ lo := by
    rw [show 0x10000 = 2 ^ 16 from rfl, ← Nat.add_sub_cancel' h, Nat.pow_add, ← Nat.div_div_eq_div_mul,
      Nat.mul_div_cancel _ (by decide), Nat.div_div_eq_div_mul]
  rw [bits, bits, e]

/-- A walk looks at the page of its address only. -/
theorem walk_page (s : State) (root : Word) (va : Nat) : s.walk root (va / 0x10000 * 0x10000) = s.walk root va := by
  have h16 : (16 : Nat) ≤ 16 := Nat.le_refl 16
  simp only [State.walk, State.walk2, State.walk3, bits_page h16, bits_page (show 16 ≤ 21 by decide),
    bits_page (show 16 ≤ 34 by decide)]

/-- A walk that lets no access of a kind through: it faults, or, for a write, its leaf has WRITE = 0. -/
def WalkDenies (wr : Bool) (w : Walk) : Prop := w = .fault ∨ (wr = true ∧ ∃ pte base size, w = .leaf pte base size false)

/-- What faults a write but not a read is a leaf, below level 1, with WRITE = 0. -/
theorem leaf_of_entryFaults {wr : Bool} {level e : Nat} (h : entryFaults wr level e) (read : ¬ entryFaults false level e) :
    wr = true ∧ level ≠ 1 ∧ bit e 1 = true ∧ bit e 2 = false := by
  cases wr with
  | false => exact absurd h read
  | true =>
    simp only [entryFaults, not_or, true_and, Bool.false_eq_true, false_and, or_false, not_and] at h read
    obtain ⟨valid, low, high, level1, level2, level3⟩ := read
    rcases h with h | h | h | h | ⟨rfl, h1, h⟩ | ⟨rfl, h⟩
    · exact absurd h valid
    · exact absurd h low
    · exact absurd h high
    · exact absurd h.2 (not_or.mpr (level1 h.1))
    · exact ⟨rfl, by decide, h1, h.resolve_left (level2 rfl h1)⟩
    · obtain ⟨leaf, aligned⟩ := level3 rfl
      exact ⟨rfl, by decide, by simpa using leaf, (h.resolve_left leaf).resolve_left aligned⟩

/-- R27: a walk that meets an entry which faults an access denies the access. -/
theorem walk_denies {s : State} (hs : s.Sound) {root : Word} {va : Nat} {wr : Bool} (h : s.walkMeets root va (entryFaults wr)) :
    WalkDenies wr (s.walk root va) := by
  obtain ⟨-, -, h⟩ := h
  rcases walk_cases hs root va with fault | ⟨-, clean1, e1⟩
  · exact .inl fault
  rw [e1]
  have level2 := walk2_cases hs (pteAddr (s.entry1 root va)) va
  rw [show s.ramWord (pteAddr (s.entry1 root va) + 8 * bits va 33 21) = s.entry2 root va from rfl] at level2
  rcases level2 with fault | ⟨aligned, clean2, next2⟩
  · exact .inl fault
  rcases h with bad1 | ⟨-, -, h⟩
  · exact absurd rfl (leaf_of_entryFaults bad1 (clean1 aligned)).2.1
  rcases next2 with ⟨leaf2, pte, base, size, leaf⟩ | ⟨pointer, -, e2⟩
  · rcases h with bad2 | ⟨-, pointer, -, -⟩
    · obtain ⟨hw, -, -, write⟩ := leaf_of_entryFaults bad2 clean2
      exact .inr ⟨hw, pte, base, size, by rw [leaf]; exact congrArg _ write⟩
    · exact absurd leaf2 (by simp [pointer])
  · rw [e2]
    rcases walk3_cases hs (pteAddr (s.entry2 root va)) va with fault | ⟨clean3, pte, base, size, leaf⟩
    · exact .inl fault
    rcases h with bad2 | ⟨-, -, -, bad3⟩
    · exact absurd (leaf_of_entryFaults bad2 clean2).2.2.1 (by simp [pointer])
    · obtain ⟨hw, -, -, write⟩ := leaf_of_entryFaults bad3 clean3
      exact .inr ⟨hw, pte, base, size, by rw [leaf]; exact congrArg _ write⟩

/-- The same of an entry that points to a table with WRITE = 1 (log 69): the walk faults. -/
theorem walk_pointerWrites {s : State} (hs : s.Sound) {root : Word} {va : Nat} (h : s.walkMeets root va pointerWrites) :
    s.walk root va = .fault := by
  obtain ⟨-, -, h⟩ := h
  rcases walk_cases hs root va with fault | ⟨read1, -, e1⟩
  · exact fault
  rw [e1]
  have level2 := walk2_cases hs (pteAddr (s.entry1 root va)) va
  rw [show s.ramWord (pteAddr (s.entry1 root va) + 8 * bits va 33 21) = s.entry2 root va from rfl] at level2
  rcases level2 with fault | ⟨-, -, next2⟩
  · exact fault
  rcases h with ⟨-, write1⟩ | ⟨-, -, ⟨pointer, write2⟩ | ⟨-, -, -, bad3, -⟩⟩
  · exact absurd write1 (by simp [read1])
  · rcases next2 with ⟨leaf, -⟩ | ⟨-, read2, -⟩
    · simp [leaf] at pointer
    · exact absurd write2 (by simp [read2])
  · simp at bad3

/-! ### Accesses -/

/-- A page with no cached translation whose walk denies the access: the access faults, and memory stands. -/
theorem translate_denied {s : State} (hs : s.Sound) {root : Word} {va : Nat} {wr : Bool}
    (uncached : ∀ e ∈ s.mem.tlb, e.1 ≠ (root.toNat, va / 0x10000)) (h : WalkDenies wr (s.walk root va)) :
    ∃ t, s.translate root va wr = (t, .error (.addr (virtDetail va))) ∧ t.mem.ram = s.mem.ram := by
  have miss : s.mem.tlb.find? (fun e => e.1 == (root.toNat, va / 0x10000)) = none := by simpa using uncached
  unfold State.translate
  simp only [miss, meetWalk_of_sound hs]
  rcases h with fault | ⟨rfl, pte, base, size, leaf⟩
  · rw [fault]; exact ⟨s, rfl, rfl⟩
  · rw [leaf]; exact ⟨_, rfl, rfl⟩

/-- The same once the access is resolved. -/
theorem resolve_denied {s : State} (hs : s.Sound) {root : Word} (allow : Allow) {va : Nat} (n : Nat) {wr : Bool} (hva : va < 2 ^ 48)
    (uncached : ∀ e ∈ s.mem.tlb, e.1 ≠ (root.toNat, va / 0x10000)) (h : WalkDenies wr (s.walk root va)) :
    ∃ t, s.resolve root allow va n wr = (t, .error (.addr (virtDetail va))) ∧ t.mem.ram = s.mem.ram := by
  obtain ⟨t, e, ram⟩ := translate_denied hs uncached h
  exact ⟨t, by rw [State.resolve, if_neg (by omega), e], ram⟩

theorem readVirt_denied {s : State} (hs : s.Sound) {root : Word} (allow : Allow) {va n : Nat} (hn : 0 < n) (hva : va < 2 ^ 48)
    (uncached : ∀ e ∈ s.mem.tlb, e.1 ≠ (root.toNat, va / 0x10000)) (h : WalkDenies false (s.walk root va)) :
    ∃ t, s.readVirt root allow va n = (t, .error (.addr (virtDetail va))) ∧ t.mem.ram = s.mem.ram := by
  obtain ⟨t, e, ram⟩ := resolve_denied hs allow (inPage va n) hva uncached h
  refine ⟨t, ?_, ram⟩
  rw [State.readVirt, pageFuel, State.readPages, if_neg (by omega)]
  simp only [e]

/-- R327: a write whose walk is denied goes no further than its redirection, which faults, or changes nothing. -/
theorem redirect_denied {s : State} (hs : s.Sound) {root : Word} {va : Nat} (whole : Bool) (h : WalkDenies true (s.walk root va)) :
    s.redirect root va whole = (s, .ready) ∨ s.redirect root va whole = (s, .fault) := by
  unfold State.redirect
  simp only [meetWalk_of_sound hs, walk_page]
  split
  · exact .inl rfl
  split
  · exact .inl rfl
  rcases h with fault | ⟨-, pte, base, size, leaf⟩
  · rw [fault]; exact .inr rfl
  · rw [leaf]; exact .inr (by simp)

theorem writeVirt_denied {s : State} (hs : s.Sound) {root : Word} (allow : Allow) {va : Nat} {bs : List Byte} (hn : bs ≠ [])
    (hva : va < 2 ^ 48) (uncached : ∀ e ∈ s.mem.tlb, e.1 ≠ (root.toNat, va / 0x10000)) (h : WalkDenies true (s.walk root va)) :
    ∃ t, s.writeVirt root allow va bs = (t, .error (.addr (virtDetail va))) ∧ t.mem.ram = s.mem.ram := by
  have nonempty : ¬ bs.isEmpty = true := by simpa using hn
  rw [State.writeVirt, pageFuel, State.writePages, if_neg nonempty]
  rcases redirect_denied hs (inPage va bs.length == 0x10000) h with ready | fault
  · obtain ⟨t, e, ram⟩ := resolve_denied hs allow (inPage va bs.length) hva uncached h
    exact ⟨t, by simp only [ready, e], ram⟩
  · exact ⟨s, by simp only [fault], rfl⟩

/-- Settles O58: the walk of the access's first page denies it before any data moves. -/
theorem translationFaults : Obligations.TranslationFaults := fun _ _ allow _ hs hva uncached =>
  ⟨fun _ hn meets => readVirt_denied hs allow hn hva uncached (walk_denies hs meets),
    fun _ hbs meets => writeVirt_denied hs allow hbs hva uncached (walk_denies hs meets)⟩

end Sys2Proof.Proofs

/-! ## Semaphores, the seed and invalidation

Single registers that software writes. -/

namespace Sys2Proof.Proofs

open Sys2Proof Sys2Proof.Machine Sys2Proof.Laws

/-! ### One semaphore (R203) -/

/-- A semaphore set, no WAIT tested yet. -/
def withSem (s : State) (i : Nat) (v : BitVec 32) : State := { s with seq := { s.seq with sems := s.seq.sems.set i v } }

theorem sem_withSem (s : State) (i j : Nat) (v : BitVec 32) : (withSem s i v).sem j = if j = i then v else s.sem j :=
  get_setCell s.seq.sems i j v

@[simp] theorem sem_withSem_same (s : State) (i : Nat) (v : BitVec 32) : (withSem s i v).sem i = v := by
  rw [sem_withSem, if_pos rfl]

theorem sem_withSem_other (s : State) {i j : Nat} (v : BitVec 32) (h : j ≠ i) : (withSem s i v).sem j = s.sem j := by
  rw [sem_withSem, if_neg h]

@[simp] theorem testRuns_nil (fuel : Nat) (s : State) : State.testRuns fuel s [] = s := by cases fuel <;> rfl

theorem waitsOn_unwatched {s : State} (h : s.Unwatched) (i : Nat) : s.waitsOn i = [] := by
  have none : s.seq.window.filter (fun o => o.kind == opWait && o.phase == .issued && o.semIndex == i) = [] := by
    simp only [List.filter_eq_nil_iff, Bool.and_eq_true, beq_iff_eq, not_and]
    exact fun o ho watches => absurd watches.2 (h o ho watches.1)
  rw [State.waitsOn, none, List.mergeSort_nil]
  rfl

/-- Where no WAIT watches, setting a semaphore is all that happens. -/
theorem setSem_unwatched {s : State} (h : s.Unwatched) (i : Nat) (v : BitVec 32) : s.setSem i v = withSem s i v := by
  have h' : State.Unwatched (withSem s i v) := h
  change (withSem s i v).testWaits ((withSem s i v).waitsOn i) = _
  rw [waitsOn_unwatched h', State.testWaits, testRuns_nil]

theorem setSem_pair {s : State} (h : s.Unwatched) (i : Nat) (v w : BitVec 32) :
    (s.setSem i v).setSem (i + 1) w = withSem (withSem s i v) (i + 1) w := by
  have h' : State.Unwatched (withSem s i v) := h
  rw [setSem_unwatched h, setSem_unwatched h']

/-- An aligned access of 8 bytes sets two semaphores, and no other one. -/
theorem sem_pair (s : State) (i : Nat) (v w : BitVec 32) :
    (withSem (withSem s i v) (i + 1) w).sem i = v ∧ (withSem (withSem s i v) (i + 1) w).sem (i + 1) = w ∧
      ∀ j, j ≠ i → j ≠ i + 1 → (withSem (withSem s i v) (i + 1) w).sem j = s.sem j := by
  refine ⟨?_, sem_withSem_same _ _ _, fun j h0 h1 => ?_⟩
  · rw [sem_withSem_other _ _ (by omega), sem_withSem_same]
  · rw [sem_withSem_other _ _ h1, sem_withSem_other _ _ h0]

/-! ### A WAIT on it (R205) -/

/-- Completing a program touches the rings, their records and the programs in flight. -/
theorem settleProgram_frame (s : State) (ring : Nat) : ∃ h x ps,
    s.settleProgram ring = { s with host := h, outbox := x, seq := { s.seq with programs := ps } } := by
  unfold State.settleProgram
  split
  · exact ⟨s.host, s.outbox, s.seq.programs, rfl⟩
  next p _ =>
    split
    · obtain ⟨h, x, e⟩ := complete_frame
        { s with seq := { s.seq with programs := s.seq.programs.filter (fun x => x.ring != ring) } } ring p.cmd p.result.1 false
        p.result.2
      exact ⟨h, x, _, e⟩
    · exact ⟨s.host, s.outbox, s.seq.programs, rfl⟩

/-- A WAIT that ends well and has no result record leaves the window. -/
theorem finishOp_wait {s : State} {o : Op} (kind : o.kind = opWait) (bare : o.resultAddr = 0) (record : Nat → List Byte) :
    ∃ h x ps, s.finishOp o 0 none record = some { s with host := h, outbox := x, seq := { s.seq with
      window := s.seq.window.filter (fun x => x.id != o.id), programs := ps } } := by
  have closed : s.finishOp o 0 none record = some (((match (s.dropOp o.id).program o.ring with
      | none => s.dropOp o.id
      | some p => (s.dropOp o.id).setProgram (p.note o 0 none)) : State).settleProgram o.ring) := by
    have k1 : (o.kind == opBranch) = false := by rw [kind]; rfl
    have k2 : (o.kind == opMatmul) = false := by rw [kind]; rfl
    have k3 : s.stepStatus o.step 0 = s := by unfold State.stepStatus; split <;> rfl
    simp only [State.finishOp, State.finishTelling, State.writeResult, bare, if_true, State.closeOp, k1, k2, k3, State.onlyIf]
    rfl
  rw [closed]
  split
  · obtain ⟨h, x, ps, e⟩ := settleProgram_frame (s.dropOp o.id) o.ring
    exact ⟨h, x, ps, congrArg some e⟩
  next p _ =>
    obtain ⟨h, x, ps, e⟩ := settleProgram_frame ((s.dropOp o.id).setProgram (p.note o 0 none)) o.ring
    exact ⟨h, x, ps, congrArg some e⟩

/-- The one op of the window is a WAIT that has issued. -/
structure WaitsAlone (s : State) (o : Op) : Prop where
  only   : s.seq.window = [o]
  kind   : o.kind = opWait
  issued : o.phase = .issued

section

variable {s : State} {o : Op}

theorem WaitsAlone.waitsOn (h : WaitsAlone s o) : s.waitsOn o.semIndex = [o.id] := by
  simp [State.waitsOn, h.only, h.kind, h.issued]

theorem WaitsAlone.testWaits (h : WaitsAlone s o) : s.testWaits [o.id] = State.testRuns 5 s [o.id] := by
  simp [State.testWaits, h.only]

theorem WaitsAlone.op (h : WaitsAlone s o) : s.op o.id = some o := by simp [State.op, h.only]

/-- Setting the semaphore it watches is testing it then. -/
theorem WaitsAlone.setSem (h : WaitsAlone s o) (v : BitVec 32) :
    s.setSem o.semIndex v = State.testRuns 5 (withSem s o.semIndex v) [o.id] := by
  have h' : WaitsAlone (withSem s o.semIndex v) o := ⟨h.only, h.kind, h.issued⟩
  change (withSem s o.semIndex v).testWaits ((withSem s o.semIndex v).waitsOn o.semIndex) = _
  rw [h'.waitsOn, h'.testWaits]

theorem WaitsAlone.takeWait_unmet (h : WaitsAlone s o) (unmet : o.condHolds (s.sem o.semIndex) = false) :
    s.takeWait o.id = none := by
  simp [State.takeWait, h.op, unmet]

/-- A WAIT whose condition holds takes its target away, if it consumes, and leaves the window. -/
theorem WaitsAlone.takeWait_met (h : WaitsAlone s o) (bare : o.resultAddr = 0) (met : o.condHolds (s.sem o.semIndex) = true) :
    ∃ g x ps, s.takeWait o.id = some ({ s with host := g, outbox := x, seq := { s.seq with
      window := []
      programs := ps
      sems := if o.consumes then s.seq.sems.set o.semIndex (s.sem o.semIndex - o.waitTarget) else s.seq.sems } }, o) := by
  have alone : [o].filter (fun x => x.id != o.id) = [] := by simp
  have acts : s.takeWait o.id = (((if o.consumes then withSem s o.semIndex (s.sem o.semIndex - o.waitTarget) else s).finishOp o 0
      none (fun st => shortRecord st 0 o.tag (s.sem o.semIndex).toNat s.clock.time)).map (fun t => (t, o))) := by
    simp only [State.takeWait, h.op]
    exact if_pos ⟨h.kind, h.issued, met⟩
  rw [acts]
  split
  · obtain ⟨g, x, ps, e⟩ := finishOp_wait (s := withSem s o.semIndex (s.sem o.semIndex - o.waitTarget)) h.kind bare
      (fun st => shortRecord st 0 o.tag (s.sem o.semIndex).toNat s.clock.time)
    exact ⟨g, x, ps, by rw [e]; simp [withSem, h.only]⟩
  · obtain ⟨g, x, ps, e⟩ := finishOp_wait (s := s) h.kind bare
      (fun st => shortRecord st 0 o.tag (s.sem o.semIndex).toNat s.clock.time)
    exact ⟨g, x, ps, by rw [e]; simp [h.only]⟩

/-- R205: the WAIT goes on waiting. -/
theorem WaitsAlone.setSem_unmet (h : WaitsAlone s o) {v : BitVec 32} (unmet : o.condHolds v = false) :
    s.setSem o.semIndex v = withSem s o.semIndex v := by
  have h' : WaitsAlone (withSem s o.semIndex v) o := ⟨h.only, h.kind, h.issued⟩
  have stays := h'.takeWait_unmet (by rwa [sem_withSem_same])
  simp only [h.setSem, State.testRuns, stays]

/-- R205: the WAIT completes, and the semaphore holds what it leaves. -/
theorem WaitsAlone.setSem_met (h : WaitsAlone s o) (bare : o.resultAddr = 0) {v : BitVec 32} (met : o.condHolds v = true) :
    ∃ g x ps, s.setSem o.semIndex v = { s with host := g, outbox := x, seq := { s.seq with
      window := []
      programs := ps
      sems := if o.consumes then (s.seq.sems.set o.semIndex v).set o.semIndex (v - o.waitTarget)
        else s.seq.sems.set o.semIndex v } } := by
  have h' : WaitsAlone (withSem s o.semIndex v) o := ⟨h.only, h.kind, h.issued⟩
  obtain ⟨g, x, ps, e⟩ := h'.takeWait_met bare (by rwa [sem_withSem_same])
  refine ⟨g, x, ps, ?_⟩
  simp only [h.setSem, State.testRuns, e]
  split
  · rw [waitsOn_unwatched (by simp [State.Unwatched]), testRuns_nil, sem_withSem_same]
    rfl
  · rw [testRuns_nil]
    rfl

end

/-! ### The statements -/

theorem semaphoreWritesHold : SemaphoreWritesHold := by
  refine ⟨fun s i v hr hu => ⟨?_, ?_⟩, fun s i v w hr even hu => ⟨?_, ?_⟩, fun s i v w hr odd => ⟨?_, ?_⟩, ?wait⟩
  · refine ⟨withSem s i.toNat v, ?_, sem_withSem_same _ _ _, fun j hj => sem_withSem_other _ _ hj, rfl⟩
    exact (whenReady_of_isReady hr _).trans (congrArg (done s) (setSem_unwatched hu i.toNat v))
  · refine ⟨withSem s i.toNat (s.sem i.toNat + v), ?_, sem_withSem_same _ _ _, fun j hj => sem_withSem_other _ _ hj, rfl⟩
    exact (whenReady_of_isReady hr _).trans (congrArg (done s) (setSem_unwatched hu i.toNat _))
  · refine ⟨_, ?_, sem_pair s i.toNat v w⟩
    exact (whenReady_of_isReady hr _).trans (congrArg (done s) ((if_pos even).trans (setSem_pair hu i.toNat v w)))
  · refine ⟨_, ?_, sem_pair s i.toNat (s.sem i.toNat + v) (s.sem (i.toNat + 1) + w)⟩
    have next : (s.addSem i.toNat v).addSem (i.toNat + 1) w =
        withSem (withSem s i.toNat (s.sem i.toNat + v)) (i.toNat + 1) (s.sem (i.toNat + 1) + w) := by
      rw [State.addSem, State.addSem, setSem_pair hu, setSem_unwatched hu, sem_withSem_other _ _ (by omega)]
    exact (whenReady_of_isReady hr _).trans (congrArg (done s) ((if_pos even).trans next))
  · exact (whenReady_of_isReady hr _).trans (congrArg (done s) (if_neg (by omega)))
  · exact (whenReady_of_isReady hr _).trans (congrArg (done s) (if_neg (by omega)))
  case wait =>
    intro s i v x o hr only kind issued index bare hx
    have alone : WaitsAlone s o := ⟨only, kind, issued⟩
    have set : exec (if x = v then .semValueWrite i v none else .semAddWindowWrite i v none) s =
        done s (s.setSem o.semIndex x) := by
      rw [index]
      split
      next same => exact same ▸ whenReady_of_isReady hr _
      next other => exact hx.resolve_left other ▸ whenReady_of_isReady hr _
    rw [set, ← index]
    cases met : o.condHolds x with
    | true =>
      obtain ⟨g, y, ps, e⟩ := alone.setSem_met bare met
      refine ⟨_, by rw [e]; exact done_next, fun _ => ⟨rfl, ?_⟩, nofun⟩
      simp only [State.sem]
      split
      · exact (get_setCell _ _ _ _).trans (if_pos rfl)
      · exact (get_setCell _ _ _ _).trans (if_pos rfl)
    | false =>
      rw [alone.setSem_unmet met]
      exact ⟨_, done_next, nofun, fun _ => ⟨alone.op, sem_withSem_same _ _ _⟩⟩

theorem seedAndTranslationsHold : SeedAndTranslationsHold := by
  refine ⟨fun s v hr => ?_, fun s v hr => ⟨?_, ?_⟩, fun s a hr => ⟨fun h => ?_, fun h => ?_⟩, fun s hr h => ?_, fun s hr h => ?_,
    fun s root allow va n hs hva hn uncached meets => readVirt_denied hs allow hn hva uncached (.inl (walk_pointerWrites hs meets))⟩
  · exact whenReady_of_isReady hr _
  · exact whenReady_of_isReady hr _
  · exact whenReady_of_isReady hr _
  · exact (whenReady_of_isReady hr _).trans (congrArg (done s) (if_pos h))
  · exact (whenReady_of_isReady hr _).trans (congrArg (done s) (if_neg (by simp [h])))
  · exact (whenReady_of_isReady hr _).trans (congrArg (done s) (if_pos h))
  · exact (whenReady_of_isReady hr _).trans (congrArg (done s) (if_neg (by simp [h])))

/-- Settles O25: a write sets its semaphore and the WAIT on it is tested then; the seed, the invalidation and a walk are one branch
each. -/
theorem semaphoreAndSeedWrites : Obligations.SemaphoreAndSeedWrites := ⟨semaphoreWritesHold, seedAndTranslationsHold⟩

end Sys2Proof.Proofs

/-! ## What goes on

Events, accesses to memory, ops and programs that end, franks and ports: none of it resets the module's lifecycle, writes the seed, or
loses a report bound for the management path. `Steady` says so of each operation once. -/

namespace Sys2Proof.Proofs

open Sys2Proof Sys2Proof.Machine Sys2Proof.Laws

/-- The lifecycle and the seed stand, and what is bound for the management path stays bound for it. -/
structure Steady (s t : State) : Prop where
  life  : t.life = s.life
  seed  : t.numerics.seed = s.numerics.seed
  valid : t.numerics.seedValid = s.numerics.seedValid
  bound : s.fw.bound.map (·.1) <+: t.fw.bound.map (·.1)

theorem Steady.of_eq {s t : State} (life : t.life = s.life := by rfl) (seed : t.numerics.seed = s.numerics.seed := by rfl)
    (valid : t.numerics.seedValid = s.numerics.seedValid := by rfl) (bound : t.fw.bound = s.fw.bound := by rfl) : Steady s t :=
  ⟨life, seed, valid, by rw [bound]⟩

theorem Steady.refl (s : State) : Steady s s := .of_eq

theorem Steady.trans {s t u : State} (a : Steady s t) (b : Steady t u) : Steady s u :=
  ⟨b.life.trans a.life, b.seed.trans a.seed, b.valid.trans a.valid, a.bound.trans b.bound⟩

/-- A report on its way stays on its way. -/
theorem Steady.reports {s t : State} (h : Steady s t) {kind code subject : Nat} (r : s.Reports kind code subject) :
    t.Reports kind code subject := by
  obtain ⟨p, hp, told⟩ := r
  obtain ⟨q, hq, same⟩ := List.mem_map.mp (h.bound.subset (List.mem_map_of_mem (f := (·.1)) hp))
  exact ⟨q, hq, by rw [same]; exact told⟩

theorem Steady.foldl {α : Type} {f : State → α → State} (h : ∀ x a, Steady x (f x a)) (l : List α) (s : State) :
    Steady s (l.foldl f s) := by
  induction l generalizing s with
  | nil => exact .refl s
  | cons a l ih => exact (h s a).trans (ih _)

/-- What is steady is so whether it happens or not. -/
theorem Steady.andThen {s x y : State} (h : Steady s x) (c : Prop) [Decidable c] (hy : Steady x y) :
    Steady s (if c then y else x) := by
  split
  exacts [h.trans hy, h]

theorem Steady.onlyIf (s : State) (c : Bool) {f : State → State} (h : ∀ x, Steady x (f x)) : Steady s (s.onlyIf c f) := by
  unfold State.onlyIf; split
  · exact h s
  · exact .refl s

theorem Steady.raise (s : State) (kind code step opTag subject : Nat) (detail : List Byte) :
    Steady s (s.raise kind code step opTag subject detail) := by
  obtain ⟨h, x, b, e, told⟩ := raise_frame s kind code step opTag subject detail
  rw [e]
  exact ⟨rfl, rfl, rfl, by rw [told]; exact List.prefix_append _ _⟩

theorem Steady.fault (s : State) (code opTag subject outcome status unit where_ address : Nat) (columns : List Nat) :
    Steady s (s.fault code opTag subject outcome status unit where_ address columns) := .raise _ _ _ _ _ _ _

theorem Steady.complete (s : State) (n id status : Nat) (hd : Bool) (d : Nat) : Steady s (s.complete n id status hd d) := by
  obtain ⟨h, x, e⟩ := complete_frame s n id status hd d
  rw [e]; exact .of_eq

/-! ### Memory errors met -/

theorem Steady.dirty (s : State) (cause : Nat) : Steady s (s.dirty cause) := .of_eq

theorem Steady.recordRepair (s : State) (a : Nat) : Steady s (s.recordRepair a) := by
  unfold State.recordRepair
  split
  · exact .refl s
  · refine .trans ?_ (.fault _ _ _ _ _ _ _ _ _ _)
    exact .of_eq

/-- R306: a corrected error counted, and told where its memory has told none for a second. -/
def correctedTold (s : State) (a : Nat) : State :=
  let u := s.count (0x480 + 8 * memoryId a) 1
  if (u.mem.corrTime.get none (memoryId a)).any (fun t => decide (u.clock.time < t + 1000000000)) then
    match u.mem.corrAddr.get none (memoryId a) with
    | some _ => u
    | none => { u with mem := { u.mem with corrAddr := u.mem.corrAddr.set none (memoryId a) (some a) } }
  else
    let first := (u.mem.corrAddr.get none (memoryId a)).getD a
    ({ u with mem := { u.mem with
      corrAddr := u.mem.corrAddr.set none (memoryId a) none
      corrTime := u.mem.corrTime.set none (memoryId a) (some u.clock.time) } } : State).fault 7 s.actorTag
        (memoryUnit first) 0 0 (memoryUnit first) 0 (eventAddr first) noColumns

/-- R309: an HBM row's errors are noted, and a row with four in a day is recorded for repair. -/
def rowNoted (u : State) (a : Nat) : State :=
  if memoryId a = 1 then
    let errs := (u.fw.rowErrors.filter (fun p => decide (u.clock.time < p.2 + 86400000000000))) ++ [(a / 4096, u.clock.time)]
    let noted : State := { u with fw := { u.fw with rowErrors := errs } }
    if 4 ≤ (errs.filter (fun p => p.1 == a / 4096)).length then noted.recordRepair a else noted
  else u

theorem corrected_eq (s : State) (a : Nat) : s.corrected a = rowNoted (correctedTold s a) a := rfl

theorem Steady.correctedTold (s : State) (a : Nat) : Steady s (correctedTold s a) := by
  unfold Sys2Proof.Proofs.correctedTold
  dsimp only
  split
  · split <;> exact .of_eq
  · refine .trans ?_ (.fault _ _ _ _ _ _ _ _ _ _)
    exact .of_eq

theorem Steady.rowNoted (s : State) (a : Nat) : Steady s (rowNoted s a) := by
  unfold Sys2Proof.Proofs.rowNoted
  dsimp only
  split
  · refine Steady.andThen ?_ _ (.recordRepair _ _)
    exact .of_eq
  · exact .refl _

theorem Steady.corrected (s : State) (a : Nat) : Steady s (s.corrected a) := (Steady.correctedTold s a).trans (.rowNoted _ a)

theorem Steady.poisonBlock (s : State) (a : Nat) : Steady s (s.poisonBlock a) := by
  have poisoned : ∀ (m : Memory) (tele : SMap Nat), Steady s { s with mem := m, tele := tele } := fun _ _ => .of_eq
  exact (((poisoned _ _).trans (.fault _ _ _ _ _ _ _ _ _ _)).andThen _ (.recordRepair _ _)).andThen _ (.dirty _ _)

theorem Steady.meet (bs : List Nat) (s : State) : Steady s (s.meet bs) := by
  induction bs generalizing s with
  | nil => exact .refl s
  | cons b bs ih =>
    rw [State.meet]
    split
    · exact ih s
    · refine .trans (.trans (t := { s with mem := { s.mem with latent := s.mem.latent.set 0 b 0 } }) .of_eq ?_) (ih _)
      split
      exacts [.corrected _ _, .poisonBlock _ _]

theorem Steady.meetOwn (s : State) (bs : List Nat) : Steady s (s.meetOwn bs) := by
  obtain ⟨life, seed, valid, bound⟩ := Steady.meet bs { s with actor := none }
  exact ⟨life, seed, valid, bound⟩

theorem Steady.meetWalk (s : State) (root : Word) (va : Nat) : Steady s (s.meetWalk root va) := by
  have entries : ∀ (ps : List Nat) (x : State), Steady x (x.meetEntries ps) := by
    intro ps
    induction ps with
    | nil => exact .refl
    | cons p ps ih =>
      intro x
      rw [State.meetEntries]
      split
      · exact .meet _ x
      · exact (Steady.meet _ x).trans (ih _)
  exact entries _ s

/-! ### Writes -/

theorem Steady.send (s : State) (o : Output) : Steady s (s.send o) := .of_eq

theorem Steady.yeEmit (s : State) (m : Nat) (f : YeFrame) : Steady s (s.yeEmit m f) := by
  unfold State.yeEmit
  dsimp only
  split
  exacts [.refl s, .send s _]

theorem Steady.yeWrites (m : Nat) (op : Option Nat) (fuel : Nat) (s : State) (addr : Nat) (bs : List Byte) :
    Steady s (s.yeWrites m addr op fuel bs) := by
  have sent : ∀ (x : State) (typ addr len tag : Nat) (payload : List Byte), Steady x (x.yeSend m typ addr len tag payload op) := by
    intro x typ addr len tag payload
    refine Steady.andThen ?_ _ (.yeEmit _ _ _)
    exact .of_eq
  induction fuel generalizing s addr bs with
  | zero => exact .refl s
  | succ k ih =>
    cases bs with
    | nil => exact .refl s
    | cons b bs => exact (sent s _ _ _ _ _).trans (ih _ _ _)

theorem Steady.writeAt (s : State) (z : Zone) (a : Nat) (bs : List Byte) : Steady s (s.writeAt z a bs).1 := by
  unfold State.writeAt
  split
  · split
    · exact .refl s
    · exact .trans (t := s.draw.2) .of_eq (.yeWrites _ _ _ _ _ _)
  · exact .refl s
  · exact .of_eq

theorem Steady.translate (s : State) (root : Word) (va : Nat) (wr : Bool) : Steady s (s.translate root va wr).1 := by
  have met := Steady.meetWalk s root va
  unfold State.translate
  dsimp only
  split
  · split <;> exact .refl s
  · generalize s.meetWalk root va = u at met ⊢
    split
    · exact met
    · exact met
    · split <;> exact met.trans .of_eq

theorem Steady.resolve (s : State) (root : Word) (allow : Allow) (va n : Nat) (wr : Bool) :
    Steady s (s.resolve root allow va n wr).1 := by
  have met := Steady.translate s root va wr
  unfold State.resolve
  split
  · exact .refl s
  · generalize s.translate root va wr = q at met ⊢
    obtain ⟨u, e | pa⟩ := q
    exacts [met, met]

theorem Steady.redirectTo (s : State) (num page pte base f : Nat) (rest : List Nat) (whole : Bool) :
    Steady s (s.redirectTo num page pte base f rest whole) := by
  have copied : Steady s (s.copyPage base f) := by
    have memory : ∀ (x : State) (m : Memory), Steady x { x with mem := m } := fun _ _ => .of_eq
    have cleared : ∀ x : State, Steady x (x.clearPoison f 0x10000) := fun _ => .of_eq
    unfold State.copyPage
    exact ((Steady.meetOwn s _).trans (memory _ _)).trans ((cleared _).trans (memory _ _))
  have either : Steady s (if whole then s else s.copyPage base f) := by
    split
    exacts [.refl s, copied]
  have pooled : ∀ x : State, Steady x x.poolCheck := by
    intro x
    unfold State.poolCheck
    dsimp only
    split
    · refine .trans ?_ (.raise _ _ _ _ _ _ _)
      exact .of_eq
    · exact .of_eq
  exact (either.trans .of_eq).trans (pooled _)

theorem Steady.redirect (s : State) (root : Word) (va : Nat) (whole : Bool) : Steady s (s.redirect root va whole).1 := by
  have met := Steady.meetWalk s root (va / 0x10000 * 0x10000)
  unfold State.redirect
  dsimp only
  split
  · exact .refl s
  split
  · exact .refl s
  generalize s.meetWalk root (va / 0x10000 * 0x10000) = u at met ⊢
  split
  · split
    · exact met
    split
    · exact met
    split
    · exact met
    split
    exacts [met.trans (.redirectTo _ _ _ _ _ _ _ _), met]
  · exact met
  · exact met

theorem Steady.writePages (root : Word) (allow : Allow) (fuel : Nat) (s : State) (va : Nat) (bs : List Byte) :
    Steady s (s.writePages root allow fuel va bs).1 := by
  induction fuel generalizing s va bs with
  | zero => exact .refl s
  | succ k ih =>
    rw [State.writePages]
    split
    · exact .refl s
    have prepared := Steady.redirect s root va (inPage va bs.length == 0x10000)
    dsimp only
    generalize s.redirect root va (inPage va bs.length == 0x10000) = r at prepared ⊢
    obtain ⟨u, p⟩ := r
    cases p with
    | ready =>
      have resolved := prepared.trans (.resolve u root allow va (inPage va bs.length) true)
      dsimp only
      generalize u.resolve root allow va (inPage va bs.length) true = q at resolved ⊢
      obtain ⟨v, e | ⟨z, l⟩⟩ := q
      · exact resolved
      have written := resolved.trans (.writeAt v z l (bs.take (inPage va bs.length)))
      dsimp only
      generalize v.writeAt z l (bs.take (inPage va bs.length)) = w at written ⊢
      obtain ⟨x, e | ok⟩ := w
      exacts [written, written.trans (ih _ _ _)]
    | fault => exact prepared
    | bad b => exact prepared
    | waitsProof => exact prepared
    | exhausted => exact (prepared.trans (.raise _ _ _ _ _ _ _)).trans (.dirty _ _)

theorem Steady.writeVirt (s : State) (root : Word) (allow : Allow) (va : Nat) (bs : List Byte) :
    Steady s (s.writeVirt root allow va bs).1 := .writePages root allow _ s va bs

/-! ### Ops and programs that end -/

theorem Steady.settleProgram (s : State) (ring : Nat) : Steady s (s.settleProgram ring) := by
  obtain ⟨h, x, ps, e⟩ := settleProgram_frame s ring
  rw [e]; exact .of_eq

theorem Steady.dropUnissued (s : State) (ring : Nat) : Steady s (s.dropUnissued ring) :=
  (Steady.foldl (f := State.dropOpening) (fun _ _ => .of_eq) _ s).trans .of_eq

theorem Steady.dropOp (s : State) (id : Nat) : Steady s (s.dropOp id) := .of_eq

theorem Steady.setProgram (s : State) (p : Program) : Steady s (s.setProgram p) := .of_eq

theorem Steady.stepStatus (s : State) (step : Option Nat) (status : Nat) : Steady s (s.stepStatus step status) := by
  unfold State.stepStatus
  split
  · split
    · exact .of_eq
    · exact .refl s
  · exact .refl s

theorem Steady.closeOp (s : State) (o : Op) (status : Nat) (d : Option Word) : Steady s (s.closeOp o status d) := by
  unfold State.closeOp
  dsimp only
  generalize h : State.dropOp _ o.id = left
  have base : Steady s left := by
    rw [← h]
    exact .trans (.trans (.trans (.trans (.trans (.stepStatus s o.step status) (.onlyIf _ _ fun _ => .of_eq))
      (.onlyIf _ _ fun _ => .of_eq)) (.onlyIf _ _ fun _ => .of_eq)) (.onlyIf _ _ fun _ => .of_eq))
      (.dropOp _ _)
  have noted : ∀ p, Steady s (left.setProgram p) := fun p => base.trans .of_eq
  refine .trans ?_ (.settleProgram _ _)
  split
  · refine .trans ?_ (.dropUnissued _ _)
    split
    exacts [base, noted _]
  · split
    exacts [base, noted _]

theorem Steady.writeResult {s t : State} {o : Op} {status st : Nat} {d d' : Option Word} {record : Nat → List Byte}
    (h : s.writeResult o status d record = some (t, st, d')) : Steady s t := by
  have written := Steady.writeVirt s (s.rootOf o.ring) allowOps o.resultAddr (record status)
  unfold State.writeResult at h
  dsimp only at h
  split at h
  · cases h; exact .refl s
  split at h
  · cases h; exact .refl s
  split at h
  next e => cases h; rwa [e] at written
  next => cases h
  next _ e =>
    rw [e] at written
    split at h <;> cases h <;> exact written

theorem Steady.finishTelling {s t : State} {o : Op} {status : Nat} {d : Option Word} {record : Nat → List Byte}
    {tell : State → Nat → State} (told : ∀ x n, Steady x (tell x n))
    (h : s.finishTelling o status d record tell = some t) : Steady s t := by
  unfold State.finishTelling at h
  split at h
  · cases h
  next e => cases h; exact ((Steady.writeResult e).trans (told _ _)).trans (.closeOp _ _ _ _)

theorem Steady.finishNowTelling {o : Op} {tell : State → Nat → State} (s : State) (status : Nat) (d : Option Word)
    (record : Nat → List Byte) (told : ∀ x n, Steady x (tell x n)) : Steady s (s.finishNowTelling o status d record tell) := by
  unfold State.finishNowTelling
  split
  next e => exact .finishTelling told e
  next =>
    dsimp only
    rcases h : s.finishTelling { o with desc := patch o.desc (resultOffset o.kind) (zeros 8) } status d record tell with _ | t
    · exact .refl s
    · exact .finishTelling told h

theorem Steady.finishNow (s : State) (o : Op) (status : Nat) (d : Option Word) (record : Nat → List Byte) :
    Steady s (s.finishNow o status d record) := .finishNowTelling s status d record fun x _ => .refl x

theorem Steady.stopList (s : State) (p : Program) (status : Nat) (tag : BitVec 32) (d : Option Word) :
    Steady s (s.stopList p status tag d) :=
  .trans (.trans (.setProgram s _) (.dropUnissued _ _)) (.settleProgram _ _)

theorem Steady.endCmdWith (s : State) (id status detail : Nat) : Steady s (s.endCmdWith id status detail) := by
  unfold State.endCmdWith
  split
  · exact .refl s
  · exact .complete _ _ _ _ _ _

/-! ### Franks released -/

/-- R361: what one op drew goes into its class's table. -/
theorem Steady.attributeAll_singleton (s : State) (f : Frank) : Steady s (s.attributeAll [f]) := by
  have drawn : Steady s (s.opPower f).1 := by
    unfold State.opPower; split <;> exact .of_eq
  have set : ∀ x : EnergyClass, Steady s ((s.opPower f).1.setClass f.cls x) := fun x => drawn.trans .of_eq
  exact ((set _).andThen _ (.raise _ _ _ _ _ _ _)).andThen _ (.trans (.raise _ _ _ _ _ _ _) .of_eq)

theorem Steady.clearOp (s : State) (op : Nat) : Steady s (s.clearOp op) := by
  have attributed : ∀ (fs : List Frank) (x : State), Steady x (x.attributeAll fs) := by
    intro fs
    induction fs with
    | nil => exact .refl
    | cons f fs ih => exact fun x => (Steady.attributeAll_singleton x f).trans (ih _)
  have released : Steady s (s.releaseFranks op) := Steady.trans (t := { s with power := _ }) .of_eq (attributed _ _)
  exact released.trans .of_eq

/-! ### Ports and what is kept for peers -/

theorem Steady.failActor (s : State) (id status : Nat) (d : Option Word) : Steady s (s.failActor id status d) := by
  unfold State.failActor
  split
  · unfold State.failOp
    split
    · exact .refl s
    · exact .trans (.finishNow _ _ _ _ _) (.clearOp _ _)
  · refine .trans (.clearOp s id) ?_
    split
    · exact .stopList _ _ _ _ _
    · exact .endCmdWith _ _ _ _

theorem Steady.checkPair (s : State) (m : Nat) : Steady s (s.checkPair m) := by
  have failed : ∀ (ids : List Nat) (x : State), Steady x (x.failPeerOps m 0x42 ids) := by
    intro ids
    induction ids with
    | nil => exact .refl
    | cons i is ih =>
      refine fun x => .trans ?_ (ih _)
      split
      · exact .failActor _ _ _ _
      · exact .refl x
  unfold State.checkPair
  split
  · exact failed _ s
  · exact .refl s

theorem Steady.yeReplay (m : Nat) (fs : List YeFrame) (s : State) : Steady s (s.yeReplay m fs) := by
  induction fs generalizing s with
  | nil => exact .refl s
  | cons f fs ih => exact .trans (.yeEmit s m f) (ih _)

theorem Steady.sendPackets (node kind start : Nat) (h : NptHeader) (bytes : List Byte) (is : List Nat) (s : State) :
    Steady s (s.sendPackets node kind start h bytes is) := by
  induction is generalizing s with
  | nil => exact .refl s
  | cons i is ih => exact .trans (.send s _) (ih _)

theorem Steady.nptSend (s : State) (node kind : Nat) (h : NptHeader) (payload : List Byte) :
    Steady s (s.nptSend node kind h payload) := by
  unfold State.nptSend
  split
  · exact .refl s
  · exact .sendPackets _ _ _ _ _ _ s

theorem Steady.sendHello (s : State) (node kind : Nat) : Steady s (s.sendHello node kind) := .nptSend s _ _ _ _

theorem Steady.putChunk (s : State) (c : OutChunk) : Steady s (s.putChunk c) := by
  unfold State.putChunk
  split
  · exact (Steady.sendPackets _ _ _ _ _ _ s).trans .of_eq
  · exact .of_eq

theorem Steady.resumeNpt (s : State) : Steady s s.resumeNpt := by
  have chunks : ∀ (cs : List OutChunk) (x : State), Steady x (x.putChunks cs) := by
    intro cs
    induction cs with
    | nil => exact .refl
    | cons c cs ih => exact fun x => .trans (.putChunk x c) (ih _)
  have hellos : ∀ (ns : List Nat) (x : State), Steady x (x.helloNodes ns) := by
    intro ns
    induction ns with
    | nil => exact .refl
    | cons n ns ih =>
      refine fun x => .trans ?_ (ih _)
      split
      · exact .refl x
      · exact .sendHello x n 4
  exact (chunks _ s).trans (hellos _ _)

theorem Steady.resumePort (s : State) (p : Nat) : Steady s (s.resumePort p) := by
  unfold State.resumePort
  split
  · refine .trans (.trans ?_ (.yeReplay _ _ _)) (.checkPair _ _)
    split
    · exact .refl s
    · exact .of_eq
  · split
    · exact .resumeNpt s
    · exact .trans (t := s.rewait p) .of_eq (.resumeNpt _)

theorem Steady.linkEvent (s : State) (code subject : Nat) (detail : List Byte) :
    Steady s (s.linkEvent code subject detail) := .raise _ _ _ _ _ _ _

theorem Steady.setPort (s : State) (p : Nat) (x : Port) : Steady s (s.setPort p x) := .of_eq

theorem Steady.takeDown (s : State) (p cause : Nat) : Steady s (s.takeDown p cause) := by
  unfold State.takeDown State.portFalls
  dsimp only
  have fell := Steady.setPort s p { s.port p with state := portDown, dead := 0, negMinor := 0, heard := none, nextHop := none }
  have told := fell.andThen (decide (2 ≤ (s.port p).state) = true) (.linkEvent _ 2 p (leBytes 1 cause))
  exact (told.andThen _ (.setPort _ _ _)).andThen _ (.resumePort _ _)

theorem Steady.evaluate (s : State) (p : Nat) : Steady s (s.evaluate p) := by
  have moved : ∀ (x : Port) (code : Nat) (bs : List Byte), Steady s ((s.setPort p x).linkEvent code p bs) :=
    fun x code bs => .trans (.setPort s p x) (.linkEvent _ _ _ _)
  unfold State.evaluate
  dsimp only
  split
  · exact .refl s
  split
  · split
    · exact .refl s
    · exact (moved _ _ _).trans (.resumePort _ _)
  · split
    · exact .setPort s p _
    split
    · exact (moved _ _ _).trans (.resumePort _ _)
    · exact (moved _ _ _).andThen _ (.checkPair _ _)

theorem Steady.applyTopo (s : State) (p : Nat) : Steady s (s.applyTopo p) := by
  unfold State.applyTopo
  dsimp only
  split
  · split
    exacts [.refl s, .takeDown s p 4]
  split
  · split
    exacts [.setPort s p _, .refl s]
  split
  exacts [.refl s, .evaluate s p]

theorem Steady.ethLoopWrite (p : Fin 24) (a : RegAccess) (s : State) : Steady s (ethLoopWrite p a s) := by
  unfold Machine.ethLoopWrite
  dsimp only
  split
  · exact .refl s
  split
  · exact .of_eq
  · exact .trans .of_eq (.takeDown _ _ _)

end Sys2Proof.Proofs

/-! ## Programs, what they latch, and the seed

An OP_PROGRAM latches PT_ROOT and JOB_SEED (R29, R97). HANDOVER destroys the seed (R392), and nothing it does after that writes one. -/

namespace Sys2Proof.Proofs

open Sys2Proof Sys2Proof.Machine Sys2Proof.Laws

/-- At READY a command that does not have to wait happens. -/
theorem whenReadyOr_some {s t : State} {f : State → Option State} (hr : s.isReady = true) (h : f s = some t) :
    whenReadyOr s f = done s t := by
  rw [whenReadyOr, if_pos hr, h]
  rfl

/-! ### The seed stands -/

/-- JOB_SEED and whether it is set are as before. -/
structure KeepsSeed (s t : State) : Prop where
  seed  : t.numerics.seed = s.numerics.seed
  valid : t.numerics.seedValid = s.numerics.seedValid

theorem Steady.keepsSeed {s t : State} (h : Steady s t) : KeepsSeed s t := ⟨h.seed, h.valid⟩

theorem KeepsSeed.of_numerics {s t : State} (h : t.numerics = s.numerics := by rfl) : KeepsSeed s t :=
  ⟨congrArg Numerics.seed h, congrArg Numerics.seedValid h⟩

theorem KeepsSeed.trans {s t u : State} (a : KeepsSeed s t) (b : KeepsSeed t u) : KeepsSeed s u :=
  ⟨b.seed.trans a.seed, b.valid.trans a.valid⟩

/-! ### HANDOVER (R392, R393) -/

theorem Steady.switchColumn (s : State) (c : Nat) : Steady s (s.switchColumn c) := by
  unfold State.switchColumn
  dsimp only
  generalize (if c / 200 = 0 then s.plate.spares0 else s.plate.spares1) = m
  split
  · exact .refl s
  · refine .trans ?_ (.raise _ _ _ _ _ _ _)
    split <;> exact .of_eq

theorem Steady.switchIfIdle (s : State) : Steady s s.switchIfIdle := by
  have columns : ∀ (cs : List Nat) (x : State), Steady x (x.switchColumns cs) := by
    intro cs
    induction cs with
    | nil => exact .refl
    | cons c cs ih => exact fun x => .trans (.switchColumn x c) (ih _)
  have events : ∀ (ds : List Nat) (x : State), Steady x (x.spareEvents ds) := by
    intro ds
    induction ds with
    | nil => exact .refl
    | cons d ds ih => exact fun x => .trans (.raise x _ _ _ _ _ _) (ih _)
  unfold State.switchIfIdle
  split
  · exact (columns _ s).trans (.trans (t := { s.switchColumns s.plate.scheduled with plate := _ }) .of_eq (events _ _))
  · exact .refl s

theorem Steady.sendLldps (ps : List Nat) (s : State) : Steady s (s.sendLldps ps) := by
  induction ps generalizing s with
  | nil => exact .refl s
  | cons p ps ih =>
    refine .trans ?_ (ih _)
    unfold State.sendLldp
    split
    exacts [.of_eq, .refl s]

theorem Steady.applyTopos (ps : List Nat) (s : State) : Steady s (s.applyTopos ps) := by
  induction ps generalizing s with
  | nil => exact .refl s
  | cons p ps ih => exact (Steady.applyTopo s p).trans (ih _)

theorem Steady.reopenAll (s : State) : Steady s s.reopenAll :=
  .trans (t := { s with net := { s.net with sessions := [] } }) .of_eq (.foldl (fun x n => .sendHello x n 4) _ _)

theorem Steady.restartCores (cs : List Nat) (s : State) : Steady s (s.restartCores cs) := by
  induction cs generalizing s with
  | nil => exact .refl s
  | cons c cs ih => exact .trans (.raise s _ _ _ _ _ _) (ih _)

theorem Steady.closeSessions (s : State) : Steady s s.closeSessions :=
  (((Steady.refl s).andThen _ (.raise _ _ _ _ _ _ _)).andThen _ (.raise _ _ _ _ _ _ _)).trans .of_eq

theorem KeepsSeed.resetTests (s : State) : KeepsSeed s s.resetTests := by
  have loops : ∀ (x : State) (p : Nat), Steady x (if h : p < 24 then Machine.ethLoopWrite ⟨p, h⟩ (.wide 0) x else x) := by
    intro x p
    split
    exacts [.ethLoopWrite _ _ x, .refl x]
  exact (Steady.foldl loops allPorts s).keepsSeed.trans .of_numerics

theorem KeepsSeed.resetBlocks (s : State) : KeepsSeed s s.resetBlocks := by
  have blocks : ∀ (a : Plate) (b : Net) (c : Proof), Steady s { s with plate := a, net := b, proof := c } := fun _ _ _ => .of_eq
  exact (((blocks _ _ _).trans (.sendLldps allPorts _)).trans (.reopenAll _)).trans (.applyTopos allPorts _) |>.keepsSeed
    |>.trans (.resetTests _) |>.trans (Steady.switchIfIdle _).keepsSeed

/-- R392 step 2: the seed is destroyed; a key register that did not read back as zero keeps what is not stated (log 10). -/
theorem scrubAll_destroys (s : State) (keysZero : Bool) :
    (s.scrubAll keysZero).numerics.seedValid = false ∧ (keysZero = true → (s.scrubAll keysZero).numerics.seed = 0) := by
  unfold State.scrubAll
  cases keysZero with
  | true => exact ⟨(Steady.closeSessions _).valid, fun _ => (Steady.closeSessions _).seed⟩
  | false => simp only [Bool.false_eq_true, if_false]; exact ⟨((Steady.closeSessions _).trans (.raise _ _ _ _ _ _ _)).valid, nofun⟩

/-- What HANDOVER does once the registers are cleared keeps the seed as they left it. -/
theorem handover_keeps {s : State} {ring : Fin 64} {c : FetchedCmd} (run : HandoverRun) (due : s.Due ring.val cmdHandover c)
    (header : c.headerBad = false) (rest : c.restBad 0x10 = false) : ∃ t, handover ring run s = some t ∧
      KeepsSeed ((s.markStarted ring.val c.id cmdHandover).scrubAll run.keysZero) t := by
  cases e : handover ring run s with
  | none => simp [handover, startCmd_due due, header, rest] at e
  | some t =>
    refine ⟨t, rfl, ?_⟩
    simp only [handover, startCmd_due due, header, rest, Bool.or_self, Bool.false_eq_true, if_false, Option.some.injEq] at e
    generalize (s.markStarted ring.val c.id cmdHandover).scrubAll run.keysZero = u at e ⊢
    have cores := (KeepsSeed.resetBlocks u).trans (Steady.restartCores u.resetBlocks.coresInService _).keepsSeed
    have counted : ∀ x : Firmware, KeepsSeed u { u.resetBlocks.restartCores u.resetBlocks.coresInService with fw := x } :=
      fun _ => cores.trans .of_numerics
    have left : ∀ (x : State) (l : Life), KeepsSeed u x → KeepsSeed u { x with life := l } := fun _ _ h => h.trans .of_numerics
    rw [← e]
    refine .trans (left _ _ ?_) (Steady.complete _ _ _ _ _ _).keepsSeed
    split
    exacts [cores, (counted _).trans (Steady.raise _ _ _ _ _ _ _).keepsSeed]

/-- R97: HANDOVER destroys the seed. -/
theorem handover_destroys {s : State} {ring : Fin 64} {c : FetchedCmd} (run : HandoverRun) (due : s.Due ring.val cmdHandover c)
    (header : c.headerBad = false) (rest : c.restBad 0x10 = false) :
    ∃ t, exec (.handover ring run) s = .next t ∧ t.numerics.seedValid = false ∧ (run.keysZero = true → t.numerics.seed = 0) := by
  obtain ⟨t, e, keeps⟩ := handover_keeps run due header rest
  obtain ⟨invalid, zero⟩ := scrubAll_destroys (s.markStarted ring.val c.id cmdHandover) run.keysZero
  exact ⟨_, whenReadyOr_some due.ready e, keeps.valid.trans invalid, fun h => keeps.seed.trans (zero h)⟩

/-! ### Programs (R29, R97) -/

section

variable (s : State) (n id t : Nat)

@[simp] theorem markStarted_mem : (s.markStarted n id t).mem = s.mem := by obtain ⟨h, l, e⟩ := markStarted_rest s n id t; rw [e]
@[simp] theorem markStarted_numerics : (s.markStarted n id t).numerics = s.numerics := by
  obtain ⟨h, l, e⟩ := markStarted_rest s n id t; rw [e]
@[simp] theorem markStarted_stepFailed : (s.markStarted n id t).stepFailed = s.stepFailed := by
  obtain ⟨h, l, e⟩ := markStarted_rest s n id t; rw [e]; rfl

end

/-- R29, R97: the program that an OP_PROGRAM starts has PT_ROOT and the seed as they stand. -/
theorem opProgram_latches {s : State} {ring : Fin 64} {c : FetchedCmd} (due : s.Due ring.val cmdOpProgram c)
    (header : c.headerBad = false) (rest : c.restBad 0x18 = false) (dev : devBad (c.w 0x10) = false)
    (virt : bit (c.w 0x10) 63 = true) (aligned : c.w 0x10 % 128 = 0) (unfailed : s.stepFailed = false) :
    ∃ t p, exec (.opProgram ring) s = .next t ∧ p ∈ t.seq.programs ∧ p.cmd = c.id ∧ p.root = s.mem.ptRoot ∧
      p.seed = s.numerics.seed := by
  let u := s.markStarted ring.val c.id cmdOpProgram
  have started : opProgram ring s = some { u with seq := { u.seq with
      programs := u.seq.programs ++ [u.newProgram ring.val c.id (c.w 0x10 % 2 ^ 48)]
      branches := u.seq.branches.set none ring.val none } } := by
    simp only [opProgram, startCmd_due due, header, rest, dev, virt, aligned, markStarted_stepFailed, unfailed]
    rfl
  refine ⟨_, u.newProgram ring.val c.id (c.w 0x10 % 2 ^ 48), whenReadyOr_some due.ready started, ?_, rfl, ?_, ?_⟩
  · exact List.mem_append_right _ (List.mem_singleton_self _)
  · exact congrArg Memory.ptRoot (markStarted_mem s _ _ _)
  · exact congrArg Numerics.seed (markStarted_numerics s _ _ _)

/-- A program put in the place of its ring's is the ring's. -/
theorem program_setProgram {s : State} {ring : Nat} {p : Program} (h : s.program ring = some p) (q : Program) (hq : q.ring = ring) :
    (s.setProgram q).program ring = some q := by
  have same : (fun x : Program => (if x.ring = q.ring then q else x).ring == ring) = fun x => x.ring == ring := by
    funext x
    split
    next e => rw [e]
    next => rfl
  simp only [State.program, State.setProgram, List.find?_map, Function.comp_def, same]
  rw [show s.seq.programs.find? (fun x => x.ring == ring) = some p from h, Option.map_some, if_pos (by rw [hq, program_ring h])]

/-- With nothing wanted of a tray peer, an event is not put off (R22). -/
theorem afterPeers_noneWanted (s : State) {t : State} (h : t.NoneWanted) :
    s.afterPeers t = t.dropWindows ((t.actor.map (·.1)).getD 0) := by
  refine if_neg ?_
  simp only [List.any_eq_true, not_exists, not_and, Bool.not_eq_true', Bool.not_eq_false, List.isEmpty_iff]
  exact h

/-- The op an OP_TAKE makes of the bytes it read, and the module with it in the window, its program gone on (R436). -/
def takenOp (id ring addr : Nat) (bs : List Byte) : Op :=
  { id := id, ring := ring, kind := field bs 0 1, addr := addr, desc := bs, phase := .taken, step := none
    issueTime := 0, sum := 0, begun := false, ending := none }
def withTaken (s : State) (p : Program) (o : Op) : State :=
  ({ s.fresh.2 with seq := { s.seq with window := s.seq.window ++ [o] } } : State).setProgram { p with next := o.follow }

/-- R29, R97: the op an OP_TAKE takes enters the window, and its program goes on with what it latched. -/
theorem opTake_keeps_latches {s s0 s1 : State} {ring : Fin 64} {p : Program} {a : Nat} {bs : List Byte} (hr : s.isReady = true)
    (program : s.program ring.val = some p) (pnext : p.next = some a) (running : p.stopped = false) (room : s.seq.window.length < 16)
    (draws : s.drawsFrom ring.val = true)
    (read : ({ s with actor := some (p.cmd, 0) } : State).readVirt p.root allowOps a 128 = (s0, .ok bs))
    (hidden : s0.meetHidden 7 a = (s1, false)) (arrived : s1.NoneWanted) (lo : field bs 0 1 ≠ 0) (hi : field bs 0 1 ≤ 8)
    (checked : field bs 0 1 = opMatmul → ∀ o : Op, o.desc = bs → matTakeCheck o p.check = 0) (still : s1.program ring.val = some p) :
    ∃ t q o, exec (.opTake ring) s = .next t ∧ o ∈ t.seq.window ∧ o.desc = bs ∧ t.program ring.val = some q ∧
      q.root = p.root ∧ q.seed = p.seed := by
  have clean : takeChecks p (takenOp s1.nextId ring.val a bs) = 0 := by
    unfold takeChecks
    split
    next matmul => exact checked matmul _ rfl
    next => rfl
  have kinds : ¬ (field bs 0 1 = 0 ∨ 8 < field bs 0 1) := by omega
  have draw : ¬ (p.stopped || decide (16 ≤ s.seq.window.length) || !s.drawsFrom ring.val) = true := by
    simp [running, draws, room]
  have takes : opTake ring s = some (withTaken s1 p (takenOp s1.nextId ring.val a bs)) := by
    unfold opTake
    simp only [program, pnext, read, hidden, if_neg draw, if_neg kinds, Bool.false_eq_true, if_false]
    exact if_pos clean
  have answers : exec (.opTake ring) s = done s (s.afterPeers (withTaken s1 p (takenOp s1.nextId ring.val a bs))) := by
    change done s (if s.isReady then ((opTake ring s).map s.afterPeers).getD s else s) = _
    rw [if_pos hr, takes]
    rfl
  have ring_eq : p.ring = ring.val := program_ring program
  rw [answers, afterPeers_noneWanted s (t := withTaken s1 p (takenOp s1.nextId ring.val a bs)) arrived]
  exact ⟨_, { p with next := (takenOp s1.nextId ring.val a bs).follow }, takenOp s1.nextId ring.val a bs, rfl,
    List.mem_append_right _ (List.mem_singleton_self _), rfl, program_setProgram still _ ring_eq, rfl, rfl⟩

/-- Settles O59: programs are latched where they start; of what HANDOVER does after clearing the seed, nothing writes one. -/
theorem programsLatchRootAndSeed : Obligations.ProgramsLatchRootAndSeed := by
  refine ⟨fun s ring c => opProgram_latches, fun s s0 s1 ring p a bs => opTake_keeps_latches, fun s v hr => ⟨?root, ?seed⟩,
    fun s ring c run => handover_destroys run, fun _ => rfl⟩
  case root =>
    obtain ⟨-, -, -, -, -, -, root, -⟩ := setupWritesHold s (.wide v) hr
    exact ⟨_, root, rfl⟩
  case seed => exact ⟨_, whenReady_of_isReady hr _, rfl, rfl⟩

end Sys2Proof.Proofs

/-! ## The doorbell page and the fetching of commands

What events leave of the host side, what reserved types that are due do, and with these the polls and fetches. -/

namespace Sys2Proof.Proofs

open Sys2Proof Sys2Proof.Machine Sys2Proof.Laws

/-! ### Events and the host side

Raising an event writes to the host, or holds what it cannot write; of the host side it moves the event buffer and its counts. -/

/-- What has been sent or held since `s` follows what was; of the host side, only the buffer of events, its counts and the pending
interrupts have moved besides. -/
structure Told (s t : State) : Prop where
  sent : ∃ more, t.outbox = s.outbox ++ more
  held : ∃ more, t.host.held = s.host.held ++ more
  rest : { t.host with
    held := s.host.held, msixPend := s.host.msixPend, buffer := s.host.buffer, dropped := s.host.dropped
    droppedNew := s.host.droppedNew, eqWritten := s.host.eqWritten } = s.host

theorem Told.of_eq {s t : State} (ho : t.outbox = s.outbox := by rfl) (hh : t.host = s.host := by rfl) : Told s t :=
  ⟨⟨[], by simp [ho]⟩, ⟨[], by simp [hh]⟩, by rw [hh]⟩

theorem Told.refl (s : State) : Told s s := .of_eq

theorem Told.trans {s t u : State} (a : Told s t) (b : Told t u) : Told s u where
  sent := by
    obtain ⟨x, hx⟩ := a.sent
    obtain ⟨y, hy⟩ := b.sent
    exact ⟨x ++ y, by rw [hy, hx, List.append_assoc]⟩
  held := by
    obtain ⟨x, hx⟩ := a.held
    obtain ⟨y, hy⟩ := b.held
    exact ⟨x ++ y, by rw [hy, hx, List.append_assoc]⟩
  rest := (congrArg (fun h : HostSide => { h with
    held := s.host.held, msixPend := s.host.msixPend, buffer := s.host.buffer, dropped := s.host.dropped
    droppedNew := s.host.droppedNew, eqWritten := s.host.eqWritten }) b.rest).trans a.rest

theorem Told.andThen {s x y : State} (h : Told s x) (c : Prop) [Decidable c] (hy : Told x y) : Told s (if c then y else x) := by
  split
  exacts [h.trans hy, h]

section

variable {s t : State} (h : Told s t)
include h

theorem Told.rings : t.host.rings = s.host.rings := (congrArg HostSide.rings h.rest :)
theorem Told.ring (n : Nat) : t.ring n = s.ring n := ring_of_rings h.rings n
theorem Told.polling : t.host.polling = s.host.polling := (congrArg HostSide.polling h.rest :)
theorem Told.failedPolls : t.host.failedPolls = s.host.failedPolls := (congrArg HostSide.failedPolls h.rest :)
theorem Told.faultTime : t.host.faultTime = s.host.faultTime := (congrArg HostSide.faultTime h.rest :)
theorem Told.eqConsumed : t.host.eqConsumed = s.host.eqConsumed := (congrArg HostSide.eqConsumed h.rest :)

end

theorem Told.send (s : State) (o : Output) : Told s (s.send o) := ⟨⟨[o], rfl⟩, ⟨[], by simp⟩, rfl⟩

theorem Told.sendHost (s : State) (o : Output) : Told s (s.sendHost o) := by
  unfold State.sendHost
  split
  · exact .send s o
  · exact ⟨⟨[], by simp⟩, ⟨_, rfl⟩, rfl⟩

theorem Told.fireVector (s : State) (v : Nat) : Told s (s.fireVector v) := by
  unfold State.fireVector
  split
  · exact ⟨⟨[], by simp⟩, ⟨[], by simp⟩, rfl⟩
  · exact .sendHost s _

theorem Told.drainEvents (fuel : Nat) (s : State) : Told s (State.drainEvents fuel s) := by
  induction fuel generalizing s with
  | zero => exact .refl s
  | succ k ih =>
    rw [State.drainEvents]
    split
    · exact .refl s
    split
    · refine .trans (.trans ?_ (.fireVector _ 64)) (ih _)
      exact ⟨⟨_, rfl⟩, ⟨[], by simp⟩, rfl⟩
    · exact .refl s

theorem Told.raise (s : State) (kind code step opTag subject : Nat) (detail : List Byte) :
    Told s (s.raise kind code step opTag subject detail) := by
  have buffered : ∀ (x : State) (e : EventRec), Told x (x.buffer e) := by
    intro x e
    unfold State.buffer
    split
    · refine .trans ?_ (.drainEvents _ _)
      exact ⟨⟨[], by simp⟩, ⟨[], by simp⟩, rfl⟩
    · exact ⟨⟨[], by simp⟩, ⟨[], by simp⟩, rfl⟩
  have bound : ∀ (c : Prop) [Decidable c] (x : Firmware), Told s (if c then { s with fw := x } else s) := by
    intro c _ x
    split
    exacts [.of_eq, .refl s]
  unfold State.raise
  dsimp only
  split
  · exact bound _ _
  · exact (bound _ _).trans (buffered _ _)

/-! ### Memory errors met -/

theorem Told.fault (s : State) (code opTag subject outcome status unit where_ address : Nat) (columns : List Nat) :
    Told s (s.fault code opTag subject outcome status unit where_ address columns) := .raise _ _ _ _ _ _ _

theorem Told.recordRepair (s : State) (a : Nat) : Told s (s.recordRepair a) := by
  unfold State.recordRepair
  split
  · exact .refl s
  · refine .trans ?_ (.fault _ _ _ _ _ _ _ _ _ _)
    exact .of_eq

theorem Told.correctedTold (s : State) (a : Nat) : Told s (correctedTold s a) := by
  unfold Proofs.correctedTold
  dsimp only
  split
  · split <;> exact .of_eq
  · refine .trans ?_ (.fault _ _ _ _ _ _ _ _ _ _)
    exact .of_eq

theorem Told.rowNoted (u : State) (a : Nat) : Told u (rowNoted u a) := by
  unfold Proofs.rowNoted
  dsimp only
  split
  · refine Told.andThen ?_ _ (.recordRepair _ _)
    exact .of_eq
  · exact .refl u

theorem Told.corrected (s : State) (a : Nat) : Told s (s.corrected a) := (Told.correctedTold s a).trans (.rowNoted _ a)

theorem Told.poisonBlock (s : State) (a : Nat) : Told s (s.poisonBlock a) := by
  have poisoned : ∀ (m : Memory) (tele : SMap Nat), Told s { s with mem := m, tele := tele } := fun _ _ => .of_eq
  exact (((poisoned _ _).trans (.fault _ _ _ _ _ _ _ _ _ _)).andThen _ (.recordRepair _ _)).andThen _ .of_eq

theorem Told.meet (bs : List Nat) (s : State) : Told s (s.meet bs) := by
  induction bs generalizing s with
  | nil => exact .refl s
  | cons b bs ih =>
    rw [State.meet]
    split
    · exact ih s
    · refine .trans (.trans (t := { s with mem := { s.mem with latent := s.mem.latent.set 0 b 0 } }) .of_eq ?_) (ih _)
      split
      exacts [.corrected _ _, .poisonBlock _ _]

theorem Told.meetHidden (s : State) (memory use : Nat) : Told s (s.meetHidden memory use).1 := .meet _ s

/-! ### Records since a state -/

/-- What is recorded after more has been sent or held is recorded since the state before. -/
theorem recorded_since {s u t : State} (sent : ∃ more, u.outbox = s.outbox ++ more) (held : ∃ more, u.host.held = s.host.held ++ more)
    {ring cq : Nat} {c : FetchedCmd} {status : Nat} {hd : Bool} {d : Nat} (r : u.Recorded t ring cq c status hd d) :
    s.Recorded t ring cq c status hd d := by
  obtain ⟨x, hx⟩ := sent
  obtain ⟨y, hy⟩ := held
  rcases r with ⟨more, addr, phase, elapsed, sent, mem⟩ | ⟨more, held, mem⟩
  · exact .inl ⟨x ++ more, addr, phase, elapsed, by rw [sent, hx, List.append_assoc], List.mem_append_right _ mem⟩
  · obtain ⟨told, mem⟩ := mem
    exact .inr ⟨y ++ more, by rw [held, hy, List.append_assoc], told, List.mem_append_right _ mem⟩

/-- Completing a command leaves the other rings as they are. -/
theorem complete_ring_other (s : State) {n m : Nat} (h : m ≠ n) (id status : Nat) (hd : Bool) (d : Nat) :
    (s.complete n id status hd d).ring m = s.ring m := by
  unfold State.complete
  dsimp only
  split
  · rfl
  split
  · exact (ring_of_rings (writeRecord_rings _ _ _ _ _ _ _ _ _ _) m).trans (ring_setRing_other s n m _ h)
  · exact ring_setRing_other s n m _ h

/-! ### Reserved types that are due (R200) -/

/-- The command next to start on each ring has a type of the table. -/
def NoneReserved (s : State) : Prop := ∀ n c, (s.ring n).waiting = some c → knownType c.typ = true

/-- Nothing completes for a ring whose next command is of the table. -/
theorem settleReserved_known {n : Nat} {s : State} (h : ∀ c, (s.ring n).waiting = some c → knownType c.typ = true) (fuel : Nat) :
    State.settleReserved fuel n s = s := by
  cases fuel with
  | zero => rfl
  | succ k =>
    rw [State.settleReserved]
    split
    · rfl
    next c waiting => simp [h c waiting]

theorem settleAllReserved_known {s : State} (h : NoneReserved s) : s.settleAllReserved = s := by
  unfold State.settleAllReserved
  induction s.host.rings.map (·.1) with
  | nil => rfl
  | cons n ns ih => rw [List.foldl_cons, settleReserved_known (h n), ih]

/-- R200: a reserved type whose turn has come completes with BAD_DESCRIPTOR. -/
theorem settleReserved_due {n : Nat} {s : State} {c : FetchedCmd} (waiting : (s.ring n).waiting = some c)
    (reserved : knownType c.typ = false) (may : s.mayStart n c = true)
    (after : ∀ d, ((s.badCmd n c).ring n).waiting = some d → knownType d.typ = true) (fuel : Nat) :
    State.settleReserved (fuel + 1) n s = s.badCmd n c := by
  rw [State.settleReserved, waiting]
  simp only [reserved, may, Bool.not_false, Bool.and_self, if_true]
  exact settleReserved_known after fuel

/-- The same where only one ring has such a command. -/
theorem settleAllReserved_due {n : Nat} {s : State} {c : FetchedCmd} (there : n ∈ s.host.rings.map (·.1))
    (waiting : (s.ring n).waiting = some c) (reserved : knownType c.typ = false) (may : s.mayStart n c = true)
    (others : ∀ m, m ≠ n → ∀ d, (s.ring m).waiting = some d → knownType d.typ = true) (after : NoneReserved (s.badCmd n c)) :
    s.settleAllReserved = s.badCmd n c := by
  have settled : ∀ ns : List Nat, ns.foldl (fun x m => x.settleReserved 64 m) (s.badCmd n c) = s.badCmd n c := by
    intro ns
    induction ns with
    | nil => rfl
    | cons m ns ih => rw [List.foldl_cons, settleReserved_known (after m), ih]
  unfold State.settleAllReserved
  generalize s.host.rings.map (·.1) = ns at there
  induction ns with
  | nil => cases there
  | cons m ns ih =>
    rw [List.foldl_cons]
    by_cases e : m = n
    · rw [e, settleReserved_due waiting reserved may (after n) 63, settled]
    · rw [settleReserved_known (others m e)]
      exact ih (by simpa [Ne.symm e] using there)

/-- The ring a map holds at a number is one of its rings, or the reset one. -/
theorem get_mem_or {β : Type} (m : SMap β) (d : β) (k : Nat) : m.get d k = d ∨ (k, m.get d k) ∈ m := by
  induction m with
  | nil => exact .inl rfl
  | cons p t ih =>
    obtain ⟨j, v⟩ := p
    rw [get_cons]
    split
    next e => exact .inr (e ▸ List.mem_cons_self)
    next => exact ih.imp_right (List.mem_cons_of_mem _)

theorem knownType_of_commands {s : State} (h : s.commands.all (fun c => knownType c.typ) = true) {n : Nat} {c : FetchedCmd}
    (hc : c ∈ (s.ring n).cmds) : knownType c.typ = true := by
  rw [List.all_eq_true] at h
  rcases get_mem_or s.host.rings Ring.reset n with e | mem
  · rw [State.ring, e] at hc; cases hc
  · exact h c (List.mem_flatMap.mpr ⟨_, mem, hc⟩)

theorem mem_of_waiting {r : Ring} {c : FetchedCmd} (h : r.waiting = some c) : c ∈ r.cmds := List.mem_of_find?_eq_some h

/-- Rings that are as they were, or have no command they had not. -/
theorem noneReserved_of_rings {s t : State} (h : s.commands.all (fun c => knownType c.typ) = true)
    (cmds : ∀ n, (t.ring n).cmds = (s.ring n).cmds) : NoneReserved t :=
  fun n _ hc => knownType_of_commands h (cmds n ▸ mem_of_waiting hc)

/-! ### Polls (R189 to R192, R222) -/

/-- What a doorbell word makes of a ring. -/
def belled (r : Ring) (w : Nat) : Ring :=
  match doorbellWord w with
  | none => r
  | some p =>
    if !r.enable || r.stopped then r
    else if (p + 2 ^ 32 - r.fetched) % 2 ^ 32 ≤ 2 ^ r.log2 then { r with producer := p }
    else { r with stopped := true, cause := 1 }

section

variable {r : Ring} {w p : Nat}

theorem belled_none (hw : doorbellWord w = none) : belled r w = r := by rw [belled, hw]

theorem belled_off (h : r.enable = false ∨ r.stopped = true) : belled r w = r := by
  unfold belled
  split
  · rfl
  · exact if_pos (by simpa using h)

theorem belled_within (hw : doorbellWord w = some p) (enabled : r.enable = true) (running : r.stopped = false)
    (room : (p + 2 ^ 32 - r.fetched) % 2 ^ 32 ≤ 2 ^ r.log2) : belled r w = { r with producer := p } := by
  simp only [belled, hw, enabled, running, Bool.not_true, Bool.or_self, Bool.false_eq_true, if_false]
  exact if_pos room

theorem belled_beyond (hw : doorbellWord w = some p) (enabled : r.enable = true) (running : r.stopped = false)
    (full : 2 ^ r.log2 < (p + 2 ^ 32 - r.fetched) % 2 ^ 32) : belled r w = { r with stopped := true, cause := 1 } := by
  simp only [belled, hw, enabled, running, Bool.not_true, Bool.or_self, Bool.false_eq_true, if_false]
  exact if_neg (Nat.not_le.mpr full)

end

theorem belled_cmds (r : Ring) (w : Nat) : (belled r w).cmds = r.cmds := by
  unfold belled
  split
  · rfl
  split
  · rfl
  split <;> rfl

theorem ring_setRing_if (s : State) (n m : Nat) (r : Ring) : (s.setRing n r).ring m = if m = n then r else s.ring m := by
  split
  next e => rw [e, ring_setRing]
  next e => exact ring_setRing_other s n m r e

theorem stopRing_told (s : State) (n cause producer : Nat) :
    Told (s.setRing n { s.ring n with stopped := true, cause := cause }) (s.stopRing n cause producer) := .raise _ _ _ _ _ _ _

/-- A doorbell word moves its ring alone. -/
theorem ringBell_ring (s : State) (page : List Byte) (n m : Nat) :
    (s.ringBell page n).ring m = if m = n then belled (s.ring n) (word64 page (8 * n)) else s.ring m := by
  have same : ∀ r, r = s.ring n → s.ring m = if m = n then r else s.ring m := by
    intro r e
    split <;> simp [*]
  have told : ∀ r, r = belled (s.ring n) (word64 page (8 * n)) → (s.setRing n r).ring m =
      if m = n then belled (s.ring n) (word64 page (8 * n)) else s.ring m := fun r e => e ▸ ring_setRing_if s n m r
  unfold State.ringBell
  dsimp only
  split
  next none => exact same _ (belled_none none)
  next p word =>
    split
    next off => exact same _ (belled_off (by simpa using off))
    next on =>
      obtain ⟨enabled, running⟩ : (s.ring n).enable = true ∧ (s.ring n).stopped = false := by simpa using on
      split
      next room => exact told _ (belled_within word enabled running room).symm
      next full =>
        exact ((stopRing_told s n 1 p).ring m).trans (told _ (belled_beyond word enabled running (Nat.not_le.mp full)).symm)

theorem ringBell_polls (s : State) (page : List Byte) (n : Nat) :
    (s.ringBell page n).host.polling = s.host.polling ∧ (s.ringBell page n).host.failedPolls = s.host.failedPolls := by
  unfold State.ringBell
  dsimp only
  split
  · exact ⟨rfl, rfl⟩
  split
  · exact ⟨rfl, rfl⟩
  split
  · exact ⟨rfl, rfl⟩
  · exact ⟨(stopRing_told s n 1 _).polling, (stopRing_told s n 1 _).failedPolls⟩

theorem ringBells_polls (page : List Byte) (ns : List Nat) (s : State) :
    (s.ringBells page ns).host.polling = s.host.polling ∧ (s.ringBells page ns).host.failedPolls = s.host.failedPolls := by
  induction ns generalizing s with
  | nil => exact ⟨rfl, rfl⟩
  | cons n ns ih =>
    obtain ⟨polling, failed⟩ := ringBell_polls s page n
    exact ⟨(ih _).1.trans polling, (ih _).2.trans failed⟩

/-- R192: each ring of a page is told by its own word. -/
theorem ringBells_ring (page : List Byte) (m : Nat) (ns : List Nat) (nodup : ns.Nodup) (s : State) :
    (s.ringBells page ns).ring m = if m ∈ ns then belled (s.ring m) (word64 page (8 * m)) else s.ring m := by
  induction ns generalizing s with
  | nil => rfl
  | cons n ns ih =>
    rw [List.nodup_cons] at nodup
    rw [State.ringBells, ih nodup.2, ringBell_ring]
    by_cases e : m = n
    · subst e; simp [nodup.1]
    · simp [e]

/-- R190: of the host side, a failed poll moves its counts, and what its event moves. -/
theorem pollFailed_told (s : State) (how : HostFail) : Told { s with host := { s.host with
    failedPolls := satCount 32 (s.host.failedPolls + 1)
    faultTime := if 16 ≤ satCount 32 (s.host.failedPolls + 1) ∧
      s.host.faultTime.any (fun t => decide (s.clock.time < t + 1000000000)) = false then some s.clock.time else s.host.faultTime } }
    (s.pollFailed how) := by
  unfold State.pollFailed
  dsimp only
  split
  next due =>
    rw [if_pos (by simpa using due)]
    exact .raise _ _ _ _ _ _ _
  next early =>
    rw [if_neg (by simpa using early)]
    exact .refl _

theorem noteFail_host (s : State) (how : HostFail) : (s.noteFail how).host = s.host ∧ (s.noteFail how).clock = s.clock := by
  cases how <;> exact ⟨rfl, rfl⟩

theorem doorbellHold : DoorbellHold := by
  refine ⟨?poll, ?notNow, fun _ _ => rfl, ?idle, ?page, ?failed⟩
  case poll =>
    intro s hr enabled may idle
    exact (whenReady_of_isReady hr _).trans (congrArg (done s) (if_pos (by simp [enabled, may, idle])))
  case notNow =>
    intro s hr h
    refine (whenReady_of_isReady hr _).trans (congrArg (done s) (if_neg ?_))
    rcases h with h | h | h <;> simp [h]
  case idle =>
    intro s r hr idle
    exact (whenReady_of_isReady hr _).trans (congrArg (done s) (if_pos (by simp [idle])))
  case page =>
    intro s page hr polling known
    let u : State := { s with host := { s.host with polling := false, failedPolls := 0, faultTime := none } }
    let v := u.ringBells page (List.range 64)
    have rings : ∀ n, v.ring n = if n < 64 then belled (s.ring n) (word64 page (8 * n)) else s.ring n := by
      intro n
      rw [ringBells_ring page n _ List.nodup_range u]
      simp only [List.mem_range]
      rfl
    have settled : v.settleAllReserved = v := by
      refine settleAllReserved_known (noneReserved_of_rings known fun n => ?_)
      rw [rings]
      split
      exacts [belled_cmds _ _, rfl]
    have acts : ∃ t, exec (.doorbellPollDone (.data page)) s = .next t ∧ t.host.rings = v.host.rings ∧
        t.host.polling = v.host.polling ∧ t.host.failedPolls = v.host.failedPolls ∧
        ∀ c, doorbellWord (word64 page 0x200) = some c → t.host.eqConsumed = c := by
      have busy : ¬ (!s.host.polling) = true := by simp [polling]
      cases word : doorbellWord (word64 page 0x200) with
      | none =>
        have e : doorbellPollDone (.data page) s = v := by
          rw [doorbellPollDone, if_neg busy]
          simp only [word]
          exact settled
        exact ⟨_, (whenReady_of_isReady hr _).trans (congrArg (done s) e), rfl, rfl, rfl, nofun⟩
      | some c =>
        have e : doorbellPollDone (.data page) s =
            State.drainEvents drainFuel { v with host := { v.host with eqConsumed := c } } := by
          rw [doorbellPollDone, if_neg busy]
          simp only [word]
          exact congrArg (fun x : State => State.drainEvents drainFuel { x with host := { x.host with eqConsumed := c } }) settled
        have told := Told.drainEvents drainFuel { v with host := { v.host with eqConsumed := c } }
        refine ⟨_, (whenReady_of_isReady hr _).trans (congrArg (done s) e), told.rings, told.polling, told.failedPolls, ?_⟩
        intro d hd
        exact told.eqConsumed.trans (Option.some.inj hd)
    obtain ⟨t, e, same, polls, failed, consumed⟩ := acts
    obtain ⟨idle, none⟩ := ringBells_polls page (List.range 64) u
    have ring : ∀ n, n < 64 → t.ring n = belled (s.ring n) (word64 page (8 * n)) := fun n hn => by
      rw [ring_of_rings same, rings, if_pos hn]
    refine ⟨t, e, polls.trans idle, failed.trans none, ?_, ?_, ?_, consumed⟩
    · exact fun n p hn word enabled running room => (ring n hn).trans (belled_within word enabled running room)
    · exact fun n p hn word enabled running full => (ring n hn).trans (belled_beyond word enabled running full)
    · exact fun n hn h => (ring n hn).trans (h.elim belled_none belled_off)
  case failed =>
    intro s how hr polling
    let u : State := ({ s with host := { s.host with polling := false } } : State).noteFail how
    have acts : exec (.doorbellPollDone (.failed how)) s = done s (u.pollFailed how) :=
      (whenReady_of_isReady hr _).trans (congrArg (done s) (if_neg (by simp [polling])))
    have told := pollFailed_told u how
    obtain ⟨host, clock⟩ := noteFail_host { s with host := { s.host with polling := false } } how
    rw [show u.host = _ from host, show u.clock = _ from clock] at told
    refine ⟨_, acts, told.polling, ?_, fun n => told.ring n, fun many silent _ => ?_, fun few => ?_⟩
    · exact told.failedPolls
    · refine told.faultTime.trans (if_pos ⟨?_, by simp [silent]⟩)
      simp only [satCount]
      omega
    · refine told.faultTime.trans (if_neg fun h => ?_)
      simp only [satCount] at h
      omega

/-! ### Fetches (R192 to R194, R197, R200, R307) -/

theorem mayFetch_of_fetches {s : State} {n : Nat} (h : s.Fetches n) : s.mayFetch (s.ring n) = true := by
  simp [State.mayFetch, h.enabled, h.running, h.may, h.there, h.room]

/-- What becomes of a descriptor just fetched: it meets poison, its type is barred by a failed link, or it waits its turn. -/
def descriptorJudged (u : State) (n : Nat) (c : FetchedCmd) : State :=
  if (u.meetHidden 0x0A c.id).2 then (u.meetHidden 0x0A c.id).1.complete n c.id 0x31 false 0
  else match (u.meetHidden 0x0A c.id).1.life.failedLinks with
    | l :: _ => if heavyType c.typ then (u.meetHidden 0x0A c.id).1.complete n c.id 0x60 false l else (u.meetHidden 0x0A c.id).1
    | [] => (u.meetHidden 0x0A c.id).1

theorem exec_commandFetch_data {s : State} {n : Fin 64} {bs : List Byte} (h : s.Fetches n.val) :
    exec (.commandFetch n (.data bs)) s =
      done s (descriptorJudged (s.fetchedState n.val bs) n.val (s.fetchedCmd n.val bs)).settleAllReserved := by
  have fetches : ¬ (!s.mayFetch (s.ring n.val)) = true := by simp [mayFetch_of_fetches h]
  exact (whenReady_of_isReady h.ready _).trans (congrArg (done s) (if_neg fetches))

/-- Nothing else being due, that is all the command does. -/
theorem exec_commandFetch_settled {s t : State} {n : Fin 64} {bs : List Byte} (h : s.Fetches n.val)
    (judged : descriptorJudged (s.fetchedState n.val bs) n.val (s.fetchedCmd n.val bs) = t) (settled : NoneReserved t) :
    exec (.commandFetch n (.data bs)) s = done s t := by
  rw [exec_commandFetch_data h, judged, settleAllReserved_known settled]

section

variable {u : State} {n : Nat} {c : FetchedCmd}

theorem judged_poisoned (h : (u.meetHidden 0x0A c.id).2 = true) :
    descriptorJudged u n c = (u.meetHidden 0x0A c.id).1.complete n c.id 0x31 false 0 := if_pos h

theorem judged_barred (hs : u.Sound) {l : Nat} {ls : List Nat} (links : u.life.failedLinks = l :: ls) (heavy : heavyType c.typ = true) :
    descriptorJudged u n c = u.complete n c.id 0x60 false l := by
  simp [descriptorJudged, meetHidden_of_sound hs, links, heavy]

theorem judged_waits (hs : u.Sound) (light : u.life.failedLinks = [] ∨ heavyType c.typ = false) : descriptorJudged u n c = u := by
  simp only [descriptorJudged, meetHidden_of_sound hs, Bool.false_eq_true, if_false]
  split
  next links =>
    rcases light with none | light
    · rw [none] at links; cases links
    · simp [light]
  next => rfl

end

section

variable (s : State) (n : Nat) (bs : List Byte)

@[simp] theorem fetchedState_ring : (s.fetchedState n bs).ring n = s.fetchedRing n bs := ring_setRing _ _ _

theorem fetchedState_ring_other {m : Nat} (h : m ≠ n) : (s.fetchedState n bs).ring m = s.ring m := ring_setRing_other _ _ _ _ h

theorem fetchedRing_waiting : (s.fetchedRing n bs).waiting = (s.ring n).waiting.or (some (s.fetchedCmd n bs)) := by
  simp [Ring.waiting, State.fetchedRing, List.find?_append, State.fetchedCmd]

variable {s n bs}

/-- A name no command of the ring has is the new one's. -/
theorem fetchedRing_cmd (fresh : (s.ring n).cmd s.nextId = none) :
    (s.fetchedRing n bs).cmd s.nextId = some (s.fetchedCmd n bs) := by
  unfold Ring.cmd at fresh ⊢
  simp [State.fetchedRing, List.find?_append, fresh, State.fetchedCmd]

theorem fetchedRing_without (fresh : (s.ring n).cmd s.nextId = none) :
    (s.fetchedRing n bs).cmds.filter (fun d => d.id != s.nextId) = (s.ring n).cmds := by
  have old : ∀ d ∈ (s.ring n).cmds, d.id ≠ s.nextId := by simpa [Ring.cmd] using fresh
  simpa [State.fetchedRing, State.fetchedCmd] using old

/-- A command just fetched that completes at once, `u` being the module as it completes: its record, and the rings as they were. -/
theorem fetched_completes {u : State} (told : Told (s.fetchedState n bs) u) (fresh : (s.ring n).cmd s.nextId = none)
    (status : Nat) (d : Nat) :
    s.Recorded (u.complete n s.nextId status false d) n (s.ring n).cq (s.fetchedCmd n bs) status false d ∧
      ∀ m, ((u.complete n s.nextId status false d).ring m).cmds = (s.ring m).cmds := by
  have ring : u.ring n = s.fetchedRing n bs := (told.ring n).trans (fetchedState_ring s n bs)
  have found : (u.ring n).cmd s.nextId = some (s.fetchedCmd n bs) := by rw [ring]; exact fetchedRing_cmd fresh
  obtain ⟨record, gone⟩ := complete_finished found status false d
  rw [ring] at record gone
  obtain ⟨more, sent⟩ := told.sent
  have held : ∃ more, u.host.held = s.host.held ++ more := told.held
  refine ⟨recorded_since (s := s) ⟨s.fetchRead n :: more, ?_⟩ held record, fun m => ?_⟩
  · rw [sent]
    exact List.append_assoc _ _ _
  · by_cases e : m = n
    · rw [e]
      exact gone.trans (fetchedRing_without fresh)
    · rw [complete_ring_other u e, told.ring, fetchedState_ring_other s n bs e]

end

/-- A descriptor that waits its turn, its ring's next command being of the table. -/
theorem exec_commandFetch_waits {s : State} {n : Fin 64} {bs : List Byte} (h : s.Fetches n.val) (hs : s.Sound)
    (known : s.commands.all (fun c => knownType c.typ) = true)
    (light : s.life.failedLinks = [] ∨ heavyType (field (padTo 64 bs) 0 1) = false)
    (turn : knownType (field (padTo 64 bs) 0 1) = true ∨ (s.ring n.val).waiting ≠ none) :
    exec (.commandFetch n (.data bs)) s = done s (s.fetchedState n.val bs) := by
  refine exec_commandFetch_settled h (judged_waits hs light) fun m c waiting => ?_
  by_cases e : m = n.val
  · rw [e, fetchedState_ring, fetchedRing_waiting] at waiting
    cases old : (s.ring n.val).waiting with
    | none =>
      rw [old] at waiting
      cases waiting
      exact turn.resolve_right (not_not.mpr old)
    | some d =>
      rw [old] at waiting
      cases waiting
      exact knownType_of_commands known (mem_of_waiting old)
  · rw [fetchedState_ring_other s n.val bs e] at waiting
    exact knownType_of_commands known (mem_of_waiting waiting)

/-- A reserved type whose turn has come completes as it is fetched (R197, R200). -/
theorem exec_commandFetch_reserved {s : State} {n : Fin 64} {bs : List Byte} (h : s.Fetches n.val) (hs : s.Sound)
    (links : s.life.failedLinks = []) (known : s.commands.all (fun c => knownType c.typ) = true)
    (reserved : knownType (field (padTo 64 bs) 0 1) = false) (front : (s.ring n.val).waiting = none)
    (fresh : (s.ring n.val).cmd s.nextId = none)
    (may : (s.fetchedState n.val bs).mayStart n.val (s.fetchedCmd n.val bs) = true) :
    exec (.commandFetch n (.data bs)) s = done s ((s.fetchedState n.val bs).badCmd n.val (s.fetchedCmd n.val bs)) := by
  have waiting : ((s.fetchedState n.val bs).ring n.val).waiting = some (s.fetchedCmd n.val bs) := by
    rw [fetchedState_ring, fetchedRing_waiting, front]
    rfl
  have there : n.val ∈ (s.fetchedState n.val bs).host.rings.map (·.1) := by
    rcases get_mem_or (s.fetchedState n.val bs).host.rings Ring.reset n.val with reset | mem
    · have e : (s.fetchedState n.val bs).ring n.val = Ring.reset := reset
      rw [e] at waiting
      cases waiting
    · exact List.mem_map.mpr ⟨_, mem, rfl⟩
  have others : ∀ m, m ≠ n.val → ∀ d, ((s.fetchedState n.val bs).ring m).waiting = some d → knownType d.typ = true := by
    intro m e d waits
    rw [fetchedState_ring_other s n.val bs e] at waits
    exact knownType_of_commands known (mem_of_waiting waits)
  have after : NoneReserved ((s.fetchedState n.val bs).badCmd n.val (s.fetchedCmd n.val bs)) :=
    noneReserved_of_rings known (fetched_completes (Told.refl (s.fetchedState n.val bs)) fresh 0x20 0).2
  rw [exec_commandFetch_data h, judged_waits (u := s.fetchedState n.val bs) hs (.inl links),
    settleAllReserved_due there waiting reserved may others after]

theorem fetchingHold : FetchingHold := by
  refine ⟨?fetch, ?fails, ?reserved, ?barred, ?light, ?poisoned, ?idle⟩
  case fetch =>
    intro s n bs h hs links known turn
    exact ⟨_, exec_commandFetch_waits h hs known (.inl links) turn, fetchedState_ring s n.val bs, rfl,
      fun m hm => fetchedState_ring_other s n.val bs hm⟩
  case fails =>
    intro s n how h
    have fetches : ¬ (!s.mayFetch (s.ring n.val)) = true := by simp [mayFetch_of_fetches h]
    let u : State := (s.send (s.fetchRead n.val)).noteFail how
    have ring : u.ring n.val = s.ring n.val := ring_of_rings (congrArg HostSide.rings (noteFail_host _ how).1) _
    refine ⟨_, (whenReady_of_isReady h.ready _).trans (congrArg (done s) (if_neg fetches)), ?_⟩
    refine ((stopRing_told u n.val 2 _).ring n.val).trans ?_
    rw [ring_setRing, ring]
  case reserved =>
    intro s n bs h hs links known reserved front fresh may
    obtain ⟨record, rings⟩ := fetched_completes (Told.refl (s.fetchedState n.val bs)) fresh 0x20 0
    exact ⟨_, exec_commandFetch_reserved h hs links known reserved front fresh may, record, rings n.val⟩
  case barred =>
    intro s n bs l ls h hs links known heavy fresh
    obtain ⟨record, rings⟩ := fetched_completes (Told.refl (s.fetchedState n.val bs)) fresh 0x60 l
    have barred := judged_barred (u := s.fetchedState n.val bs) (n := n.val) (c := s.fetchedCmd n.val bs) hs links heavy
    exact ⟨_, exec_commandFetch_settled h barred (noneReserved_of_rings known rings), record, rings n.val⟩
  case light =>
    intro s n bs l ls h hs links known typ light
    exact ⟨_, exec_commandFetch_waits h hs known (.inr light) (.inl typ), fetchedState_ring s n.val bs⟩
  case poisoned =>
    intro s n bs h known bad fresh
    obtain ⟨record, rings⟩ := fetched_completes (Told.meetHidden (s.fetchedState n.val bs) 0x0A s.nextId) fresh 0x31 0
    exact ⟨_, exec_commandFetch_settled h (judged_poisoned bad) (noneReserved_of_rings known rings), record⟩
  case idle =>
    intro s n r hr h
    refine (whenReady_of_isReady hr _).trans (congrArg (done s) (if_pos ?_))
    rcases h with h | h | h | h | h <;> simp [State.mayFetch, h]

/-- Settles O22: each ring is told by its own doorbell word, and of a fetched descriptor one of four things becomes. -/
theorem doorbellAndFetching : Obligations.DoorbellAndFetching := ⟨doorbellHold, fetchingHold⟩

end Sys2Proof.Proofs

/-! ## Work that is aborted

An op that is aborted leaves what it wrote undefined, its programs and commands complete with ABORTED, and its peers are told (R60, R345).
All of that is `Steady`; where nothing runs, it is nothing. -/

namespace Sys2Proof.Proofs

open Sys2Proof Sys2Proof.Machine Sys2Proof.Laws

/-! ### Memory left undefined -/

theorem Steady.undefAt (s : State) (a n : Nat) : Steady s (s.undefAt a n) := by
  have touched : Steady s (s.touchChains a n) := .of_eq
  exact touched.trans (.trans (t := (s.touchChains a n).draw.2) .of_eq .of_eq)

theorem Steady.undefPages (root : Word) (fuel : Nat) (s : State) (va n : Nat) : Steady s (s.undefPages root fuel va n) := by
  induction fuel generalizing s va n with
  | zero => exact .refl s
  | succ k ih =>
    rw [State.undefPages]
    split
    · exact .refl s
    have prepared := Steady.redirect s root va false
    dsimp only
    generalize s.redirect root va false = r at prepared ⊢
    obtain ⟨u, p⟩ := r
    cases p with
    | ready =>
      have resolved := prepared.trans (.resolve u root allowOps va (inPage va n) true)
      dsimp only
      generalize u.resolve root allowOps va (inPage va n) true = q at resolved ⊢
      obtain ⟨v, e | ⟨z, l⟩⟩ := q
      · exact resolved
      have left := (resolved.trans (.undefAt v l (inPage va n))).trans (ih _ (va + inPage va n) (n - inPage va n))
      cases z with
      | tray => exact resolved.trans (ih _ _ _)
      | _ => exact left
    | _ => exact prepared

theorem Steady.undefVirt (s : State) (root : Word) (va n : Nat) : Steady s (s.undefVirt root va n) := .undefPages root _ s va n

theorem Steady.undefRanges (root : Word) (rs : List (Nat × Nat)) (s : State) : Steady s (s.undefRanges root rs) :=
  .foldl (f := fun (x : State) (w : Nat × Nat) => x.undefVirt root w.1 w.2) (fun x w => .undefVirt x root w.1 w.2) rs s

theorem Steady.undefRows (root : Word) (base stride len n : Nat) (s : State) : Steady s (s.undefRows root base stride len n) := by
  induction n with
  | zero => exact .refl s
  | succ n ih => exact ih.trans (.undefVirt _ root _ len)

theorem Steady.undefOutput (s : State) (root : Word) (d : MatDesc) : Steady s (s.undefOutput root d) := by
  have out : ∀ (x : State) (addr cols : Nat), Steady x
      (if d.stores then x.undefRows root addr d.outStride (rowBytes cols (codeBits d.outFmt)) d.m else x) :=
    fun x addr cols => (Steady.refl x).andThen _ (.undefRows root _ _ _ _ x)
  refine Steady.andThen ?_ _ (.undefVirt _ root _ _)
  split
  · exact (out s _ _).trans (out _ _ _)
  · exact out s _ _

theorem Steady.undefMat (s : State) (root : Word) (r : MatRun) : Steady s (s.undefMat root r) :=
  (((Steady.undefOutput s root r.d).trans (.undefAt _ _ _)).trans (.undefAt _ _ _)).trans (.undefRanges root _ _)

theorem Steady.setEngine (s : State) (die : Nat) (e : Engine) : Steady s (s.setEngine die e) := by
  unfold State.setEngine
  split <;> exact .of_eq

theorem Steady.undefEngine (s : State) (root : Word) (die : Nat) : Steady s (s.undefEngine root die) := by
  have regs : Steady s (s.undefRegs root die []) :=
    .trans (.trans (t := s.draw.2) .of_eq (.setEngine _ die _)) (.undefRanges root _ _)
  exact regs.trans (.trans (t := (s.undefRegs root die []).draw.2) .of_eq (.setEngine _ die _))

/-! ### An op aborted (R60, R170, R252, R283) -/

theorem Steady.matTells (s : State) (o : Op) (r : MatRun) (status : Nat) : Steady s (s.matTells o r status) := by
  have residues : ∀ (cells : List (Nat × List Nat)) (x : State), Steady x (x.residueEvents o r.pass status cells) := by
    intro cells
    induction cells with
    | nil => exact .refl
    | cons cell cells ih => exact fun x => .trans (.fault x _ _ _ _ _ _ _ _ _) (ih _)
  have votes : ∀ (vs : List (Nat × Nat × Nat)) (x : State), Steady x (x.voteEvents o r.lostVote vs) := by
    intro vs
    induction vs with
    | nil => exact .refl
    | cons v vs ih =>
      refine fun x => .trans ?_ (ih _)
      split
      exacts [.refl x, .fault x _ _ _ _ _ _ _ _ _]
  exact (residues _ s).trans (votes _ _)

theorem Steady.dropChain (s : State) (d : MatDesc) : Steady s (s.dropChain d) := by
  refine Steady.andThen (.refl s) _ ?_
  exact .of_eq

theorem Steady.countVecs (s : State) (o : Op) : Steady s (s.countVecs o) := by
  have counted : ∀ (die : Nat) (x : State), Steady x (x.countVec die) := by
    intro die x
    unfold State.countVec
    split <;> exact .of_eq
  exact (Steady.onlyIf s _ (counted 0)).trans (.onlyIf _ _ (counted 1))

theorem Steady.countColl (s : State) : Steady s s.countColl := .of_eq

theorem Steady.abandons (r : CollRun) (status : Nat) (peers : List Nat) (s : State) : Steady s (s.abandons r status peers) := by
  induction peers generalizing s with
  | nil => exact .refl s
  | cons q qs ih => exact .trans (.nptSend s _ _ _ _) (ih _)

theorem Steady.failColl (s : State) (o : Op) (r : CollRun) (status : Nat) (d : Option Word) (notify : Bool) :
    Steady s (s.failColl o r status d notify) := by
  have told : Steady s (if notify then s.abandons r status r.partners else s) :=
    (Steady.refl s).andThen _ (.abandons r status r.partners s)
  have closed : ∀ x : State, Steady x (x.closeColl r.d.collId r.g.epoch status r.culpritRank) := fun _ => .of_eq
  exact ((told.trans (closed _)).trans (.undefRanges _ _ _)).trans (.trans (.trans (.finishNow _ o _ _ _) (.clearOp _ _)) (.countColl _))

theorem Steady.abortOp (s : State) (o : Op) : Steady s (s.abortOp o) := by
  have ended : ∀ (x : State) (record : Nat → List Byte), Steady x ((x.finishWith o 0x60 record).clearOp o.id) :=
    fun x record => .trans (.finishNow x o _ _ record) (.clearOp _ _)
  unfold State.abortOp
  dsimp only
  split
  · split
    next r _ =>
      refine .trans (.trans (.trans (.undefMat s (s.rootOf o.ring) r) (.dropChain _ r.d)) ?_) (.clearOp _ _)
      exact .finishNowTelling _ _ _ _ fun x n => .matTells x o r n
    next => exact ended s _
  split
  · have stopped : ∀ (x : State) (die : Nat), Steady x
        (if ((x.engine die).run).any (fun r => r.op == o.id) then x.undefEngine (s.rootOf o.ring) die else x) :=
      fun x die => (Steady.refl x).andThen _ (.undefEngine x _ die)
    exact (((stopped s 0).trans (stopped _ 1)).trans (.finishNow _ o _ _ _)).trans (.countVecs _ o)
  split
  · split
    · exact .failColl s o _ _ _ _
    · exact (ended s _).trans (.countColl _)
  · exact ended s _

/-! ### Everything in flight aborted (R11, R345) -/

theorem Steady.abortOps (os : List Op) (s : State) : Steady s (s.abortOps os) := by
  induction os generalizing s with
  | nil => exact .refl s
  | cons o os ih => exact (Steady.abortOp s o).trans (ih _)

theorem Steady.settlePrograms (ps : List Program) (s : State) : Steady s (s.settlePrograms ps) := by
  induction ps generalizing s with
  | nil => exact .refl s
  | cons p ps ih => exact (Steady.settleProgram s p.ring).trans (ih _)

theorem Steady.dropAllUnissued (ps : List Program) (s : State) : Steady s (s.dropAllUnissued ps) := by
  induction ps generalizing s with
  | nil => exact .refl s
  | cons p ps ih => exact (Steady.dropUnissued s p.ring).trans (ih _)

theorem Steady.endCmds (status : Nat) (ids : List Nat) (s : State) : Steady s (s.endCmds status ids) := by
  induction ids generalizing s with
  | nil => exact .refl s
  | cons c cs ih => exact (Steady.endCmdWith s c status 0).trans (ih _)

theorem Steady.abortDma (s : State) : Steady s s.abortDma := by
  have steps := Steady.foldl (f := fun (x : State) (d : DmaRun) => x.stepStatus d.step 0x60) (fun x d => .stepStatus x d.step 0x60)
    s.host.dma { s with host := { s.host with dma := [] } }
  exact (Steady.trans .of_eq steps).trans (.endCmds _ _ _)

theorem Steady.stopCheckpoint (s : State) (status : Nat) : Steady s (s.stopCheckpoint status) := by
  unfold State.stopCheckpoint
  split
  · exact .refl s
  · refine .trans (.trans ?_ (.raise _ _ _ _ _ _ _)) (.complete _ _ _ _ _ _)
    exact .of_eq

theorem Steady.abortWork (s : State) : Steady s s.abortWork := by
  unfold State.abortWork
  dsimp only
  have aborted : Steady s (s.endRequests.abortPrograms.dropAllUnissued s.seq.programs) :=
    .trans (t := s.endRequests.abortPrograms) .of_eq (.dropAllUnissued _ _)
  generalize s.endRequests.abortPrograms.dropAllUnissued s.seq.programs = u at aborted ⊢
  have settled := ((aborted.trans (.abortOps u.seq.window u)).trans (.settlePrograms u.seq.programs _)).trans (.abortDma _)
  generalize ((u.abortOps u.seq.window).settlePrograms u.seq.programs).abortDma = v at settled ⊢
  refine settled.trans (.trans ?_ (.stopCheckpoint _ _))
  exact .trans (t := { v with proof := { v.proof with snapshots := [] } }) .of_eq 
    (.foldl (f := fun (x : State) (n : Nat × Nat × Word) => x.complete n.1 n.2.1 0x60 false 0)
      (fun x n => .complete x n.1 n.2.1 0x60 false 0) _ _)

theorem Steady.releaseNegatives (s : State) : Steady s s.releaseNegatives := .of_eq

/-- R345: a STEP_MARK whose boundary has not acted completes with ABORTED. -/
def markAborted (s : State) : State :=
  let u : State := { s with proof := { s.proof with boundary := none, repair := none } }
  match s.proof.boundary with
  | some b => (match b.by_ with
    | .mark ring cmd => u.complete ring cmd 0x60 false 0
    | .op _ => u)
  | none => u

/-- R345: a restore in flight leaves the pages it restores undefined. -/
def restoreAborted (s : State) : State :=
  match s.proof.restore with
  | some x =>
    let u : State := { s with proof := { s.proof with restore := none } }
    (u.uniquePages.foldl (fun (y : State) p => match y.frameOf p with
      | some f => y.undefAt f.2 0x10000
      | none => y) u).complete x.2.1 x.2.2 0x60 false 0
  | none => s

theorem abortProof_eq (s : State) : s.abortProof = restoreAborted (markAborted s) := rfl

theorem Steady.abortProof (s : State) : Steady s s.abortProof := by
  have opened : ∀ (x : State) (p : Proof), Steady x { x with proof := p } := fun _ _ => .of_eq
  have marked : Steady s (markAborted s) := by
    unfold markAborted
    dsimp only
    split
    · split
      exacts [(opened s _).trans (.complete _ _ _ _ _ _), opened s _]
    · exact opened s _
  have restored : ∀ x, Steady x (restoreAborted x) := by
    intro x
    unfold restoreAborted
    dsimp only
    split
    · refine ((opened x _).trans (.foldl (fun y p => ?_) _ _)).trans (.complete _ _ _ _ _ _)
      split
      exacts [.undefAt _ _ _, .refl y]
    · exact .refl x
  rw [abortProof_eq]
  exact marked.trans (restored _)

/-! ### Nothing in flight -/

variable {s : State}

/-- Where nothing runs, aborting the work changes nothing. -/
theorem abortWork_of_quiet (q : s.Quiet) : s.abortWork = s := by
  obtain ⟨window, programs, dma, snaps, ckpt, -, -, -, -, -, -⟩ := q
  have requests : s.endRequests.abortPrograms.dropAllUnissued s.seq.programs = s := by
    simp only [programs, State.dropAllUnissued, State.endRequests, State.abortPrograms, window, List.map_nil]
    rw [← window, ← programs]
  have ops : (s.abortOps s.seq.window).settlePrograms s.seq.programs = s := by
    rw [window, programs]
    rfl
  have copies : s.abortDma = s := by
    simp only [State.abortDma, dma, List.foldl_nil, List.map_nil, State.endCmds]
    rw [← dma]
  have taken : { s with proof := { s.proof with snapshots := [] } } = s := by rw [← snaps]
  unfold State.abortWork
  dsimp only
  rw [requests, ops, copies, taken, snaps, List.foldl_nil]
  simp only [State.stopCheckpoint, ckpt]

/-- Where no boundary and no restore are in flight, aborting them clears what the boundary was to repair and no more. -/
theorem abortProof_of_quiet (q : s.Quiet) : s.abortProof = { s with proof := { s.proof with repair := none } } := by
  rw [abortProof_eq]
  simp only [markAborted, restoreAborted, q.boundary, q.restore]

end Sys2Proof.Proofs

/-! ## The link, the boundary scan, and what keeps the module well

The link trains, the watchdog expires, an in-package link fails, and scrub reads find what they find. -/

namespace Sys2Proof.Proofs

open Sys2Proof Sys2Proof.Machine Sys2Proof.Laws

/-! ### The link (R184, R405, R409) -/

/-- Requests may go to the host, and none waits. -/
structure Clear (s : State) : Prop where
  may  : s.mayRequest = true
  none : s.host.held = []

theorem Clear.fireVector {s : State} (h : Clear s) (v : Nat) : Clear (s.fireVector v) := by
  obtain ⟨may, none⟩ := h
  unfold State.fireVector
  split
  · exact ⟨may, none⟩
  · have goes : s.sendHost (.msix v) = s.send (.msix v) := if_pos (by rw [may, none]; rfl)
    rw [goes]
    exact ⟨may, none⟩

theorem Clear.drainEvents {s : State} (h : Clear s) (fuel : Nat) : Clear (State.drainEvents fuel s) := by
  induction fuel generalizing s with
  | zero => exact h
  | succ k ih =>
    rw [State.drainEvents]
    split
    · exact h
    split
    · refine ih (Clear.fireVector ?_ 64)
      exact ⟨h.may, h.none⟩
    · exact h

theorem Clear.writeRecord {s : State} (h : Clear s) (q ring seq : Nat) (tag : List Byte) (status : Nat) (hd : Bool)
    (detail fetched : Nat) (irq : Bool) : Clear (s.writeRecord q ring seq tag status hd detail fetched irq) := by
  unfold State.writeRecord
  dsimp only
  split
  · refine Clear.fireVector ?_ q
    exact ⟨h.may, h.none⟩
  · exact ⟨h.may, h.none⟩

theorem Clear.releaseHeld (hs : List Held) {s : State} (h : Clear s) (told : Nat) : Clear (s.releaseHeld told hs) := by
  induction hs generalizing s told with
  | nil => exact h
  | cons y ys ih =>
    cases y with
    | record q r n t st hd d f i ev => exact ih ((h.drainEvents _).writeRecord _ _ _ _ _ _ _ _ _) _
    | other o => exact ih (s := s.send o) ⟨h.may, h.none⟩ _

/-- What was held has gone out once requests may. -/
theorem flushHeld_clear {s : State} (may : s.mayRequest = true) : Clear s.flushHeld := by
  rw [State.flushHeld, if_pos may]
  refine Clear.releaseHeld _ ?_ 0
  exact ⟨may, rfl⟩

/-- Requests go out as they may: the link, memory and the sequencers stay, and nothing is held where they may. -/
theorem released (s : State) : (State.drainEvents drainFuel s.flushHeld).pcie = s.pcie ∧
    (State.drainEvents drainFuel s.flushHeld).mem = s.mem ∧ (State.drainEvents drainFuel s.flushHeld).seq = s.seq ∧
    (s.mayRequest = true → (State.drainEvents drainFuel s.flushHeld).host.held = []) := by
  refine ⟨?_, ?_, ?_, fun may => ((flushHeld_clear may).drainEvents drainFuel).none⟩
  all_goals
    obtain ⟨h, x, b, flushed, -⟩ := flushHeld_frame s
    obtain ⟨h', x', b', drained, -⟩ := drainEvents_frame drainFuel s.flushHeld
    rw [drained, flushed]

/-- R405: where the link may train, it is up and requests go out. -/
theorem pcieLinkTraining_trains {s : State} (runs : s.life.phase = .starting ∨ s.life.phase = .held ∨ s.life.phase = .ready)
    (root : s.life.rootLocked = true) (loop : s.pcie.loopActive = false) :
    ∃ t, exec .pcieLinkTraining s = .next t ∧ t.pcie = { s.pcie with linkUp := true, cfgReady := true, follower := false } ∧
      t.mem = s.mem ∧ t.seq = s.seq ∧ (s.pcie.d3hot = false → t.host.held = []) := by
  let u : State := { s with pcie := { s.pcie with linkUp := true, cfgReady := true, follower := false } }
  have trains : pcieLinkTraining s = State.drainEvents drainFuel u.flushHeld := by
    refine if_pos ?_
    rcases runs with phase | phase | phase <;> rw [root, loop, phase] <;> rfl
  obtain ⟨pcie, mem, seq, held⟩ := released u
  exact ⟨_, congrArg (done s) trains, pcie, mem, seq, fun d3 => held (by simp [u, State.mayRequest, d3, loop])⟩

/-- R376, R405: where the link may not train, nothing happens. -/
theorem pcieLinkTraining_waits {s : State} (h : s.pcie.loopActive = true ∨ s.life.rootLocked = false ∨
    (s.life.phase ≠ .starting ∧ s.life.phase ≠ .held ∧ s.life.phase ≠ .ready)) : exec .pcieLinkTraining s = .next s := by
  have waits : pcieLinkTraining s = s := by
    refine if_neg ?_
    rcases h with loop | root | ⟨starting, held, ready⟩
    · simp [loop]
    · simp [root]
    · cases phase : s.life.phase <;> simp_all
  exact congrArg (done s) waits

/-- R184: D0 lets what was held go out. -/
theorem powerStateD0_releases {s : State} (runs : s.functionRuns = true) :
    ∃ t, exec .powerStateD0 s = .next t ∧ t.pcie = { s.pcie with d3hot := false } ∧ t.mem = s.mem ∧ t.seq = s.seq ∧
      (s.pcie.linkUp = true → s.pcie.cfgReady = true → s.pcie.loopActive = false → s.pcie.follower = false → t.host.held = []) := by
  obtain ⟨pcie, mem, seq, held⟩ := released { s with pcie := { s.pcie with d3hot := false } }
  exact ⟨_, congrArg (done s) (if_pos runs), pcie, mem, seq, fun up cfg loop follower =>
    held (by simp [State.mayRequest, up, cfg, loop, follower])⟩

/-- R409: without the function, the link or with a loop of its own, the module takes no follower's role. -/
theorem loopbackFollower_declines {s : State}
    (h : s.functionRuns = false ∨ s.pcie.linkUp = false ∨ s.pcie.loopActive = true) : exec .loopbackFollower s = .next s := by
  have declines : s.onlyIf s.functionRuns loopbackFollower = s := by
    unfold State.onlyIf
    split
    next runs =>
      refine if_neg ?_
      rcases h with off | down | loop
      · exact absurd (runs.symm.trans off) nofun
      · simp [down]
      · simp [loop]
    next => rfl
  exact congrArg (done s) declines

/-! ### The boundary scan (R413) -/

/-- The instruction that takes effect. -/
def jtagTaken (s : State) (i : JtagInstr) : JtagInstr :=
  match i with
  | .other _ => .bypass
  | i => if jtagScans i && s.life.phase != .inReset then .bypass else i

/-- With power an instruction other than IDCODE is selected, and no more. -/
theorem exec_jtagInstruction {s : State} (on : s.life.phase ≠ .off) {i : JtagInstr} (other : jtagTaken s i ≠ .idcode) :
    exec (.jtagInstruction i) s = .next { s with life := { s.life with jtag := jtagTaken s i } } := by
  have powered : (s.life.phase != .off) = true := by simpa using on
  exact (congrArg (done s) (if_pos powered)).trans (congrArg (done s) (if_neg other))

/-- R413: an instruction that acts in reset alone. -/
theorem exec_jtagInstruction_scan {s : State} (on : s.life.phase ≠ .off) {i : JtagInstr}
    (scan : i = .extest ∨ i = .extestPulse ∨ i = .extestTrain ∨ i = .clamp ∨ i = .highz) :
    exec (.jtagInstruction i) s = .next { s with life := { s.life with
      jtag := if s.life.phase = .inReset then i else .bypass } } := by
  have scans : jtagScans i = true := by rcases scan with rfl | rfl | rfl | rfl | rfl <;> rfl
  have listed : ∀ n, i ≠ .other n := by rcases scan with rfl | rfl | rfl | rfl | rfl <;> nofun
  have named : i ≠ .idcode := by rcases scan with rfl | rfl | rfl | rfl | rfl <;> nofun
  have taken : jtagTaken s i = if s.life.phase = .inReset then i else .bypass := by
    unfold jtagTaken
    split
    next n => exact absurd rfl (listed n)
    next => by_cases reset : s.life.phase = .inReset <;> simp [scans, reset]
  rw [exec_jtagInstruction on (i := i), taken]
  rw [taken]
  split
  exacts [named, nofun]

/-- R413: IDCODE sends the module's identity. -/
theorem exec_jtagInstruction_idcode {s : State} (on : s.life.phase ≠ .off) :
    exec (.jtagInstruction .idcode) s = .next { s with
      life := { s.life with jtag := .idcode }
      outbox := s.outbox ++ [.tdo (BitVec.ofNat 32 (1 + s.fuses.jedecId.toNat * 2 + 0x3220 * 2 ^ 12 +
        s.fuses.stepping.toNat / 16 * 2 ^ 28))] } := by
  have powered : (s.life.phase != .off) = true := by simpa using on
  exact congrArg (done s) (if_pos powered)

theorem linkAndScanHold : LinkAndScanHold := by
  refine ⟨fun s => pcieLinkTraining_trains, fun s => pcieLinkTraining_waits, fun s runs => congrArg (done s) (if_pos runs),
    fun s => powerStateD0_releases, fun s runs up loop => ?follower, fun s => loopbackFollower_declines, fun s off => ?none,
    fun s on => ⟨exec_jtagInstruction_idcode on, ?scans⟩, fun s i on => exec_jtagInstruction_scan on, fun s i off => ?off⟩
  case follower =>
    have accepts : (s.pcie.linkUp && !s.pcie.loopActive) = true := by rw [up, loop]; rfl
    exact (congrArg (done s) (if_pos runs)).trans (congrArg (done s) (if_pos accepts))
  case none =>
    have gone : ¬ s.functionRuns = true := by rw [off]; nofun
    exact ⟨congrArg (done s) (if_neg gone), congrArg (done s) (if_neg gone)⟩
  case scans =>
    exact ⟨exec_jtagInstruction on (i := .bypass) nofun, exec_jtagInstruction on (i := .samplePreload) nofun,
      fun n => exec_jtagInstruction on (i := .other n) nofun⟩
  case off =>
    have unpowered : ¬ (s.life.phase != .off) = true := by simpa using off
    exact congrArg (done s) (if_neg unpowered)

/-! ### Told, and the step's cause noted -/

/-- Events were raised and open steps given a cause: nothing else moved. -/
structure Noted (s t : State) : Prop where
  told  : Told s t
  mem   : t.mem = s.mem
  seq   : t.seq = s.seq
  plate : t.plate = s.plate
  proof : { t.proof with steps := s.proof.steps } = s.proof
  steps : t.proof.steps.isEmpty = s.proof.steps.isEmpty

theorem Noted.trans {s t u : State} (a : Noted s t) (b : Noted t u) : Noted s u where
  told := a.told.trans b.told
  mem := b.mem.trans a.mem
  seq := b.seq.trans a.seq
  plate := b.plate.trans a.plate
  proof := (congrArg (fun p : Proof => { p with steps := s.proof.steps }) b.proof).trans a.proof
  steps := b.steps.trans a.steps

theorem Noted.raise (s : State) (kind code step opTag subject : Nat) (detail : List Byte) :
    Noted s (s.raise kind code step opTag subject detail) := by
  have told := Told.raise s kind code step opTag subject detail
  obtain ⟨h, x, b, e, -⟩ := raise_frame s kind code step opTag subject detail
  rw [e] at told ⊢
  exact ⟨told, rfl, rfl, rfl, rfl, rfl⟩

theorem Noted.dirty (s : State) (cause : Nat) : Noted s (s.dirty cause) :=
  ⟨.of_eq, rfl, rfl, rfl, rfl, List.isEmpty_map⟩

/-- Where nothing ran, nothing runs after it is told. -/
theorem Noted.quiet {s t : State} (h : Noted s t) (q : s.Quiet) : t.Quiet where
  window := by rw [h.seq, q.window]
  programs := by rw [h.seq, q.programs]
  dma := (congrArg HostSide.dma h.told.rest :).trans q.dma
  snaps := (congrArg Proof.snapshots h.proof :).trans q.snaps
  ckpt := (congrArg Proof.ckpt h.proof :).trans q.ckpt
  boundary := (congrArg Proof.boundary h.proof :).trans q.boundary
  restore := (congrArg Proof.restore h.proof :).trans q.restore
  steps := by rw [← List.isEmpty_iff, h.steps, q.steps, List.isEmpty_nil]
  columns := by rw [h.plate, q.columns]
  lanes := by rw [h.plate, q.lanes]
  cores := by rw [h.plate, q.cores]

/-! ### The one command in flight -/

/-- Of a list of lists that holds one element, the two that are not empty are one. -/
theorem eq_of_flatMap_singleton {α β : Type} {f : α → List β} {l : List α} {b : β} (one : l.flatMap f = [b]) {x y : α}
    (hx : x ∈ l) (hy : y ∈ l) (fx : f x ≠ []) (fy : f y ≠ []) : x = y := by
  induction l with
  | nil => cases hx
  | cons a l ih =>
    rw [List.flatMap_cons] at one
    rcases List.append_eq_singleton_iff.mp one with ⟨head, rest⟩ | ⟨-, rest⟩
    · have tail : ∀ {z}, z ∈ a :: l → f z ≠ [] → z ∈ l := by
        intro z hz fz
        rcases List.mem_cons.mp hz with rfl | hz
        exacts [absurd head fz, hz]
      exact ih rest (tail hx fx) (tail hy fy)
    · have only : ∀ {z}, z ∈ a :: l → f z ≠ [] → z = a := by
        intro z hz fz
        rcases List.mem_cons.mp hz with rfl | hz
        exacts [rfl, absurd (List.flatMap_eq_nil_iff.mp rest z hz) fz]
      rw [only hx fx, only hy fy]

section

variable {s u : State} {ring : Nat} {c : FetchedCmd}

/-- Where one command is in flight, its name finds its ring. -/
theorem endCmd_only (only : s.commands = [c]) (found : (s.ring ring).cmd c.id = some c) (status : Nat) :
    s.endCmd c.id status = s.complete ring c.id status false 0 := by
  have mem : c ∈ (s.ring ring).cmds := List.mem_of_find?_eq_some found
  have listed : (ring, s.ring ring) ∈ s.host.rings := by
    rcases get_mem_or s.host.rings Ring.reset ring with reset | listed
    · rw [State.ring, reset] at mem; cases mem
    · exact listed
  unfold State.endCmd State.endCmdWith
  split
  next none =>
    have absent := List.find?_eq_none.mp none _ listed
    simp only [List.any_eq_true, beq_iff_eq, not_exists, not_and] at absent
    exact absurd rfl (absent c mem)
  next p some =>
    obtain ⟨d, hd, -⟩ := List.any_eq_true.mp (List.find?_some some :)
    have same := eq_of_flatMap_singleton (f := fun p : Nat × Ring => p.2.cmds) only (List.mem_of_find?_eq_some some) listed
      (List.ne_nil_of_mem hd) (List.ne_nil_of_mem mem)
    rw [same]

/-- The one command in flight, ended after more was told. -/
theorem endCmd_finishes (one : s.OnlyCommand ring c) (told : Told s u) (status : Nat) :
    s.Finished (u.endCmd c.id status) ring c status false 0 := by
  have only : u.commands = [c] := by rw [State.commands, told.rings]; exact one.only
  have found : (u.ring ring).cmd c.id = some c := by rw [told.ring]; exact one.found
  obtain ⟨record, gone⟩ := complete_finished found status false 0
  rw [told.ring] at record gone
  rw [endCmd_only only found]
  exact ⟨recorded_since told.sent told.held record, gone⟩

end

/-! ### The watchdog (R310, R312) -/

/-- R310: an expiry is noted and told. -/
def expiryTold (s : State) (core : Nat) (none : Bool) : State :=
  let u : State := { s with plate := { s.plate with watchTimes := s.plate.watchTimes ++ [(core, s.clock.time)] } }
  let v := u.fault 0x0D 0 core (if none then 2 else 1) (if none then 0 else 0x70) 0 0 0 noColumns
  (v.dirty 1).raise 9 5 v.currentStep 0 core (leBytes 1 1)

/-- R312: a core is to be retired: now where no step is open. -/
def retiring (s : State) (core : Nat) : State :=
  ({ s with plate := { s.plate with coresScheduled := s.plate.coresScheduled ++ [core] } } : State).switchIfIdle

theorem watchdog_eq (core : Fin 8) (served : List Nat) (retire : Bool) (s : State) :
    watchdog core served retire s =
      let u := expiryTold s core.val served.isEmpty
      let v := (u.stopBranches served u.seq.window).stopCmds 0x70 served
      if decide (1 ≤ s.expiries core.val) || retire then retiring v core.val else v := rfl

section

variable (s : State) (core : Nat) (none : Bool)

theorem expiryTold_noted : Noted { s with plate := { s.plate with watchTimes := s.plate.watchTimes ++ [(core, s.clock.time)] } }
    (expiryTold s core none) := by
  unfold expiryTold
  exact .trans (.trans (.raise _ _ _ _ _ _ _) (.dirty _ _)) (.raise _ _ _ _ _ _ _)

theorem expiryTold_told : Told s (expiryTold s core none) :=
  .trans (t := { s with plate := { s.plate with watchTimes := s.plate.watchTimes ++ [(core, s.clock.time)] } }) .of_eq
    (expiryTold_noted s core none).told

theorem expiryTold_reports : (expiryTold s core none).Reports 1 0x0D core ∧ (expiryTold s core none).Reports 9 5 core :=
  ⟨raise_keeps_reports _ _ _ _ _ _ _ _ _ _ ((Steady.dirty _ 1).reports (raise_reports _ _ _ _ _ _ _ rfl)),
    raise_reports _ _ _ _ _ _ _ rfl⟩

end

/-- A core that served no command ends no branch. -/
theorem stopBranches_nil (os : List Op) (s : State) : s.stopBranches [] os = s := by
  induction os generalizing s with
  | nil => rfl
  | cons o os ih =>
    have kept : (if o.kind = opBranch ∧ ([] : List Nat).contains o.id then s.finishWith o 0x70 (s.recordOf o s.clock.time) else s) = s :=
      if_neg fun h => absurd h.2 nofun
    rw [State.stopBranches, kept, ih]

/-- Where nothing runs, ending a command is completing it. -/
theorem stopCmd_of_quiet {s : State} (q : s.Quiet) (status id : Nat) : s.stopCmd status id = s.endCmd id status := by
  obtain ⟨-, programs, dma, snaps, ckpt, boundary, restore, -, -, -, -⟩ := q
  simp only [State.stopCmd, programs, List.find?_nil, ckpt, Option.any_none, Bool.false_eq_true, if_false, boundary, dma, List.filter_nil,
    snaps, restore, Bool.not_false, Bool.and_true]
  rw [← dma, ← snaps, ← restore, ← boundary, ← ckpt]

theorem exec_watchdog {s : State} (hr : s.isReady = true) (core : Fin 8) (served : List Nat) (retire : Bool) :
    exec (.watchdog core served retire) s = done s (watchdog core served retire s) := whenReady_of_isReady hr _

/-- A first expiry on a core that served nothing. -/
theorem exec_watchdog_idle {s : State} (hr : s.isReady = true) (core : Fin 8) (first : s.expiries core.val = 0) :
    exec (.watchdog core [] false) s = done s (expiryTold s core.val true) := by
  rw [exec_watchdog hr, watchdog_eq]
  simp only [first, stopBranches_nil]
  rfl

/-- R312: a core that is to be retired, having served nothing. -/
theorem exec_watchdog_retires {s : State} (hr : s.isReady = true) (core : Fin 8) {retire : Bool}
    (due : retire = true ∨ 1 ≤ s.expiries core.val) :
    exec (.watchdog core [] retire) s = done s (retiring (expiryTold s core.val true) core.val) := by
  have retires : (decide (1 ≤ s.expiries core.val) || retire) = true := by
    rw [Bool.or_eq_true, decide_eq_true_eq]
    exact due.symm
  rw [exec_watchdog hr, watchdog_eq]
  simp only [retires, if_true, stopBranches_nil]
  rfl

/-- R310: the one command in flight, that the core was serving, ends with CORE_FAULT. -/
theorem exec_watchdog_serving {s : State} (hr : s.isReady = true) (core : Fin 8) (first : s.expiries core.val = 0) {ring : Nat}
    {c : FetchedCmd} (one : s.OnlyCommand ring c) :
    exec (.watchdog core [c.id] false) s = done s ((expiryTold s core.val false).endCmd c.id 0x70) := by
  have noted := expiryTold_noted s core.val false
  have quiet : (expiryTold s core.val false).Quiet := noted.quiet { one.quiet with }
  rw [exec_watchdog hr, watchdog_eq]
  simp only [first, List.isEmpty_cons, quiet.window, State.stopBranches, State.stopCmds, stopCmd_of_quiet quiet]
  rfl

/-! ### A core retired (R338) -/

theorem raise_plate (s : State) (kind code step opTag subject : Nat) (detail : List Byte) :
    (s.raise kind code step opTag subject detail).plate = s.plate := (Noted.raise s kind code step opTag subject detail).plate

/-- Switching columns schedules and drops no core. -/
theorem switchColumns_coresScheduled (cs : List Nat) (s : State) :
    (s.switchColumns cs).plate.coresScheduled = s.plate.coresScheduled := by
  have switched : ∀ (x : State) (c : Nat), (x.switchColumn c).plate.coresScheduled = x.plate.coresScheduled := by
    intro x c
    unfold State.switchColumn
    dsimp only
    split
    · rfl
    · rw [raise_plate]
      split <;> rfl
  induction cs generalizing s with
  | nil => rfl
  | cons c cs ih => rw [State.switchColumns, ih, switched]

theorem spareEvents_plate (ds : List Nat) (s : State) : (s.spareEvents ds).plate = s.plate := by
  induction ds generalizing s with
  | nil => rfl
  | cons d ds ih => rw [State.spareEvents, ih, raise_plate]

/-- R338: while a step is open a core only waits to be retired. -/
theorem retiring_waits {s : State} (step : s.proof.steps.isEmpty = false) (core : Nat) :
    retiring s core = { s with plate := { s.plate with coresScheduled := s.plate.coresScheduled ++ [core] } } :=
  if_neg (by rw [step]; nofun)

/-- R338: with no step open the core is retired. -/
theorem retiring_retires {s : State} (idle : s.proof.steps.isEmpty = true) (none : s.plate.coresScheduled = []) (core : Nat) :
    (retiring s core).plate.coreRetired = some core ∧ (retiring s core).plate.coresScheduled = [] := by
  let u : State := { s with plate := { s.plate with coresScheduled := s.plate.coresScheduled ++ [core] } }
  have cores : (u.switchColumns u.plate.scheduled).plate.coresScheduled = [core] := by
    rw [switchColumns_coresScheduled]
    change s.plate.coresScheduled ++ [core] = [core]
    rw [none, List.nil_append]
  have switches : retiring s core = u.switchSpares := if_pos idle
  rw [switches]
  unfold State.switchSpares
  dsimp only
  rw [spareEvents_plate]
  exact ⟨by rw [cores], rfl⟩

/-! ### An in-package link (R11, R312) -/

/-- R312: a link that fails is noted and told. -/
def linkTold (s : State) (link : Nat) : State :=
  let u : State := { s with life := { s.life with failedLinks := s.life.failedLinks ++ [link] } }
  (u.fault 0x0F 0 link 2 0 0 0 0 noColumns).dirty 1

/-- R11: what a failed link ends but the commands. -/
def linkAborted (s : State) (link : Nat) : State := (linkTold s link).abortWork.abortProof.releaseNegatives

theorem linkTold_noted (s : State) (link : Nat) :
    Noted { s with life := { s.life with failedLinks := s.life.failedLinks ++ [link] } } (linkTold s link) :=
  (Noted.raise _ _ _ _ _ _ _).trans (.dirty _ _)

theorem exec_packageLinkFailed {s : State} (hr : s.isReady = true) {link : Fin 3} (up : link.val ∉ s.life.failedLinks) :
    exec (.packageLinkFailed link) s =
      done s ((linkAborted s link.val).endCmds 0x60 (linkAborted s link.val).abortable) := by
  have fails : packageLinkFailed link s = (linkAborted s link.val).endCmds 0x60 (linkAborted s link.val).abortable :=
    if_neg (by rw [List.contains_iff_mem]; exact up)
  exact (whenReady_of_isReady hr _).trans (congrArg (done s) fails)

/-- A link is told once. -/
theorem exec_packageLinkFailed_again {s : State} (hr : s.isReady = true) {link : Fin 3} (down : link.val ∈ s.life.failedLinks) :
    exec (.packageLinkFailed link) s = .next s :=
  (whenReady_of_isReady hr _).trans (congrArg (done s) (if_pos (List.contains_iff_mem.mpr down)))

/-- R11: what follows the failure of a link keeps it failed and told. -/
theorem linkAborted_steady (s : State) (link : Nat) (ids : List Nat) :
    Steady (linkTold s link) ((linkAborted s link).endCmds 0x60 ids) :=
  (((Steady.abortWork _).trans (.abortProof _)).trans (.releaseNegatives _)).trans (.endCmds _ _ _)

/-- Where nothing ran, a failed link ends nothing but commands. -/
theorem linkAborted_quiet {s : State} (q : s.Quiet) (link : Nat) : Told s (linkAborted s link) ∧ (linkAborted s link).mem = s.mem := by
  have noted := linkTold_noted s link
  have quiet : (linkTold s link).Quiet := noted.quiet { q with }
  unfold linkAborted
  rw [abortWork_of_quiet quiet, abortProof_of_quiet quiet]
  have told : Told s (linkTold s link) :=
    .trans (t := { s with life := { s.life with failedLinks := s.life.failedLinks ++ [link] } }) .of_eq noted.told
  exact ⟨told.trans .of_eq, noted.mem⟩

/-- R11: the one command in flight ends with ABORTED, unless it is an EVACUATE or a HANDOVER. -/
theorem packageLinkFailed_only {s : State} (hr : s.isReady = true) {link : Fin 3} (up : link.val ∉ s.life.failedLinks) {ring : Nat}
    {c : FetchedCmd} (one : s.OnlyCommand ring c) :
    ∃ t, exec (.packageLinkFailed link) s = .next t ∧
      (if c.typ = cmdEvacuate ∨ c.typ = cmdHandover then (t.ring ring).cmds = (s.ring ring).cmds
       else s.Finished t ring c 0x60 false 0) := by
  obtain ⟨told, -⟩ := linkAborted_quiet one.quiet link.val
  have ends := exec_packageLinkFailed hr up
  generalize linkAborted s link.val = u at told ends
  have only : u.commands = [c] := by rw [State.commands, told.rings]; exact one.only
  refine ⟨_, ends, ?_⟩
  split
  next spared =>
    have none : u.abortable = [] := by
      rw [State.abortable, only]
      rcases spared with typ | typ <;> simp [typ]
    rw [none]
    exact congrArg Ring.cmds (told.ring ring)
  next aborted =>
    have ended : u.abortable = [c.id] := by
      obtain ⟨evacuate, handover⟩ := not_or.mp aborted
      rw [State.abortable, only]
      simp [evacuate, handover]
    rw [ended]
    obtain ⟨record, gone⟩ := endCmd_finishes one told 0x60
    exact ⟨record, gone⟩

theorem coresAndLinksHold : CoresAndLinksHold := by
  refine ⟨fun s core hr first => ?idle, fun s core retire hr step due => ?waits, fun s core retire hr step due none => ?retires,
    fun s core ring c hr first one => ?serving, fun s link hr => exec_packageLinkFailed_again hr, fun s link hr up => ?fails,
    fun s link ring c hr up one => packageLinkFailed_only hr up one⟩
  case idle =>
    have noted := expiryTold_noted s core.val true
    obtain ⟨fault, restart⟩ := expiryTold_reports s core.val true
    exact ⟨_, exec_watchdog_idle hr core first, noted.mem, fault, restart, noted.plate⟩
  case waits =>
    have noted := expiryTold_noted s core.val true
    have opened : (expiryTold s core.val true).proof.steps.isEmpty = false := by rw [noted.steps]; simpa using step
    obtain ⟨fault, -⟩ := expiryTold_reports s core.val true
    have cores : (expiryTold s core.val true).plate.coresScheduled = s.plate.coresScheduled :=
      (congrArg Plate.coresScheduled noted.plate :)
    refine ⟨_, exec_watchdog_retires hr core due, ?_⟩
    rw [retiring_waits opened]
    exact ⟨noted.mem, fault, congrArg (· ++ [core.val]) cores⟩
  case retires =>
    have noted := expiryTold_noted s core.val true
    have idle : (expiryTold s core.val true).proof.steps.isEmpty = true := by rw [noted.steps]; simpa using step
    have cores : (expiryTold s core.val true).plate.coresScheduled = [] := (congrArg Plate.coresScheduled noted.plate).trans none
    obtain ⟨retired, left⟩ := retiring_retires idle cores core.val
    exact ⟨_, exec_watchdog_retires hr core due, retired, left⟩
  case serving =>
    have told := expiryTold_told s core.val false
    obtain ⟨fault, restart⟩ := expiryTold_reports s core.val false
    have ended := Steady.endCmdWith (expiryTold s core.val false) c.id 0x70 0
    obtain ⟨record, gone⟩ := endCmd_finishes one told 0x70
    exact ⟨_, exec_watchdog_serving hr core first one, ⟨record, gone⟩, ended.reports fault, ended.reports restart⟩
  case fails =>
    have life : (linkTold s link.val).life = { s.life with failedLinks := s.life.failedLinks ++ [link.val] } :=
      (Steady.fault _ _ _ _ _ _ _ _ _ _).life
    have told : (linkTold s link.val).Reports 1 0x0F link.val := (Steady.dirty _ 1).reports (raise_reports _ _ _ _ _ _ _ rfl)
    have steady := linkAborted_steady s link.val (linkAborted s link.val).abortable
    have still := fun quiet : s.Quiet => linkAborted_quiet quiet link.val
    have ends := exec_packageLinkFailed hr up
    generalize linkAborted s link.val = u at steady still ends
    refine ⟨_, ends, congrArg Life.failedLinks (steady.life.trans life), steady.reports told, fun quiet none => ?_⟩
    obtain ⟨told, mem⟩ := still quiet
    have nothing : u.abortable = [] := by
      rw [State.abortable, State.commands, told.rings, ← State.commands, none]
      rfl
    rw [nothing]
    exact mem

/-! ### Scrub reads (R306, R307, R309, R317, R318) -/

/-- What memory holds, which blocks are poisoned and the counters are as before. -/
structure SameStore (s t : State) : Prop where
  ram    : t.mem.ram = s.mem.ram
  poison : t.mem.poison = s.mem.poison
  tele   : t.tele = s.tele

theorem SameStore.refl (s : State) : SameStore s s := ⟨rfl, rfl, rfl⟩

theorem SameStore.trans {s t u : State} (a : SameStore s t) (b : SameStore t u) : SameStore s u :=
  ⟨b.ram.trans a.ram, b.poison.trans a.poison, b.tele.trans a.tele⟩

theorem SameStore.andThen {s x y : State} (h : SameStore s x) (c : Prop) [Decidable c] (hy : SameStore x y) :
    SameStore s (if c then y else x) := by
  split
  exacts [h.trans hy, h]

theorem SameStore.fault (s : State) (code opTag subject outcome status unit where_ address : Nat) (columns : List Nat) :
    SameStore s (s.fault code opTag subject outcome status unit where_ address columns) := by
  obtain ⟨h, x, b, e, -⟩ := raise_frame s 1 code s.currentStep opTag subject (faultDetail outcome status unit where_ address columns)
  unfold State.fault
  rw [e]
  exact ⟨rfl, rfl, rfl⟩

theorem SameStore.recordRepair (s : State) (a : Nat) : SameStore s (s.recordRepair a) := by
  unfold State.recordRepair
  split
  · exact .refl s
  · refine .trans ?_ (.fault _ _ _ _ _ _ _ _ _ _)
    exact ⟨rfl, rfl, rfl⟩

/-- R306: a corrected error is counted, and memory holds what it held. -/
theorem SameStore.corrected (s : State) (a : Nat) : SameStore (s.count (0x480 + 8 * memoryId a) 1) (s.corrected a) := by
  have told : SameStore (s.count (0x480 + 8 * memoryId a) 1) (correctedTold s a) := by
    unfold correctedTold
    dsimp only
    split
    · split <;> exact ⟨rfl, rfl, rfl⟩
    · refine .trans ?_ (.fault _ _ _ _ _ _ _ _ _ _)
      exact ⟨rfl, rfl, rfl⟩
  refine told.trans ?_
  rw [corrected_eq]
  unfold rowNoted
  dsimp only
  split
  · refine SameStore.andThen ?_ _ (.recordRepair _ _)
    exact ⟨rfl, rfl, rfl⟩
  · exact .refl _

/-- A block poisoned and counted, before it is told. -/
def poisonNoted (s : State) (a : Nat) : State :=
  ({ s with mem := { s.mem with poison := s.mem.poison.set false (a / 64) true } } : State).count (0x500 + 8 * memoryId a) 1

/-- R307: an uncorrectable error poisons its block and is counted. -/
theorem SameStore.poisonBlock (s : State) (a : Nat) : SameStore (poisonNoted s a) (s.poisonBlock a) :=
  ((SameStore.fault _ _ _ _ _ _ _ _ _ _).andThen _ (.recordRepair _ _)).andThen _ ⟨rfl, rfl, rfl⟩

theorem corrected_counts (s : State) (a : Nat) :
    (s.corrected a).tele_ (0x480 + 8 * memoryId a) = (s.tele_ (0x480 + 8 * memoryId a) + 1) % 2 ^ 64 := by
  unfold State.tele_
  rw [(SameStore.corrected s a).tele]
  exact get_set_same _ _ _ _

theorem poisonBlock_counts (s : State) (a : Nat) :
    (s.poisonBlock a).tele_ (0x500 + 8 * memoryId a) = (s.tele_ (0x500 + 8 * memoryId a) + 1) % 2 ^ 64 := by
  unfold State.tele_
  rw [(SameStore.poisonBlock s a).tele]
  exact get_set_same _ _ _ _

/-- R306: a memory's first corrected error is told at once. -/
theorem corrected_reports {s : State} {a : Nat} (silent : s.mem.corrTime.get none (memoryId a) = none)
    (unnoted : s.mem.corrAddr.get none (memoryId a) = none) : (s.corrected a).Reports 1 7 (memoryUnit a) := by
  have told : (correctedTold s a).Reports 1 7 (memoryUnit a) := by
    unfold correctedTold
    simp only [count_mem, silent, unnoted, Option.any_none, Bool.false_eq_true, if_false, Option.getD_none]
    exact raise_reports _ _ _ _ _ _ _ rfl
  exact (Steady.rowNoted _ a).reports told

theorem poisonBlock_reports (s : State) (a : Nat) : (s.poisonBlock a).Reports 1 8 (memoryUnit a) := by
  unfold State.poisonBlock
  dsimp only
  generalize h : State.fault _ 8 s.actorTag (memoryUnit a) _ _ _ _ _ _ = u
  have told : u.Reports 1 8 (memoryUnit a) := by
    rw [← h]
    exact raise_reports _ _ _ _ _ _ _ rfl
  exact (((Steady.refl u).andThen _ (.recordRepair _ _)).andThen _ (.dirty _ _)).reports told

/-- What a scrub's find does to the block at `a` (R306, R307). -/
def scrubFound (s : State) (a : Nat) : ScrubFind → State
  | .clean => s
  | .correctable => s.corrected a
  | .uncorrectable => s.poisonBlock a

/-- The block a scrub names lies in the memory it names. -/
theorem memoryId_of_scrubTarget {s : State} {mem : BitVec 8} {addr a : Nat} (h : s.scrubTarget mem addr = some a) :
    memoryId a = mem.toNat ∧ mem.toNat ≤ 10 := by
  unfold State.scrubTarget at h
  dsimp only at h
  split at h
  next listed =>
    have small : mem.toNat ≤ 10 := by
      simp only [List.contains_cons, List.contains_nil, Bool.or_eq_true, beq_iff_eq, Bool.or_false] at listed
      omega
    split at h
    · split at h
      next own =>
        cases h
        rw [Bool.and_eq_true, beq_iff_eq] at own
        exact ⟨own.2, small⟩
      next => cases h
    · cases h
  next =>
    split at h
    next hidden =>
      obtain ⟨lo, hi, within⟩ := hidden
      cases h
      refine ⟨?_, hi⟩
      unfold hiddenAddr memoryId
      rw [if_pos (by omega)]
      omega
    next => cases h

section

variable (s : State) (m a : Nat)

/-- R318: the end of a pass moves what is known of the passes and their two counters. -/
theorem passEnded_frame : ∃ p t, s.passEnded m = { s with plate := p, tele := t } ∧
    p.scrubbing = s.plate.scrubbing.filter (· != m) ∧ ∀ off, off ≠ 0x580 → off ≠ 0x584 → t.get 0 off = s.tele.get 0 off := by
  unfold State.passEnded
  dsimp only
  split
  · exact ⟨_, _, rfl, rfl, fun off _ h => get_set_other _ _ _ _ _ h⟩
  split
  · exact ⟨_, _, rfl, rfl, fun off h _ => get_set_other _ _ _ _ _ h⟩
  · exact ⟨_, _, rfl, rfl, fun _ _ _ => rfl⟩

theorem passEnded_hbm : (s.passEnded 1).tele_ 0x584 = (s.tele_ 0x584 + 1) % 2 ^ 32 := get_set_same _ _ _ _

/-- R318: SCRUB_PASSES.SRAM counts the pass that leaves none of the nine memories unscrubbed. -/
theorem passEnded_sram {m : Nat} (sram : m ≠ 1) (all : 8 ≤ (s.plate.scrubbed.filter (· != m)).length) :
    (s.passEnded m).tele_ 0x580 = (s.tele_ 0x580 + 1) % 2 ^ 32 := by
  unfold State.passEnded
  dsimp only
  rw [if_neg sram, if_pos (by rw [List.length_cons]; omega)]
  exact get_set_same _ _ _ _

/-- A block scrubbed moves what is known of the passes and their counters. -/
theorem scrubbedBlock_frame : ∃ p t, s.scrubbedBlock m a = { s with plate := p, tele := t } ∧
    ∀ off, off ≠ 0x580 → off ≠ 0x584 → t.get 0 off = s.tele.get 0 off := by
  unfold State.scrubbedBlock
  split
  · obtain ⟨p, t, e, -, others⟩ := passEnded_frame s m
    exact ⟨p, t, e, others⟩
  · split <;> exact ⟨_, _, rfl, fun _ _ _ => rfl⟩

variable {s m a}

/-- R317: before the last block the pass goes on. -/
theorem scrubbedBlock_goes_on (h : a / 64 ≠ s.lastBlock m) :
    (s.scrubbedBlock m a).plate.scrubbing.contains m = true ∧ (s.scrubbedBlock m a).tele = s.tele := by
  rw [State.scrubbedBlock, if_neg h]
  split
  next already => exact ⟨already, rfl⟩
  next => exact ⟨by simp, rfl⟩

/-- R317: with the last block the pass ends. -/
theorem scrubbedBlock_ends (h : a / 64 = s.lastBlock m) :
    s.scrubbedBlock m a = s.passEnded m ∧ (s.scrubbedBlock m a).plate.scrubbing.contains m = false := by
  rw [State.scrubbedBlock, if_pos h]
  refine ⟨rfl, ?_⟩
  obtain ⟨p, t, e, left, -⟩ := passEnded_frame s m
  rw [e, left]
  simp

/-- A scrub read of a sound module: the pass goes on, and what was found is dealt with. -/
theorem exec_scrubRead {mem : BitVec 8} {addr : Nat} (hr : s.isReady = true) (sound : s.Sound) (target : s.scrubTarget mem addr = some a)
    (covered : s.scrubs mem.toNat = true) (found : ScrubFind) :
    exec (.scrubRead mem addr found) s = done s (scrubFound (s.scrubbedBlock mem.toNat a) a found) := by
  obtain ⟨p, t, frame, -⟩ := scrubbedBlock_frame s mem.toNat a
  have still : (s.scrubbedBlock mem.toNat a).Sound := by rw [frame]; exact sound
  refine (whenReady_of_isReady hr _).trans (congrArg (done s) ?_)
  unfold scrubRead
  simp only [target, covered, Bool.not_true, Bool.false_eq_true, if_false, meet_of_sound still, poisoned_of_sound still,
    Option.isSome_none]
  cases found <;> rfl

/-- R317: a memory that no pass covers, or a block that is none, is not read. -/
theorem exec_scrubRead_none {mem : BitVec 8} {addr : Nat} (hr : s.isReady = true)
    (out : s.scrubTarget mem addr = none ∨ s.scrubs mem.toNat = false) (found : ScrubFind) :
    exec (.scrubRead mem addr found) s = .next s := by
  refine (whenReady_of_isReady hr _).trans (congrArg (done s) ?_)
  unfold scrubRead
  rcases out with nowhere | uncovered
  · rw [nowhere]
  · split
    · rfl
    · rw [if_pos (by rw [uncovered]; rfl)]

end

theorem scrubsHold : ScrubsHold := by
  refine ⟨fun s mem addr a hr sound target covered => ?_, fun s mem addr found hr out => exec_scrubRead_none hr out found⟩
  obtain ⟨named, small⟩ := memoryId_of_scrubTarget target
  have reads := exec_scrubRead hr sound target covered
  obtain ⟨p, t, frame, others⟩ := scrubbedBlock_frame s mem.toNat a
  have mem_eq : (s.scrubbedBlock mem.toNat a).mem = s.mem := (congrArg State.mem frame :)
  refine ⟨⟨_, reads .clean, mem_eq, ?fw, ?host, fun on => scrubbedBlock_goes_on on, fun last => ?ends⟩,
    ⟨_, reads .correctable, ?correctable⟩, _, reads .uncorrectable, ?uncorrectable⟩
  case fw => exact (congrArg State.fw frame :)
  case host => exact (congrArg State.host frame :)
  case ends =>
    obtain ⟨passed, left⟩ := scrubbedBlock_ends last
    refine ⟨left, fun hbm => ?_, fun sram all => ?_⟩
    · subst hbm
      exact (congrArg (State.tele_ · 0x584) passed).trans (passEnded_hbm s)
    · have other : mem.toNat ≠ 1 := fun e => sram (BitVec.eq_of_toNat_eq e)
      exact (congrArg (State.tele_ · 0x580) passed).trans (passEnded_sram s other all)
  all_goals generalize s.scrubbedBlock mem.toNat a = u at frame mem_eq ⊢
  case correctable =>
    have counter : u.tele_ (0x480 + 8 * memoryId a) = s.tele_ (0x480 + 8 * memoryId a) := by
      rw [frame]; exact others _ (by omega) (by omega)
    have store := SameStore.corrected u a
    have counted : (u.corrected a).tele_ (0x480 + 8 * memoryId a) = (s.tele_ (0x480 + 8 * memoryId a) + 1) % 2 ^ 64 := by
      rw [corrected_counts, counter]
    have told := corrected_reports (s := u) (a := a)
    rw [mem_eq] at told
    exact ⟨store.ram.trans (congrArg Memory.ram mem_eq), store.poison.trans (congrArg Memory.poison mem_eq), counted, told⟩
  case uncorrectable =>
    have counter : u.tele_ (0x500 + 8 * memoryId a) = s.tele_ (0x500 + 8 * memoryId a) := by
      rw [frame]; exact others _ (by omega) (by omega)
    have store := SameStore.poisonBlock u a
    have counted : (u.poisonBlock a).tele_ (0x500 + 8 * memoryId a) = (s.tele_ (0x500 + 8 * memoryId a) + 1) % 2 ^ 64 := by
      rw [poisonBlock_counts, counter]
    have poisoned : (u.poisonBlock a).mem.poison.get false (a / 64) = true := by
      rw [store.poison]; exact get_set_same u.mem.poison false (a / 64) true
    have ram : (u.poisonBlock a).mem.ram = u.mem.ram := store.ram
    exact ⟨poisoned, ram.trans (congrArg Memory.ram mem_eq), counted, poisonBlock_reports u a⟩

/-- Settles O12: requests held go out once they may; what a failed link ends keeps the link failed and its report on its way; a scrub's
finds are the corrections and the poison that any read meets. -/
theorem linkScanAndMaintenance : Obligations.LinkScanAndMaintenance := ⟨linkAndScanHold, coresAndLinksHold, scrubsHold⟩

end Sys2Proof.Proofs

/-! ## A MATMUL that does not start

A refused MATMUL stops its program, and the stop drops what the program has asked for. -/

namespace Sys2Proof.Proofs

open Sys2Proof Sys2Proof.Machine Sys2Proof.Laws

/-- An op descriptor of 128 bytes with the words given by offset, the others 0 (R52). -/
def descriptorOf (words : List (Nat × Nat)) : List Byte :=
  (List.range 16).flatMap (fun i => leBytes 8 ((words.lookup (8 * i)).getD 0))

/-- A BF16 product of 1 by 1 by 1 on ring 0, OUT_FMT NONE, in the 64 KiB of accumulator memory from `accBase` on, with the bits of the
word at 0x78 that say how it stands in its chain. -/
def productOp (id accBase mode : Nat) (phase : OpPhase) : Op where
  id := id
  ring := 0
  kind := opMatmul
  addr := 0
  desc := descriptorOf [(0, 1), (0x18, 64), (0x48, 0x1000001), (0x50, 1), (0x58, 0x4000000040), (0x70, 2 ^ 41 + 2 ^ 32 * accBase),
    (0x78, 0xF00 + mode)]
  phase := phase
  step := none
  issueTime := 0
  sum := 0
  begun := false
  ending := none

/-- FOLD_KEEP without FOLD_CONT: it begins a chain, and asks for its frank. -/
def beginner : Op := productOp 8 1 (2 ^ 24) .asking
/-- FOLD_CONT with no chain to go on: R54 refuses it. -/
def orphan : Op := productOp 9 0 (2 ^ 23) .taken

/-- The chain that the first member begins (R85). -/
def begunChain : Chain where
  accBase := 1
  accSize := 1
  spill := 0
  outTid := 0
  m := 1
  n := 1
  band := 0
  accAdd := false
  mode := 384
  float := true
  product := none
  nextPos := 0
  kTiles := 0
  bound := .zero
  elems := []
  ints := []
  spoiled := false
  opening := some 8

/-- The program of both ops. -/
def chainProgram : Program where
  ring := 0
  cmd := 1
  root := 0
  check := 2
  duet := false
  seed := 0
  histLen := 16
  marginExp := 1
  flushLog2 := 4
  runLength := 32
  next := none
  stopped := false
  completed := 0
  failure := none
  saturated := none
  best := 0
  bestTag := 0
  proofFailed := false

/-- A module at READY in which one member of a program waits for its frank, and an orphan follows it. -/
def orphaned : State := { State.reset with
  life := { Life.reset with phase := .ready, stage := 8 }
  seq := { Seq.reset with programs := [chainProgram], window := [beginner, orphan] }
  numerics := { Numerics.reset with chains := [begunChain] } }

/-- What a command leaves of the list of chains. -/
def chainsAfter : Out → Option (List Chain)
  | .next t => some t.numerics.chains
  | _ => none

theorem orphaned_free : orphaned.Free 9 opMatmul orphan := ⟨rfl, rfl, rfl, rfl, by decide +kernel⟩

/-- R59: the orphan's end stops the program, whose other member leaves the window with the chain it was to begin. -/
theorem orphan_drops_chain : chainsAfter (exec (.matmul 9) orphaned) = some [] := by decide +kernel

/-- Refutes O41: a MATMUL refused ends with 0x20, which stops its program (R59), so an earlier member that still asks for its frank leaves
the window, and the chain that it had listed (R85) goes with it. -/
theorem not_matmulStarts : ¬ Obligations.MatmulStarts := by
  rintro ⟨-, refused⟩
  obtain ⟨t, e, -, -, kept⟩ := refused orphaned 9 orphan chainProgram (Entry.fresh 0 16 1) (Entry.fresh 0 16 1) (Entry.fresh 0 16 1)
    orphaned_free rfl (by decide +kernel) (by decide +kernel) (by decide +kernel) (by decide +kernel) (by decide +kernel)
    (by decide +kernel) (.inr (.inl (by decide +kernel)))
  have dropped := orphan_drops_chain
  rw [e] at dropped
  have kept' : t.numerics.chains = [begunChain] := kept
  simp [chainsAfter, kept'] at dropped

end Sys2Proof.Proofs

/-! ## Beside the plate's work

A run's events and culprits are told and its franks attributed beside its work, and its operands, results and undefined leavings are
accesses to memory. What neither can move is said here once. -/

namespace Sys2Proof.Proofs

open Sys2Proof Sys2Proof.Machine Sys2Proof.Laws

/-- An op's event that happens at READY is the command's answer. -/
theorem whenOp_some {s t : State} {op : Nat} {f : State → Option State} (hr : s.isReady = true) (h : f (s.acting op) = some t) :
    whenOp s op f = done s t := by
  rw [whenOp, if_pos hr, h]
  rfl

/-! ### Told, counted and attributed -/

/-- Events, counters, culprits, spares and energy tables apart, the work stands: memory, the sequencer, the numerics, the runs on the
plate and the franks held. -/
structure Aside (s t : State) : Prop where
  mem      : t.mem = s.mem
  seq      : t.seq = s.seq
  numerics : t.numerics = s.numerics
  running  : t.plate.running = s.plate.running
  held     : t.power.held = s.power.held
  steady   : Steady s t

theorem Aside.of_eq {s t : State} (mem : t.mem = s.mem := by rfl) (seq : t.seq = s.seq := by rfl)
    (numerics : t.numerics = s.numerics := by rfl) (running : t.plate.running = s.plate.running := by rfl)
    (held : t.power.held = s.power.held := by rfl) (life : t.life = s.life := by rfl) (bound : t.fw.bound = s.fw.bound := by rfl) :
    Aside s t :=
  ⟨mem, seq, numerics, running, held, .of_eq life (by rw [numerics]) (by rw [numerics]) bound⟩

theorem Aside.refl (s : State) : Aside s s := .of_eq

theorem Aside.trans {s t u : State} (a : Aside s t) (b : Aside t u) : Aside s u where
  mem := b.mem.trans a.mem
  seq := b.seq.trans a.seq
  numerics := b.numerics.trans a.numerics
  running := b.running.trans a.running
  held := b.held.trans a.held
  steady := a.steady.trans b.steady

theorem Aside.andThen {s x y : State} (h : Aside s x) (c : Prop) [Decidable c] (hy : Aside x y) :
    Aside s (if c then y else x) := by
  split
  exacts [h.trans hy, h]

theorem Aside.onlyIf (s : State) (c : Bool) {f : State → State} (h : ∀ x, Aside x (f x)) : Aside s (s.onlyIf c f) :=
  (Aside.refl s).andThen _ (h s)

theorem Aside.raise (s : State) (kind code step opTag subject : Nat) (detail : List Byte) :
    Aside s (s.raise kind code step opTag subject detail) := by
  have steady := Steady.raise s kind code step opTag subject detail
  obtain ⟨h, x, b, e, -⟩ := raise_frame s kind code step opTag subject detail
  rw [e] at steady ⊢
  exact ⟨rfl, rfl, rfl, rfl, rfl, steady⟩

theorem Aside.fault (s : State) (code opTag subject outcome status unit where_ address : Nat) (columns : List Nat) :
    Aside s (s.fault code opTag subject outcome status unit where_ address columns) := .raise _ _ _ _ _ _ _

theorem Aside.count (s : State) (off n : Nat) : Aside s (s.count off n) := .of_eq

theorem Aside.matRun {s t : State} (h : Aside s t) (op : Nat) : t.matRun op = s.matRun op := by
  unfold State.matRun; rw [h.running]

/-- R361: what an op's franks drew goes into the tables of their classes. -/
theorem Aside.attributeAll (fs : List Frank) (s : State) : Aside s (s.attributeAll fs) := by
  have one : ∀ (f : Frank) (x : State), Aside x (x.attributeAll [f]) := by
    intro f x
    have drawn : Aside x (x.opPower f).1 := by
      unfold State.opPower
      split <;> exact .of_eq
    have set : ∀ c : EnergyClass, Aside x ((x.opPower f).1.setClass f.cls c) := fun c => drawn.trans .of_eq
    exact ((set _).andThen _ (.raise _ _ _ _ _ _ _)).andThen _ (.trans (.raise _ _ _ _ _ _ _) (.count _ _ _))
  induction fs generalizing s with
  | nil => exact .refl s
  | cons f fs ih => exact (one f s).trans (ih _)

/-! ### Culprits and their spares (R304, R338) -/

theorem Aside.switchIfIdle (s : State) : Aside s s.switchIfIdle := by
  have column : ∀ (c : Nat) (x : State), Aside x (x.switchColumn c) := by
    intro c x
    unfold State.switchColumn
    dsimp only
    split
    · exact .refl x
    · refine .trans ?_ (.raise _ _ _ _ _ _ _)
      split <;> exact .of_eq
  have columns : ∀ (cs : List Nat) (x : State), Aside x (x.switchColumns cs) := by
    intro cs
    induction cs with
    | nil => exact .refl
    | cons c cs ih => exact fun x => (column c x).trans (ih _)
  have events : ∀ (ds : List Nat) (x : State), Aside x (x.spareEvents ds) := by
    intro ds
    induction ds with
    | nil => exact .refl
    | cons d ds ih => exact fun x => .trans (.raise x _ _ _ _ _ _) (ih _)
  unfold State.switchIfIdle
  split
  · exact (columns _ s).trans (.trans (t := { s.switchColumns s.plate.scheduled with plate := _ }) .of_eq (events _ _))
  · exact .refl s

theorem Aside.columnCulprit (s : State) (c : Nat) : Aside s (s.columnCulprit c) := by
  have scheduled : ∀ x : State, Aside x (x.scheduleColumn c) := by
    intro x
    unfold State.scheduleColumn
    dsimp only
    split
    · exact .refl x
    split
    · exact .fault x _ _ _ _ _ _ _ _ _
    · refine .trans (.trans ?_ (.fault _ _ _ _ _ _ _ _ _ _)) (.switchIfIdle _)
      exact .of_eq
  unfold State.columnCulprit
  dsimp only
  refine Aside.andThen ?_ _ (scheduled _)
  exact .of_eq

theorem Aside.culprits (cs : List Nat) (s : State) : Aside s (s.culprits cs) := by
  induction cs generalizing s with
  | nil => exact .refl s
  | cons c cs ih => exact (Aside.columnCulprit s c).trans (ih _)

/-! ### The events of a run (R293, R295 to R300, R313, R318) -/

theorem Aside.countResidues (cs : List Nat) (s : State) : Aside s (s.countResidues cs) := by
  induction cs generalizing s with
  | nil => exact .refl s
  | cons c cs ih => exact (Aside.count s _ _).trans (ih _)

theorem Aside.residueEvents (o : Op) (pass status : Nat) (cells : List (Nat × List Nat)) (s : State) :
    Aside s (s.residueEvents o pass status cells) := by
  induction cells generalizing s with
  | nil => exact .refl s
  | cons c cs ih => exact (Aside.fault s _ _ _ _ _ _ _ _ _).trans (ih _)

theorem Aside.matTells (s : State) (o : Op) (r : MatRun) (status : Nat) : Aside s (s.matTells o r status) := by
  have votes : ∀ (vs : List (Nat × Nat × Nat)) (x : State), Aside x (x.voteEvents o r.lostVote vs) := by
    intro vs
    induction vs with
    | nil => exact .refl
    | cons v vs ih =>
      refine fun x => .trans ?_ (ih _)
      split
      exacts [.refl x, .fault x _ _ _ _ _ _ _ _ _]
  exact (Aside.residueEvents o _ _ _ s).trans (votes _ _)

theorem Aside.raiseHealth (o : Op) (told : Bool) (es : List (Entry × List Nat)) (s : State) : Aside s (s.raiseHealth o told es) := by
  have one : ∀ (e : Entry) (cs : List Nat) (x : State), Aside x (x.healths o e cs) := by
    intro e cs
    induction cs with
    | nil => exact .refl
    | cons c cs ih => exact fun x => .trans (.raise x _ _ _ _ _ _) (ih _)
  induction es generalizing s told with
  | nil => exact .refl s
  | cons e es ih => exact (one _ _ s).trans (ih _ _)

/-! ### Memory left undefined -/

theorem accessed_undefAt (s : State) (a n : Nat) : Accessed s (s.undefAt a n) :=
  ⟨rfl, rfl, rfl, rfl, rfl, rfl, rfl, rfl, rfl, rfl, rfl, rfl, rfl, rfl, rfl, rfl, undefAt_keeps_canonical s a n⟩

theorem accessed_undefVirt (s : State) (root : Word) (va n : Nat) : Accessed s (s.undefVirt root va n) := by
  suffices ∀ (fuel : Nat) (s : State) (va n : Nat), Accessed s (s.undefPages root fuel va n) from this _ s va n
  intro fuel
  induction fuel with
  | zero => exact fun s _ _ => .refl s
  | succ k ih =>
    intro s va n
    rw [State.undefPages]
    split
    · exact .refl s
    have prepared := Accessed.redirect s root va false
    dsimp only
    generalize s.redirect root va false = r at prepared ⊢
    obtain ⟨u, p⟩ := r
    cases p with
    | ready =>
      have resolved := prepared.trans (.resolve u root allowOps va (inPage va n) true)
      dsimp only
      generalize u.resolve root allowOps va (inPage va n) true = q at resolved ⊢
      obtain ⟨v, e | ⟨z, l⟩⟩ := q
      · exact resolved
      have left := (resolved.trans (accessed_undefAt v l (inPage va n))).trans (ih _ (va + inPage va n) (n - inPage va n))
      cases z with
      | tray => exact resolved.trans (ih _ _ _)
      | _ => exact left
    | _ => exact prepared

theorem accessed_undefRegion (s : State) (d : MatDesc) : Accessed s (s.undefRegion d) :=
  (accessed_undefAt s _ _).trans (accessed_undefAt _ _ _)

theorem accessed_undefSpill (s : State) (root : Word) (r : MatRun) : Accessed s (s.undefSpill root r) := by
  unfold State.undefSpill
  induction r.d.spillRanges r.asWhole r.resident generalizing s with
  | nil => exact .refl s
  | cons w ws ih => exact (accessed_undefVirt s root w.1 w.2).trans (ih _)

theorem accessed_undefOutput (s : State) (root : Word) (d : MatDesc) : Accessed s (s.undefOutput root d) := by
  have rows : ∀ (x : State) (base stride len n : Nat), Accessed x (x.undefRows root base stride len n) := by
    intro x base stride len n
    induction n with
    | zero => exact .refl x
    | succ n ih => exact ih.trans (accessed_undefVirt _ root _ len)
  have out : ∀ (x : State) (addr cols : Nat), Accessed x
      (if d.stores then x.undefRows root addr d.outStride (rowBytes cols (codeBits d.outFmt)) d.m else x) :=
    fun x addr cols => .ite (rows x _ _ _ _) (.refl x)
  have stats : ∀ x : State, Accessed s x → Accessed s
      (if d.rowmax || d.rowsum then x.undefVirt root (d.rowstatPage * 65536) (64 * d.m) else x) :=
    fun x h => .ite (h.trans (accessed_undefVirt _ root _ _)) h
  refine stats _ ?_
  split
  · exact (out s _ _).trans (out _ _ _)
  · exact out s _ _

theorem accessed_undefMat (s : State) (root : Word) (r : MatRun) : Accessed s (s.undefMat root r) :=
  (((accessed_undefOutput s root r.d).trans (accessed_undefAt _ _ _)).trans (accessed_undefAt _ _ _)).trans
    (accessed_undefSpill _ root r)

/-- Chains opened or dropped are no part of memory. -/
theorem accessed_chains (s : State) (cs : List Chain) : Accessed s { s with numerics := { s.numerics with chains := cs } } :=
  ⟨rfl, rfl, rfl, rfl, rfl, rfl, rfl, rfl, rfl, rfl, rfl, rfl, rfl, rfl, rfl, rfl, id⟩

theorem matRun_of_accessed {s t : State} (h : Accessed s t) (op : Nat) : t.matRun op = s.matRun op := by
  unfold State.matRun; rw [h.plate]

theorem book_of_accessed {s t : State} (h : Accessed s t) : t.numerics.book = s.numerics.book :=
  (congrArg Numerics.book h.chains :)

theorem Steady.undefRegion (s : State) (d : MatDesc) : Steady s (s.undefRegion d) := (Steady.undefAt s _ _).trans (.undefAt _ _ _)

theorem Steady.undefSpill (s : State) (root : Word) (r : MatRun) : Steady s (s.undefSpill root r) := .undefRanges root _ s

end Sys2Proof.Proofs

/-! ## A MATMUL completes

Its results are stored, its events told, its op closed and its franks released (R57 to R60, R77, R293). -/

namespace Sys2Proof.Proofs

open Sys2Proof Sys2Proof.Machine Sys2Proof.Laws

/-! ### Programs and their notes (R58, R59) -/

@[simp] theorem note_ring (p : Program) (o : Op) (status : Nat) (d : Option Word) : (p.note o status d).ring = p.ring := by
  simp only [Program.note]
  split_ifs <;> rfl

/-- An op that ends well leaves its program's next op as it is. -/
theorem note_next (p : Program) (o : Op) {status : Nat} (good : status < 0x20) (d : Option Word) :
    (p.note o status d).next = p.next := by
  simp only [Program.note, if_neg (Nat.not_le.mpr good)]
  split_ifs <;> rfl

/-- R59: an op that fails stops its program. -/
theorem note_stopped (p : Program) (o : Op) {status : Nat} (bad : 0x20 ≤ status) (d : Option Word) :
    (p.note o status d).stopped = true := by
  simp only [Program.note, if_pos bad]
  split <;> rfl

/-- A program with ops to come does not settle. -/
theorem settleProgram_goes_on {s : State} {n : Nat} {p : Program} (h : s.program n = some p) (goes : p.next.isSome = true) :
    s.settleProgram n = s := by
  have more : (p.next.isNone && !s.seq.window.any (fun o => o.ring == n)) = false := by
    rw [Option.isSome_iff_ne_none] at goes
    simp [goes]
  simp only [State.settleProgram, h, more, Bool.false_eq_true, if_false]

/-- A program that settles is gone. -/
theorem settleProgram_program (s : State) (n : Nat) :
    (s.settleProgram n).program n = s.program n ∨ (s.settleProgram n).program n = none := by
  unfold State.settleProgram
  split
  · exact .inl rfl
  next p _ =>
    split
    · obtain ⟨h, x, e⟩ := complete_frame
        { s with seq := { s.seq with programs := s.seq.programs.filter (fun x => x.ring != n) } } n p.cmd p.result.1 false p.result.2
      dsimp only
      rw [e]
      exact .inr (by simp [State.program])
    · exact .inl rfl

/-- R59: dropping what has not issued touches chains, the window, requests and runs. -/
theorem dropUnissued_frame (s : State) (n : Nat) : ∃ cs w q m, s.dropUnissued n = { s with
    numerics := { s.numerics with chains := cs }
    seq := { s.seq with window := s.seq.window.filter w }, power := { s.power with requests := q }
    plate := { s.plate with running := m } } := by
  have dropped : ∀ (ids : List Nat) (x : State), ∃ cs, ids.foldl State.dropOpening x =
      { x with numerics := { x.numerics with chains := cs } } := by
    intro ids
    induction ids with
    | nil => exact fun x => ⟨_, rfl⟩
    | cons i is ih =>
      intro x
      obtain ⟨cs, e⟩ := ih (x.dropOpening i)
      exact ⟨cs, e⟩
  obtain ⟨cs, e⟩ := dropped ((s.seq.window.filter (fun o => o.ring == n && o.phase != .issued)).map (·.id)) s
  unfold State.dropUnissued
  dsimp only
  rw [e]
  exact ⟨cs, _, _, _, rfl⟩

/-! ### What follows an op's result record -/

/-- The counters and the step's verdict of an op that ends (R171, R318, R322). -/
def endCounted (s : State) (o : Op) (status : Nat) : State :=
  ((((s.stepStatus o.step status).onlyIf (status == 3) (fun x => x.count 0x420 1)).onlyIf (o.kind == opBranch)
    (fun x => { x with vec := { x.vec with branchCount := x.vec.branchCount + 1 } })).onlyIf (o.kind == opMatmul)
    (fun x => { x with plate := { x.plate with matmulCount := (x.plate.matmulCount + 1) % 2 ^ 64 } })).onlyIf (status == 0x30)
    (fun x => x.count 0x428 1)

/-- An op that has left the window, its status noted in its program. -/
def leftNoted (s : State) (o : Op) (status : Nat) (d : Option Word) : State :=
  match (s.dropOp o.id).program o.ring with
  | none => s.dropOp o.id
  | some p => (s.dropOp o.id).setProgram (p.note o status d)

theorem closeOp_eq (s : State) (o : Op) (status : Nat) (d : Option Word) : s.closeOp o status d =
    (if 0x20 ≤ status then (leftNoted (endCounted s o status) o status d).dropUnissued o.ring
      else leftNoted (endCounted s o status) o status d).settleProgram o.ring := rfl

theorem endCounted_aside (s : State) (o : Op) (status : Nat) : Aside s (endCounted s o status) := by
  have step : Aside s (s.stepStatus o.step status) := by
    unfold State.stepStatus
    split
    · split
      exacts [.of_eq, .refl s]
    · exact .refl s
  exact (((step.trans (.onlyIf _ _ fun _ => .of_eq)).trans (.onlyIf _ _ fun _ => .of_eq)).trans (.onlyIf _ _ fun _ => .of_eq)).trans
    (.onlyIf _ _ fun _ => .of_eq)

section

variable (s : State) (o : Op) (status : Nat) (d : Option Word)

theorem leftNoted_frame : ∃ ps, leftNoted s o status d = { s with seq := { s.seq with
    window := s.seq.window.filter (fun x => x.id != o.id), programs := ps } } := by
  unfold leftNoted
  split <;> exact ⟨_, rfl⟩

theorem leftNoted_program :
    (leftNoted s o status d).program o.ring = (s.program o.ring).map (fun p => p.note o status d) := by
  have found : (s.dropOp o.id).program o.ring = s.program o.ring := rfl
  unfold leftNoted
  split
  next empty => rw [← found, empty]; rfl
  next p there => rw [program_setProgram there _ (by rw [note_ring, program_ring there]), ← found, there]; rfl

/-- Of a closed op, memory and the scale book know nothing. -/
theorem closeOp_keeps : (s.closeOp o status d).mem = s.mem ∧ (s.closeOp o status d).numerics.book = s.numerics.book := by
  have counted := endCounted_aside s o status
  rw [closeOp_eq]
  generalize endCounted s o status = u at counted ⊢
  obtain ⟨ps, left⟩ := leftNoted_frame u o status d
  obtain ⟨cs, w, q, m, dropped⟩ := dropUnissued_frame (leftNoted u o status d) o.ring
  have book : u.numerics.book = s.numerics.book := by rw [counted.numerics]
  split
  · obtain ⟨h, x, ps', settled⟩ := settleProgram_frame ((leftNoted u o status d).dropUnissued o.ring) o.ring
    rw [settled, dropped, left]
    exact ⟨counted.mem, book⟩
  · obtain ⟨h, x, ps', settled⟩ := settleProgram_frame (leftNoted u o status d) o.ring
    rw [settled, left]
    exact ⟨counted.mem, book⟩

/-- A closed op has left the window. -/
theorem closeOp_gone : (s.closeOp o status d).op o.id = none := by
  rw [closeOp_eq]
  generalize endCounted s o status = u
  obtain ⟨ps, left⟩ := leftNoted_frame u o status d
  obtain ⟨cs, w, q, m, dropped⟩ := dropUnissued_frame (leftNoted u o status d) o.ring
  split
  · obtain ⟨h, x, ps', settled⟩ := settleProgram_frame ((leftNoted u o status d).dropUnissued o.ring) o.ring
    rw [settled, dropped, left]
    simp +contextual [State.op]
  · obtain ⟨h, x, ps', settled⟩ := settleProgram_frame (leftNoted u o status d) o.ring
    rw [settled, left]
    simp [State.op]

variable {s o status}

/-- R198: a program with ops to come goes on, with the status noted. -/
theorem closeOp_noted {p : Program} (h : s.program o.ring = some p) (goes : p.next.isSome = true) (good : status < 0x20) :
    (s.closeOp o status d).program o.ring = some (p.note o status d) := by
  have noted : (leftNoted (endCounted s o status) o status d).program o.ring = some (p.note o status d) := by
    rw [leftNoted_program, State.program, (endCounted_aside s o status).seq, ← State.program, h]
    rfl
  rw [closeOp_eq, if_neg (by omega), settleProgram_goes_on noted (by rw [note_next p o good]; exact goes), noted]

/-- R59: the program of an op that failed stops. -/
theorem closeOp_stopped (bad : 0x20 ≤ status) (q : Program) (h : (s.closeOp o status d).program o.ring = some q) :
    q.stopped = true := by
  rw [closeOp_eq, if_pos bad] at h
  generalize endCounted s o status = u at h
  obtain ⟨cs, w, y, m, dropped⟩ := dropUnissued_frame (leftNoted u o status d) o.ring
  rcases settleProgram_program ((leftNoted u o status d).dropUnissued o.ring) o.ring with same | gone
  · rw [same, dropped] at h
    have noted : (leftNoted u o status d).program o.ring = some q := h
    rw [leftNoted_program, Option.map_eq_some_iff] at noted
    obtain ⟨p, -, rfl⟩ := noted
    exact note_stopped p o bad d
  · rw [gone] at h
    cases h

end

/-- An op without a result record closes at once. -/
theorem finishTelling_bare {s : State} {o : Op} (bare : o.resultAddr = 0) (status : Nat) (d : Option Word) (record : Nat → List Byte)
    (tell : State → Nat → State) : s.finishTelling o status d record tell = some ((tell s status).closeOp o status d) := by
  simp only [State.finishTelling, State.writeResult, bare, if_true]

/-! ### What an op held -/

section

variable (s : State) (op : Nat)

/-- What follows from `clearOp`'s franks alone. -/
theorem releaseFranks_aside : Aside { s with power := { s.power with
    held := s.power.held.filter (fun f => f.op != op), requests := s.power.requests.filter (fun f => f.op != op) } }
    (s.releaseFranks op) := .attributeAll _ _

theorem clearOp_keeps : (s.clearOp op).mem = s.mem ∧ (s.clearOp op).seq = s.seq ∧ (s.clearOp op).numerics = s.numerics :=
  have aside := releaseFranks_aside s op
  ⟨aside.mem, aside.seq, aside.numerics⟩

theorem clearOp_matRun : (s.clearOp op).matRun op = none := by simp [State.clearOp, State.dropMat, State.matRun]

theorem clearOp_holdsFrank : (s.clearOp op).holdsFrank op = false := by
  have held : (s.clearOp op).power.held = s.power.held.filter (fun f => f.op != op) := (releaseFranks_aside s op).held
  simp [State.holdsFrank, held]

end

/-! ### What a MATMUL leaves (R77, R86, R110, R213) -/

theorem keepSlots_length (a : Nat) (bs : List Byte) : (keepSlots a bs).length = bs.length := by
  induction bs generalizing a with
  | nil => rfl
  | cons b bs ih => simp [keepSlots, ih]

theorem keepSlots_getD (bs : List Byte) : ∀ (a i : Nat), noSlot (a + i) = false → (keepSlots a bs).getD i 0 = bs.getD i 0 := by
  induction bs with
  | nil => exact fun _ _ _ => rfl
  | cons b bs ih =>
    intro a i slot
    cases i with
    | zero =>
      have here : noSlot a = false := slot
      simp [keepSlots, here]
    | succ i => exact ih (a + 1) i (by rwa [Nat.add_right_comm, Nat.add_assoc])

/-- R75: a byte that holds a slot reads as it was stored. -/
theorem store_get (s : State) {a i : Nat} {bs : List Byte} (hi : i < bs.length) (slot : noSlot (a + i) = false) :
    (s.store a bs).mem.ram.get (a + i) = bs.getD i 0 := by
  have written : (s.store a bs).mem.ram.get (a + i) = _ := get_write s.mem.ram a (keepSlots a bs) (a + i)
  rw [written, keepSlots_length, if_pos (by omega), Nat.add_sub_cancel_left, keepSlots_getD bs a i slot]

theorem store_get_below (s : State) {a k : Nat} (bs : List Byte) (h : k < a) : (s.store a bs).mem.ram.get k = s.mem.ram.get k := by
  have written : (s.store a bs).mem.ram.get k = _ := get_write s.mem.ram a (keepSlots a bs) k
  rw [written, if_neg (by omega)]

theorem accessed_matFails (s : State) (root : Word) (r : MatRun) (status : Nat) : Accessed s (s.matFails root r status) := by
  unfold State.matFails
  split
  · refine Accessed.trans ?_ (accessed_chains _ _)
    exact .ite (.refl s) (accessed_undefOutput s root r.d)
  split
  · exact accessed_undefRegion s r.d
  · exact accessed_undefMat s root r

/-- What whole form leaves in its regions beside its result slots. -/
theorem accessed_undefAround (s : State) (d : MatDesc) (die : Nat) : Accessed s (s.undefAround d die) :=
  (accessed_undefAt s _ _).trans (accessed_undefAt _ _ _)

theorem accessed_matKeeps (s : State) (root : Word) (r : MatRun) : Accessed s (s.matKeeps root r) := by
  have left : ∀ (x : State) (cs : List Chain), Accessed s x → Accessed s { x with numerics := { x.numerics with chains := cs } } :=
    fun x cs h => h.trans (accessed_chains x cs)
  have begun := Accessed.ite (c := r.d.chainMember = true)
    (accessed_chains s (s.numerics.chains.filter (fun x => x.accBase != r.d.accBase))) (.refl s)
  unfold State.matKeeps
  dsimp only
  generalize (if r.d.chainMember = true then _ else s : State) = u at begun ⊢
  have around := ((begun.trans (accessed_undefAround u r.d 0)).trans (accessed_undefAround _ r.d 1)).trans (accessed_undefSpill _ root r)
  split
  · exact (begun.trans (accessed_undefRegion u r.d)).trans (accessed_undefSpill _ root r)
  split
  · exact left _ _ around
  · exact (around.trans (.store _ _ _)).trans (.store _ _ _)

/-- The last that a good end in whole form does to memory is to store the result slots of C0, then those of C1. -/
theorem matKeeps_stores (s : State) (root : Word) {r : MatRun} (whole : r.d.whole = true) (last : r.d.foldKeep = false) :
    ∃ u : State, s.matKeeps root r =
      (u.store (r.d.slotRange 0).1 (r.slotBytes 0)).store (r.d.slotRange 1).1 (r.slotBytes 1) := by
  unfold State.matKeeps
  dsimp only
  rw [if_neg (by simp [whole]), if_neg (by simp [last])]
  exact ⟨_, rfl⟩

/-- R77: in whole form the result slots hold the results. -/
theorem matKeeps_slots (s : State) (root : Word) {r : MatRun} (whole : r.d.whole = true) (last : r.d.foldKeep = false)
    (apart : (r.d.slotRange 0).1 + (r.slotBytes 0).length ≤ (r.d.slotRange 1).1) {die i : Nat} (hd : die < 2)
    (hi : i < (r.slotBytes die).length) (slot : noSlot ((r.d.slotRange die).1 + i) = false) :
    (s.matKeeps root r).mem.ram.get ((r.d.slotRange die).1 + i) = (r.slotBytes die).getD i 0 := by
  obtain ⟨u, stored⟩ := matKeeps_stores s root whole last
  rw [stored]
  obtain rfl | rfl : die = 0 ∨ die = 1 := by omega
  · rw [store_get_below _ _ (by omega), store_get u hi slot]
  · exact store_get _ hi slot

/-- R110: the entries of a MATMUL's operands and output are all that its end moves in the scale book. -/
theorem matEntries_frame (s : State) (p : Program) (r : MatRun) :
    ∃ b, (s.matEntries p r).1 = { s with numerics := { s.numerics with book := b } } := by
  have load : ∀ (x : State) (u : Option SlotUse) (tid : BitVec 32), ∃ b, (match u with
      | some u => x.updateEntry p tid (fun e => e.loaded u p)
      | none => (x, [])).1 = { x with numerics := { x.numerics with book := b } } := by
    intro x u tid
    cases u <;> exact ⟨_, rfl⟩
  obtain ⟨b1, e1⟩ := load s r.aUse r.d.aTid
  obtain ⟨b2, e2⟩ := load { s with numerics := { s.numerics with book := b1 } } r.bUse r.d.bTid
  rw [← e1] at e2
  unfold State.matEntries
  dsimp only
  split
  · exact ⟨_, (congrArg (fun x : State => (x.updateEntry p r.d.outTid (fun e => r.outEntry e p)).1) e2).trans (by rw [e1]; rfl)⟩
  · exact ⟨_, e2.trans (by rw [e1])⟩

/-! ### MATMUL_COMPLETE -/

/-- What a MATMUL leaves at its end, with the health codes due. -/
def matLeft (s : State) (p : Program) (r : MatRun) : State × List (Entry × List Nat) :=
  if r.status < 0x20 then (s.matKeeps p.root r).matEntries p r else (s.matFails p.root r r.status, [])

/-- What it leaves, with its events told. -/
def matTold (s : State) (o : Op) (p : Program) (r : MatRun) : State :=
  ((matLeft s p r).1.matTells o r r.status).raiseHealth o false (matLeft s p r).2

/-- The op closed, and what it held let go. -/
def matClosed (s : State) (o : Op) (p : Program) (r : MatRun) : State :=
  ((matTold s o p r).closeOp o r.status (r.failure.bind (·.2))).clearOp o.id

/-- The time of the plate's last pass is that of the end (R64). -/
def matEnded (s : State) (o : Op) (p : Program) (r : MatRun) : State :=
  let u := matClosed s o p r
  { u with plate := { u.plate with lastPass := u.plate.lastPass.map (fun x => (x.1, u.clock.time)) } }

theorem matTold_aside (s : State) (o : Op) (p : Program) (r : MatRun) : Aside (matLeft s p r).1 (matTold s o p r) :=
  (Aside.matTells _ o r _).trans (.raiseHealth o _ _ _)

theorem exec_matmulComplete {s : State} {op : Nat} {o : Op} {r : MatRun} {p : Program} (h : s.OnPlate op o r p)
    (due : r.failure.isSome = true ∨ r.decided = 2) (bare : o.resultAddr = 0) :
    exec (.matmulComplete op) s = done s (matEnded (s.acting op) o p r.cutShort) := by
  obtain ⟨ready, found, ident, run, -, program⟩ := h
  have found' : (s.acting op).op op = some o := by rw [State.op, acting_seq]; exact found
  have run' : (s.acting op).matRun op = some r := by rw [State.matRun, acting_plate]; exact run
  have program' : (s.acting op).program o.ring = some p := by rw [State.program, acting_seq]; exact program
  have due' : (r.failure.isNone && r.decided != 2) = false := by
    rcases due with failed | decided
    · rw [Option.isSome_iff_ne_none] at failed
      simp [failed]
    · simp [decided]
  refine whenOp_some ready ?_
  subst ident
  simp only [matmulComplete, found', run', program', due', Bool.false_eq_true, if_false, finishTelling_bare bare]
  unfold matEnded matClosed matTold matLeft
  by_cases good : r.cutShort.status < 0x20
  · simp only [good, if_true, decide_true]
  · simp only [good, if_false, decide_false, Bool.false_eq_true]

section

variable {s : State} {op : Nat} {o : Op} {r : MatRun} {p : Program}

theorem matTold_seq : (matTold (s.acting op) o p r).seq = s.seq := by
  rw [(matTold_aside _ o p r).seq]
  unfold matLeft
  split
  · obtain ⟨b, e⟩ := matEntries_frame ((s.acting op).matKeeps p.root r) p r
    rw [e]
    exact (accessed_matKeeps _ p.root r).seq.trans (acting_seq s op)
  · exact (accessed_matFails _ p.root r _).seq.trans (acting_seq s op)

theorem matTold_mem_good (good : r.status < 0x20) : (matTold s o p r).mem = (s.matKeeps p.root r).mem := by
  rw [(matTold_aside s o p r).mem, matLeft, if_pos good]
  obtain ⟨b, e⟩ := matEntries_frame (s.matKeeps p.root r) p r
  rw [e]

theorem matEnded_mem_good (good : r.status < 0x20) : (matEnded s o p r).mem = (s.matKeeps p.root r).mem := by
  have closed : (matClosed s o p r).mem = (matTold s o p r).mem := (clearOp_keeps _ _).1.trans (closeOp_keeps _ o _ _).1
  exact closed.trans (matTold_mem_good good)

theorem matTold_book_bad (bad : 0x20 ≤ r.status) : (matTold s o p r).numerics.book = s.numerics.book := by
  rw [(matTold_aside s o p r).numerics, matLeft, if_neg (by omega)]
  exact book_of_accessed (accessed_matFails s p.root r _)

/-- However a MATMUL ends, it leaves the window and the plate. -/
theorem matClosed_gone : (matClosed s o p r).op o.id = none ∧ (matClosed s o p r).matRun o.id = none ∧
    (matClosed s o p r).holdsFrank o.id = false := by
  refine ⟨?_, clearOp_matRun _ _, clearOp_holdsFrank _ _⟩
  rw [matClosed, State.op, (clearOp_keeps _ _).2.1]
  exact closeOp_gone _ o _ _

theorem status_of_success (h : r.failure = none) : r.status < 0x20 := by
  unfold MatRun.status
  rw [h]
  dsimp only
  split_ifs <;> omega

end

/-- R57, R58, R77: the run was decided. -/
theorem matmulComplete_decided {s : State} {op : Nat} {o : Op} {r : MatRun} {p : Program} (h : s.OnPlate op o r p)
    (success : r.failure = none) (decided : r.decided = 2) (bare : o.resultAddr = 0) :
    ∃ t, exec (.matmulComplete op) s = .next t ∧ s.Closed t o r.status ∧ t.matRun op = none ∧ t.holdsFrank op = false ∧
      t.mem = ((s.acting op).matKeeps p.root r.cutShort).mem := by
  have e := exec_matmulComplete h (.inr decided) bare
  have good : r.cutShort.status < 0x20 := status_of_success success
  obtain ⟨gone, unplaced, released⟩ := matClosed_gone (s := s.acting op) (o := o) (p := p) (r := r.cutShort)
  obtain ⟨-, seq, -⟩ := clearOp_keeps ((matTold (s.acting op) o p r.cutShort).closeOp o r.cutShort.status
    (r.cutShort.failure.bind (·.2))) o.id
  have ident := h.ident
  subst ident
  refine ⟨_, e, ⟨gone, fun q hq goes _ => ?_⟩, unplaced, released, ?_⟩
  · have before : (matTold (s.acting o.id) o p r.cutShort).program o.ring = some q := by
      rw [State.program, matTold_seq]
      exact hq
    have closed := closeOp_noted (r.cutShort.failure.bind (·.2)) before goes good
    have nothing : r.cutShort.failure = none := success
    rw [nothing] at closed
    have noted : (matClosed (s.acting o.id) o p r.cutShort).program o.ring = some (q.note o r.status none) := by
      rw [matClosed, State.program, seq, nothing]
      exact closed
    exact noted
  · exact (matEnded_mem_good good :)

/-- R59, R293: the run failed. -/
theorem matmulComplete_failed {s : State} {op : Nat} {o : Op} {r : MatRun} {p : Program} {f : Nat × Option Word}
    (h : s.OnPlate op o r p) (failed : r.failure = some f) (bad : 0x20 ≤ f.1) (bare : o.resultAddr = 0) :
    ∃ t, exec (.matmulComplete op) s = .next t ∧ t.op op = none ∧ t.matRun op = none ∧ t.holdsFrank op = false ∧
      t.numerics.book = s.numerics.book ∧ ∀ q, t.program o.ring = some q → q.stopped = true := by
  have e := exec_matmulComplete h (.inl (by rw [failed]; rfl)) bare
  have status : r.cutShort.status = f.1 := by
    have failed' : r.cutShort.failure = some f := failed
    simp only [MatRun.status, failed']
  obtain ⟨gone, unplaced, released⟩ := matClosed_gone (s := s.acting op) (o := o) (p := p) (r := r.cutShort)
  obtain ⟨-, seq, numerics⟩ := clearOp_keeps ((matTold (s.acting op) o p r.cutShort).closeOp o r.cutShort.status
    (r.cutShort.failure.bind (·.2))) o.id
  have ident := h.ident
  subst ident
  refine ⟨_, e, gone, unplaced, released, ?_, fun q hq => ?_⟩
  · refine (congrArg Numerics.book numerics).trans ((closeOp_keeps _ o _ _).2.trans ?_)
    rw [matTold_book_bad (by rw [status]; exact bad), acting_numerics]
  · have closed : (matClosed (s.acting o.id) o p r.cutShort).program o.ring = some q := hq
    rw [matClosed, State.program, seq] at closed
    exact closeOp_stopped _ (by rw [status]; exact bad) q closed

/-- Settles O44: whichever way a MATMUL ends its op is closed and what it held let go; a good end stores the result slots last, and a bad
one moves no entry and stops the program. -/
theorem matmulCompletes : Obligations.MatmulCompletes := by
  refine ⟨fun s op o r p h success decided bare => ?_, fun s op o r p f h failed bad bare => matmulComplete_failed h failed bad bare⟩
  obtain ⟨t, e, closed, unplaced, released, mem⟩ := matmulComplete_decided h success decided bare
  refine ⟨t, e, closed, unplaced, released, fun whole last apart die hd i hi slot => ?_⟩
  rw [mem]
  exact matKeeps_slots _ p.root whole last apart hd hi slot

end Sys2Proof.Proofs

/-! ## A pass streams (R42, R82, R83)

Its operands are reads; its tile sums move a run's trees alone; a block's last pass leaves the results. -/

namespace Sys2Proof.Proofs

open Sys2Proof Sys2Proof.Machine Sys2Proof.Laws

/-! ### Operands (R39 to R48) -/

section

variable (root : Word)

theorem accessed_readElems (s : State) (row b first n : Nat) : Accessed s (s.readElems root row b first n).1 := by
  have read := Accessed.readVirt s root allowLocal (row + first * b / 8) (ceilDiv ((first + n) * b) 8 - first * b / 8)
  unfold State.readElems
  dsimp only
  generalize s.readVirt root allowLocal _ _ = q at read ⊢
  obtain ⟨u, _ | _⟩ := q <;> exact read

theorem accessed_readMatrix (base stride b first n k : Nat) : ∀ (s : State) (r : Nat),
    Accessed s (s.readMatrix root base stride b first n r k).1 := by
  induction k with
  | zero => exact fun s _ => .refl s
  | succ k ih =>
    intro s r
    have read := accessed_readElems root s (base + r * stride) b first n
    rw [State.readMatrix]
    generalize s.readElems root (base + r * stride) b first n = q at read ⊢
    obtain ⟨u, _ | xs⟩ := q
    · exact read
    · have rest := read.trans (ih u (r + 1))
      dsimp only
      generalize u.readMatrix root base stride b first n (r + 1) k = q at rest ⊢
      obtain ⟨v, _ | _⟩ := q <;> exact rest

theorem accessed_readVectors (s : State) (alongK : Bool) (base stride b i h k0 kk : Nat) :
    Accessed s (s.readVectors root alongK base stride b i h k0 kk).1 := by
  unfold State.readVectors
  split
  · exact accessed_readMatrix root _ _ _ _ _ _ s _
  · have read := accessed_readMatrix root base stride b i h kk s k0
    generalize s.readMatrix root base stride b i h k0 kk = q at read ⊢
    obtain ⟨u, _ | _⟩ := q <;> exact read

theorem accessed_readB (s : State) (d : MatDesc) (n0 w k0 kk : Nat) : Accessed s (s.readB root d n0 w k0 kk).1 := by
  unfold State.readB
  dsimp only
  split
  · exact accessed_readVectors root s _ _ _ _ _ _ _ _
  · have first := accessed_readVectors root s d.transB d.b0Addr d.bStride d.bBits (d.halfAt n0 0)
      (d.halfAt (n0 + w) 0 - d.halfAt n0 0) k0 kk
    generalize s.readVectors root d.transB d.b0Addr d.bStride d.bBits (d.halfAt n0 0)
      (d.halfAt (n0 + w) 0 - d.halfAt n0 0) k0 kk = q at first ⊢
    obtain ⟨u, _ | xs⟩ := q
    · exact first
    · have second := first.trans (accessed_readVectors root u d.transB d.b1Addr d.bStride d.bBits (d.halfAt n0 1)
        (d.halfAt (n0 + w) 1 - d.halfAt n0 1) k0 kk)
      dsimp only
      generalize u.readVectors root d.transB d.b1Addr d.bStride d.bBits (d.halfAt n0 1)
        (d.halfAt (n0 + w) 1 - d.halfAt n0 1) k0 kk = q at second ⊢
      obtain ⟨v, _ | _⟩ := q <;> exact second

theorem accessed_readSmooth (s : State) (d : MatDesc) (k0 kk : Nat) : Accessed s (s.readSmooth root d k0 kk).1 := by
  unfold State.readSmooth
  split
  · exact .refl s
  · have read := Accessed.readVirt s root allowLocal (d.smoothPage * 65536 + k0) kk
    generalize s.readVirt root allowLocal (d.smoothPage * 65536 + k0) kk = q at read ⊢
    obtain ⟨u, _ | _⟩ := q <;> exact read

/-- The operands of a pass are read, and only read. -/
theorem accessed_passOperands (s : State) (r : MatRun) : Accessed s (s.passOperands root r).1 := by
  unfold State.passOperands
  dsimp only
  have smooth := accessed_readSmooth root s r.d (r.area r.pass).k0 (r.area r.pass).kk
  generalize s.readSmooth root r.d (r.area r.pass).k0 (r.area r.pass).kk = q at smooth ⊢
  obtain ⟨u, _ | sm⟩ := q
  · exact smooth
  have a : Accessed s (u.readA root r.d (r.area r.pass).m0 (r.area r.pass).h (r.area r.pass).k0 (r.area r.pass).kk).1 :=
    smooth.trans (accessed_readVectors root u _ _ _ _ _ _ _ _)
  dsimp only
  generalize u.readA root r.d (r.area r.pass).m0 (r.area r.pass).h (r.area r.pass).k0 (r.area r.pass).kk = q at a ⊢
  obtain ⟨v, _ | av⟩ := q
  · exact a
  have b := a.trans (accessed_readB root v r.d (r.area r.pass).n0 (r.area r.pass).w (r.area r.pass).k0 (r.area r.pass).kk)
  dsimp only
  generalize v.readB root r.d (r.area r.pass).n0 (r.area r.pass).w (r.area r.pass).k0 (r.area r.pass).kk = q at b ⊢
  obtain ⟨w, _ | bv⟩ := q <;> exact b

end

/-! ### What a run's sums move -/

/-- Its trees, its results and a failure to read them are all that differs in a run. -/
def OnlySums (r r' : MatRun) : Prop :=
  { r' with elems := r.elems, ints := r.ints, ladder := r.ladder, intSat := r.intSat, results := r.results, failure := r.failure } = r

/-- Two runs whose pass at hand makes the same sums: the fields that the area of a pass and its tile sums come from. -/
structure SameSums (r r' : MatRun) : Prop where
  d        : r'.d = r.d
  asWhole  : r'.asWhole = r.asWhole
  resident : r'.resident = r.resident
  aScale   : r'.aScale = r.aScale
  bScale   : r'.bScale = r.bScale
  pass     : r'.pass = r.pass
  elems    : r'.elems = r.elems
  ints     : r'.ints = r.ints

namespace OnlySums

theorem refl (r : MatRun) : OnlySums r r := rfl

theorem trans {r r' r'' : MatRun} (a : OnlySums r r') (b : OnlySums r' r'') : OnlySums r r'' := by
  have forgotten := congrArg (fun x : MatRun => { x with
    elems := r.elems, ints := r.ints, ladder := r.ladder, intSat := r.intSat, results := r.results, failure := r.failure }) b
  exact Eq.trans forgotten a

variable {r r' : MatRun} (h : OnlySums r r')

include h

theorem op : r'.op = r.op := (congrArg MatRun.op h :)
theorem masked : r'.masked = r.masked := (congrArg MatRun.masked h :)
theorem voted : r'.voted = r.voted := (congrArg MatRun.voted h :)
theorem culprit : r'.culprit = r.culprit := (congrArg MatRun.culprit h :)

end OnlySums

section

variable (r : MatRun) (seed : Word) (step p : Nat)

theorem onlySums_enter (i : Nat) (ps : List Val) (e : Int) : OnlySums r (r.enter seed step p i ps e) := by
  unfold MatRun.enter
  split <;> rfl

theorem onlySums_enterRow (err : Nat → Int) (a : List Val) (bs : List (List Val)) (i col : Nat) :
    OnlySums r (r.enterRow seed step p i err col a bs) := by
  induction bs generalizing r i col with
  | nil => exact .refl r
  | cons b bs ih => exact (onlySums_enter r seed step p i _ _).trans (ih _ _ _)

theorem onlySums_enterRows (n0 : Nat) (err : Nat → Nat → Int) (bs as : List (List Val)) (m row : Nat) :
    OnlySums r (r.enterRows seed step p m n0 err row bs as) := by
  induction as generalizing r m row with
  | nil => exact .refl r
  | cons a as ih => exact (onlySums_enterRow r seed step p _ a bs _ _).trans (ih _ _ _)

theorem onlySums_fed (p : Program) (o : Op) (x : List (List Val) × List (List Val)) (err : Nat → Nat → Int) :
    OnlySums r (r.fed p o x err) := onlySums_enterRows r _ _ _ _ err x.2 x.1 _ 0

theorem onlySums_resultOf (i : Nat) (old : BitVec 48) : OnlySums r (r.resultOf seed step i old).1 := by
  unfold MatRun.resultOf
  split <;> rfl

end

namespace SameSums

variable {r r' : MatRun} (h : SameSums r r') (seed : Word) (step p : Nat)

include h

theorem passAt (i : Nat) : r'.passAt i = r.passAt i := by
  simp only [MatRun.passAt, MatRun.nb, MatRun.mb, h.d, h.resident]

theorem area (i : Nat) : r'.area i = r.area i := by
  simp only [MatRun.area, MatRun.height, MatRun.ws, MatRun.mb, h.passAt, h.d, h.resident, h.asWhole]

theorem tileWith (ps : List Val) (e : Int) : r'.tileWith ps e = r.tileWith ps e := by
  simp only [MatRun.tileWith, MatRun.unitTree, h.d, h.aScale, h.bScale]

theorem enter (i : Nat) (ps : List Val) (e : Int) :
    SameSums (r.enter seed step p i ps e) (r'.enter seed step p i ps e) := by
  unfold MatRun.enter
  rw [h.d, h.tileWith, h.ints, h.elems]
  simp only [MatRun.rand, h.d]
  split
  · exact ⟨rfl, h.asWhole, h.resident, h.aScale, h.bScale, h.pass, rfl, rfl⟩
  · exact ⟨rfl, h.asWhole, h.resident, h.aScale, h.bScale, h.pass, rfl, rfl⟩

theorem enterRow (err : Nat → Int) (a : List Val) (bs : List (List Val)) (i col : Nat) :
    SameSums (r.enterRow seed step p i err col a bs) (r'.enterRow seed step p i err col a bs) := by
  induction bs generalizing r r' i col with
  | nil => exact h
  | cons b bs ih => exact ih (h.enter seed step p i _ _) _ _

theorem enterRows (n0 : Nat) (err : Nat → Nat → Int) (bs as : List (List Val)) (m row : Nat) :
    SameSums (r.enterRows seed step p m n0 err row bs as) (r'.enterRows seed step p m n0 err row bs as) := by
  induction as generalizing r r' m row with
  | nil => exact h
  | cons a as ih =>
    rw [MatRun.enterRows, MatRun.enterRows, h.d]
    exact ih (h.enterRow seed step p _ a bs _ _) _ _

theorem fed (p : Program) (o : Op) (x : List (List Val) × List (List Val)) (err : Nat → Nat → Int) :
    SameSums (r.fed p o x err) (r'.fed p o x err) := by
  unfold MatRun.fed
  rw [h.pass, h.area, h.passAt, h.d]
  exact h.enterRows _ _ _ _ err x.2 x.1 _ 0

/-- What entered the one's trees entered the other's. -/
theorem entered {r'' : MatRun} {p : Program} {o : Op} {x : List (List Val) × List (List Val)} {err : Nat → Nat → Int}
    (e : r'.Entered r'' p o x err) : r.Entered r'' p o x err := by
  intro notDue
  obtain ⟨elems, ints⟩ := e (by rw [h.pass, h.passAt, h.d]; exact notDue)
  exact ⟨elems.trans (h.fed p o x err).elems, ints.trans (h.fed p o x err).ints⟩

end SameSums

/-! ### A block's results (R83) -/

theorem Steady.readAt (s : State) (z : Zone) (a n : Nat) : Steady s (s.readAt z a n).1 := by
  unfold State.readAt
  split
  · split
    · exact .refl s
    · dsimp only
      split
      exacts [.refl s, .of_eq]
  · exact .refl s
  · dsimp only
    split <;> exact .meet _ s

/-- Results are made by reads of old slots. -/
structure Finishes (s : State) (r : MatRun) (y : State × Except MemErr MatRun) : Prop where
  accessed : Accessed s y.1
  steady   : Steady s y.1
  only     : ∀ r', y.2 = .ok r' → OnlySums r r'

theorem Finishes.refl (s : State) (r : MatRun) : Finishes s r (s, .ok r) :=
  ⟨.refl s, .refl s, fun r' h => by cases h; exact .refl r⟩

theorem Finishes.after {s u : State} {r r1 : MatRun} {y : State × Except MemErr MatRun} (accessed : Accessed s u)
    (steady : Steady s u) (only : OnlySums r r1) (h : Finishes u r1 y) : Finishes s r y :=
  ⟨accessed.trans h.accessed, steady.trans h.steady, fun r' same => only.trans (h.only r' same)⟩

section

variable (seed : Word) (step : Nat) (spoilt : Option Nat)

theorem readSlot_frame (s : State) (d : MatDesc) (m n : Nat) :
    Accessed s (s.readSlot d m n).1 ∧ Steady s (s.readSlot d m n).1 := by
  have accessed := Accessed.readAt s (.acc (d.slotAt m n).1) (d.slotAt m n).2 (3 * d.e)
  have steady := Steady.readAt s (.acc (d.slotAt m n).1) (d.slotAt m n).2 (3 * d.e)
  unfold State.readSlot
  dsimp only
  generalize s.readAt (.acc (d.slotAt m n).1) (d.slotAt m n).2 (3 * d.e) = q at accessed steady ⊢
  obtain ⟨u, _ | _⟩ := q <;> exact ⟨accessed, steady⟩

theorem finishes_row (m k : Nat) : ∀ (s : State) (r : MatRun) (n : Nat),
    Finishes s r (s.finishRow seed step m n spoilt r k) := by
  induction k with
  | zero => exact fun s r _ => .refl s r
  | succ k ih =>
    intro s r n
    have read : Accessed s (if r.d.accAdd then s.readSlot r.d m n else (s, .ok 0)).1 ∧
        Steady s (if r.d.accAdd then s.readSlot r.d m n else (s, .ok 0)).1 := by
      split
      exacts [readSlot_frame s r.d m n, ⟨.refl s, .refl s⟩]
    rw [State.finishRow]
    dsimp only
    generalize (if r.d.accAdd then s.readSlot r.d m n else (s, .ok 0)) = q at read ⊢
    obtain ⟨accessed, steady⟩ := read
    obtain ⟨u, _ | old⟩ := q
    · exact ⟨accessed, steady, fun _ h => by cases h⟩
    · refine .after accessed steady ?_ (ih u _ (n + 1))
      exact onlySums_resultOf r seed step (m * r.d.n + n) old

theorem finishes_rows (n0 w k : Nat) : ∀ (s : State) (r : MatRun) (m : Nat),
    Finishes s r (s.finishRows seed step m n0 w spoilt r k) := by
  induction k with
  | zero => exact fun s r _ => .refl s r
  | succ k ih =>
    intro s r m
    obtain ⟨accessed, steady, only⟩ := finishes_row seed step spoilt m w s r n0
    rw [State.finishRows]
    generalize s.finishRow seed step m n0 spoilt r w = q at accessed steady only ⊢
    obtain ⟨u, _ | r1⟩ := q
    · exact ⟨accessed, steady, fun _ h => by cases h⟩
    · exact .after accessed steady (only r1 rfl) (ih u r1 (m + 1))

/-- A block's last pass leaves its results, or fails the run at an error of the region. -/
theorem finishBlock_frame (s : State) (r : MatRun) : Accessed s (s.finishBlock seed step r).1 ∧
    Steady s (s.finishBlock seed step r).1 ∧ OnlySums r (s.finishBlock seed step r).2 := by
  have drawn : ∀ c : Bool, Accessed s (if c then s.draw.2 else s) ∧ Steady s (if c then s.draw.2 else s) := by
    intro c
    split
    exacts [⟨.draw s, .of_eq⟩, ⟨.refl s, .refl s⟩]
  unfold State.finishBlock
  dsimp only
  obtain ⟨accessed0, steady0⟩ := drawn ((s.chainOf r.d).any (·.spoiled))
  generalize (if (s.chainOf r.d).any (·.spoiled) = true then s.draw.2 else s) = u at accessed0 steady0 ⊢
  generalize (if (s.chainOf r.d).any (·.spoiled) = true then some s.draw.1 else none : Option Nat) = g
  obtain ⟨accessed, steady, only⟩ := finishes_rows seed step g (r.area r.pass).n0 (r.area r.pass).w (r.area r.pass).h u r
    (r.area r.pass).m0
  generalize u.finishRows seed step (r.area r.pass).m0 (r.area r.pass).n0 (r.area r.pass).w g r (r.area r.pass).h = q
    at accessed steady only ⊢
  obtain ⟨v, e | r1⟩ := q
  · exact ⟨accessed0.trans accessed, steady0.trans steady, rfl⟩
  · exact ⟨accessed0.trans accessed, steady0.trans steady, only r1 rfl⟩

end

/-! ### The pass itself -/

/-- A run that replaces one of its op is the op's run. -/
theorem matRun_setMat {s : State} {op : Nat} {r r' : MatRun} (run : s.matRun op = some r) (same : r'.op = op) :
    (s.setMat r').matRun op = some r' := by
  unfold State.matRun at run ⊢
  simp only [State.setMat, same]
  generalize s.plate.running = l at run ⊢
  induction l with
  | nil => cases run
  | cons y ys ih =>
    by_cases here : y.op = op
    · simp [here, same]
    · have further : List.find? (fun r => r.op == op) ys = some r := by
        rw [List.find?_cons_of_neg (by simpa using here)] at run
        exact run
      simpa [here] using ih further

/-- What the first pass of a run leaves undefined (R77, R79). -/
def begun (s : State) (p : Program) (r : MatRun) : State :=
  if r.pass = 0 then (if r.d.whole then s else s.undefRegion r.d).undefSpill p.root r else s

/-- A pass's sums entered, and its block's results where they are due. -/
def sumsDone (s : State) (o : Op) (p : Program) (r : MatRun) (x : List (List Val) × List (List Val)) (err : Nat → Nat → Int) :
    State × MatRun :=
  if (r.passAt r.pass).2.2 + 1 = r.d.kt ∧ r.d.drains = true then
    (begun s p r).finishBlock p.seed (o.step.getD 0) (r.fed p o x err)
  else (begun s p r, r.fed p o x err)

section

variable (s : State) (o : Op) (p : Program) (r : MatRun) (x : List (List Val) × List (List Val)) (err : Nat → Nat → Int)

theorem begun_frame : Accessed s (begun s p r) ∧ Steady s (begun s p r) := by
  have region : Accessed s (if r.d.whole then s else s.undefRegion r.d) ∧ Steady s (if r.d.whole then s else s.undefRegion r.d) := by
    split
    exacts [⟨.refl s, .refl s⟩, ⟨accessed_undefRegion s r.d, .undefRegion s r.d⟩]
  unfold begun
  split
  exacts [⟨region.1.trans (accessed_undefSpill _ p.root r), region.2.trans (.undefSpill _ p.root r)⟩, ⟨.refl s, .refl s⟩]

theorem sumsDone_frame : Accessed s (sumsDone s o p r x err).1 ∧ Steady s (sumsDone s o p r x err).1 ∧
    OnlySums r (sumsDone s o p r x err).2 := by
  obtain ⟨accessed, steady⟩ := begun_frame s p r
  have fed := onlySums_fed r p o x err
  unfold sumsDone
  split
  · obtain ⟨accessed', steady', only⟩ := finishBlock_frame p.seed (o.step.getD 0) (begun s p r) (r.fed p o x err)
    exact ⟨accessed.trans accessed', steady.trans steady', fed.trans only⟩
  · exact ⟨accessed, steady, fed⟩

theorem streamPass_eq : s.streamPass o p r x err =
    (let s2 := (sumsDone s o p r x err).1.setMat
       { (sumsDone s o p r x err).2 with
         pass := r.pass + 1, owed := [], first := [], dup := [], residues := []
         rowsFrom := r.nextRows s.clock.aclk, ramping := false }
     { s2 with plate := { s2.plate with lastPass := some ((r.area r.pass).h, s2.clock.time) } }) := by
  have start : (if r.pass = 0 then (if !r.d.whole then s.undefRegion r.d else s).undefSpill p.root r else s) = begun s p r := by
    unfold begun
    cases r.d.whole <;> rfl
  have clock : (begun s p r).clock = s.clock := (begun_frame s p r).1.clock
  unfold State.streamPass
  dsimp only
  rw [start, clock]
  rfl

variable {s r} {op : Nat} {r0 : MatRun}

/-- R42, R82, R83: a pass streams. -/
theorem streamPass_tookPass (run : s.matRun op = some r0) (same : r.op = op) : s.TookPass (s.streamPass o p r x err) op o p r x err := by
  rintro _ _ rfl rfl
  obtain ⟨accessed, -, only⟩ := sumsDone_frame s o p r x err
  have there : (sumsDone s o p r x err).1.matRun op = some r0 := (matRun_of_accessed accessed op).trans run
  rw [streamPass_eq]
  exact ⟨rfl, matRun_setMat there (only.op.trans same)⟩

theorem streamPass_steady : Steady s (s.streamPass o p r x err) := by
  obtain ⟨-, steady, -⟩ := sumsDone_frame s o p r x err
  rw [streamPass_eq]
  exact steady.trans .of_eq

end

/-- What of its run a pass that has streamed leaves. -/
structure NextPass (r r' : MatRun) : Prop where
  pass    : r'.pass = r.pass + 1
  owed    : r'.owed = []
  masked  : r'.masked = r.masked
  voted   : r'.voted = r.voted
  culprit : r'.culprit = r.culprit

theorem tookPass_run {s t : State} {op : Nat} {o : Op} {p : Program} {r : MatRun} {x : List (List Val) × List (List Val)}
    {err : Nat → Nat → Int} (h : s.TookPass t op o p r x err) :
    ∃ r', t.matRun op = some r' ∧ NextPass r r' ∧ r.Entered r' p o x err := by
  obtain ⟨-, run⟩ := h (begun s p r) (sumsDone s o p r x err) rfl rfl
  obtain ⟨-, -, only⟩ := sumsDone_frame s o p r x err
  refine ⟨_, run, ⟨rfl, rfl, only.masked, only.voted, only.culprit⟩, fun notDue => ?_⟩
  have fed : sumsDone s o p r x err = (begun s p r, r.fed p o x err) := by
    rw [sumsDone, if_neg]
    rintro ⟨last, drains⟩
    rcases notDue with more | keeps
    · exact more last
    · rw [keeps] at drains
      cases drains
  rw [fed]
  exact ⟨rfl, rfl⟩

/-! ### Fold votes (R296) -/

/-- The run with the votes of its fold units counted. -/
def foldsCounted (r : MatRun) (f : DieVotes) : MatRun := if r.makesFolds then r.votes 4 f else r

section

variable (r : MatRun) (f : DieVotes)

theorem foldsCounted_op : (foldsCounted r f).op = r.op := by unfold foldsCounted; split <;> rfl
theorem foldsCounted_voted : (foldsCounted r f).voted = r.voted := by unfold foldsCounted; split <;> rfl
theorem foldsCounted_culprit : (foldsCounted r f).culprit = r.culprit := by unfold foldsCounted; split <;> rfl

/-- A masked fault stays masked. -/
theorem foldsCounted_masked (h : r.masked = true) : (foldsCounted r f).masked = true := by
  unfold foldsCounted
  split
  · simp [MatRun.votes, h]
  · exact h

theorem foldsCounted_sameSums : SameSums r (foldsCounted r f) := by
  unfold foldsCounted
  split <;> exact ⟨rfl, rfl, rfl, rfl, rfl, rfl, rfl, rfl⟩

end

section

variable {s : State} {op : Nat} {o : Op} {p : Program} {r r0 : MatRun} {x : List (List Val) × List (List Val)} {f : DieVotes}
  {err : Nat → Nat → Int}

theorem passed_streams (agreed : r.makesFolds = false ∨ f.lost = none) :
    s.passed o p r x f err = s.streamPass o p (foldsCounted r f) x err := by
  unfold State.passed foldsCounted
  cases folds : r.makesFolds
  · rfl
  · have kept : f.lost = none := agreed.resolve_left (by simp [folds])
    simp [kept]

theorem passed_tookPass (run : s.matRun op = some r0) (same : r.op = op) (agreed : r.makesFolds = false ∨ f.lost = none) :
    s.TookPass (s.passed o p r x f err) op o p (foldsCounted r f) x err := by
  rw [passed_streams agreed]
  exact streamPass_tookPass o p x err run ((foldsCounted_op r f).trans same)

theorem passed_steady : Steady s (s.passed o p r x f err) := by
  unfold State.passed
  dsimp only
  split
  · exact streamPass_steady o p x err
  split
  · exact .of_eq
  · exact streamPass_steady o p x err

/-- R296: folds of which no two agree fail the op. -/
theorem passed_lost (folds : r.makesFolds = true) (lost : f.lost ≠ none) :
    s.passed o p r x f err = s.setMat (r.votes 4 f).passMismatch := by
  unfold State.passed
  simp [folds, Option.isSome_iff_ne_none.mpr lost]

end

end Sys2Proof.Proofs

/-! ## A pass is checked (R289 to R304)

What a check tells and counts lies beside the plate's work; what it decides is the run it leaves. -/

namespace Sys2Proof.Proofs

open Sys2Proof Sys2Proof.Machine Sys2Proof.Laws

/-! ### Residues (R291, R292, R294) -/

/-- Modulo 255 a change of the tree integer shows unless 255 divides it. -/
theorem treeResidue_eq_iff (t e : Int) : treeResidue t 0 = treeResidue t e ↔ (255 : Int) ∣ e := by
  unfold treeResidue
  omega

theorem not_dvd_two_pow (k : Nat) : ¬ (255 : Int) ∣ 2 ^ k := by
  intro h
  have three : (3 : Int) ∣ 2 ^ k := .trans (by decide) h
  have two : (3 : Int) ∣ 2 := Int.prime_three.dvd_of_dvd_pow three
  exact absurd two (by decide)

/-- A tile whose residue holds without a fault fails it with one exactly where the tree's own residue changes. -/
theorem residueFails_of_holds {r : MatRun} {as bs : List Val} (checked : tileChecked as bs = true)
    (holds : r.residueFails as bs 0 = false) (e : Int) : r.residueFails as bs e = false ↔ (255 : Int) ∣ e := by
  rw [← treeResidue_eq_iff (r.treeInt (List.zipWith Val.mul as bs))]
  simp only [MatRun.residueFails, checked, Bool.true_and, bne_eq_false_iff_eq] at holds ⊢
  rw [holds]

/-- R294: one bit never escapes. -/
theorem residuesCatch : ResiduesCatch := by
  intro r as bs checked holds
  have fails : ∀ e, ¬ (255 : Int) ∣ e → r.residueFails as bs e = true := fun e apart =>
    Bool.eq_true_of_not_eq_false (mt (residueFails_of_holds checked holds e).mp apart)
  exact ⟨residueFails_of_holds checked holds, fun k =>
    ⟨fails _ (not_dvd_two_pow k), fails _ (by rw [Int.dvd_neg]; exact not_dvd_two_pow k)⟩⟩

/-! ### What a check tells (R293, R304, R313, R318) -/

theorem residueEvents_reports (o : Op) (pass status : Nat) (cells : List (Nat × List Nat)) (s : State) {q : Nat × List Nat}
    (h : q ∈ cells) : (s.residueEvents o pass status cells).Reports 1 1 q.1 := by
  induction cells generalizing s with
  | nil => cases h
  | cons c cs ih =>
    rcases List.mem_cons.mp h with rfl | later
    · exact (Aside.residueEvents o pass status cs _).steady.reports (raise_reports _ _ _ _ _ _ _ rfl)
    · exact ih _ later

/-- A column that lost no vote is a culprit, or it is none. -/
theorem Aside.culpritUnless (c : Bool) (cell : Nat) (s : State) : Aside s (if c then s else s.columnCulprit cell) := by
  split
  exacts [.refl s, .columnCulprit s cell]

theorem Aside.plateVotes (o : Op) (pass : Nat) (vs : List PlateVote) (s : State) : Aside s (s.plateVotes o pass vs) := by
  induction vs generalizing s with
  | nil => exact .refl s
  | cons v vs ih => exact ((Aside.fault s _ _ _ _ _ _ _ _ _).trans (.culpritUnless v.lost v.cell _)).trans (ih _)

theorem plateVotes_reports (o : Op) (pass : Nat) (vs : List PlateVote) (s : State) {v : PlateVote} (h : v ∈ vs) :
    (s.plateVotes o pass vs).Reports 1 2 v.cell := by
  induction vs generalizing s with
  | nil => cases h
  | cons w ws ih =>
    rcases List.mem_cons.mp h with rfl | later
    · exact ((Aside.culpritUnless v.lost v.cell _).trans (.plateVotes o pass ws _)).steady.reports
        (raise_reports _ _ _ _ _ _ _ rfl)
    · exact ih _ later

theorem Aside.countVote (s : State) (cells : List Nat) (die : Nat) : Aside s (s.countVote cells die) :=
  (Aside.refl s).andThen _ (.count s _ _)

/-- The residue failures of a later run of a pass, counted, and told with those that waited for it. -/
def retold (s : State) (o : Op) (r : MatRun) (x : List (List Val) × List (List Val)) (fs : List TileFault) (lost : Bool) : State :=
  let rs := s.residuesOf r 768 (columnsOf ((r.tilesOf fs).filter (r.tileFails x fs)))
  (s.countResidues (rs.map (·.1))).residueEvents o r.pass (if lost then 0x30 else 0) (r.residues ++ rs)

theorem retold_aside (s : State) (o : Op) (r : MatRun) (x : List (List Val) × List (List Val)) (fs : List TileFault) (lost : Bool) :
    Aside s (retold s o r x fs lost) := (Aside.countResidues _ s).trans (.residueEvents o _ _ _ _)

theorem retold_reports (s : State) (o : Op) (r : MatRun) (x : List (List Val) × List (List Val)) (fs : List TileFault) (lost : Bool)
    {q : Nat × List Nat} (h : q ∈ r.residues) : (retold s o r x fs lost).Reports 1 1 q.1 :=
  residueEvents_reports o _ _ _ _ (List.mem_append_left _ h)

/-! ### Under LIGHT (R293) -/

section

variable {s : State} {op : Nat} {o : Op} {p : Program} {r : MatRun} {x : List (List Val) × List (List Val)} {fs : List TileFault}
  {f : DieVotes}

theorem lightPass_clean (h : r.withheld x fs = []) : s.lightPass o p r x fs f = s.passed o p r x f (faultOf fs) := by
  unfold MatRun.withheld at h
  simp only [State.lightPass, h, List.isEmpty_nil, if_true]

/-- The tiles that fail are withheld. -/
theorem lightPass_withholds (run : s.matRun op = some r) (same : r.op = op) (h : r.withheld x fs ≠ []) :
    ∃ r', (s.lightPass o p r x fs f).matRun op = some r' ∧ r'.owed = r.withheld x fs ∧ r'.first = fs ∧ r'.pass = r.pass ∧
      r'.elems = r.elems ∧ r'.ints = r.ints ∧ r'.failure = r.failure ∧ (s.lightPass o p r x fs f).mem = s.mem := by
  have bad : (r.withheld x fs).isEmpty = false := by simpa using h
  unfold MatRun.withheld at bad
  unfold State.lightPass
  simp only [bad, Bool.false_eq_true, if_false]
  exact ⟨_, matRun_setMat (((Aside.countResidues _ s).matRun op).trans run) same, rfl, rfl, rfl, rfl, rfl, rfl,
    (Aside.countResidues _ s).mem⟩

/-- The run once its tiles have been run again. -/
def rerun (r : MatRun) : MatRun :=
  { r with residues := [], plateAclk := r.plateAclk + shiftTime r.d.mode (r.area r.pass).h }

/-- The faults whose tile sums enter after a second run: those of that run where it replaced the first. -/
def settledFaults (r : MatRun) (fs : List TileFault) (row col : Nat) : Int :=
  faultOf (if r.owed.contains (row, col) then fs else r.first) row col

theorem lightAgain_lost (lost : r.owed.any (r.tileFails x fs) = true) :
    s.lightAgain o p r x fs f = (retold s o r x fs true).setMat (rerun r).passMismatch := by
  simp only [State.lightAgain, lost, if_true]
  rfl

theorem lightAgain_masks (good : r.owed.any (r.tileFails x fs) = false) : s.lightAgain o p r x fs f =
    ((retold s o r x fs false).culprits (r.residues.map (·.1))).passed o p { rerun r with masked := true } x f (settledFaults r fs) := by
  simp only [State.lightAgain, good, Bool.false_eq_true, if_false]
  rfl

theorem rerun_sameSums (m : Bool) : SameSums r { rerun r with masked := m } := ⟨rfl, rfl, rfl, rfl, rfl, rfl, rfl, rfl⟩

end

/-! ### Under FULL (R300) -/

theorem ask_keeps (s : State) (f : Frank) : (s.ask f).mem = s.mem ∧ (s.ask f).plate = s.plate := by
  unfold State.ask
  dsimp only
  split <;> exact ⟨rfl, rfl⟩

theorem ask_matRun (s : State) (f : Frank) (op : Nat) : (s.ask f).matRun op = s.matRun op := by
  unfold State.matRun
  rw [(ask_keeps s f).2]

/-- An op that asks for a frank waits for one. -/
theorem ask_asks (s : State) {f : Frank} (use : f.use_ ≠ .topUp) : (s.ask f).asksFrank f.op = true := by
  unfold State.ask
  dsimp only
  split <;> simp [State.asksFrank, State.count, use]

section

variable {s : State} {op : Nat} {o : Op} {p : Program} {r : MatRun} {x : List (List Val) × List (List Val)} {c : PassFaults}
  {f : DieVotes}

/-- Tiles that differ, or are among those that fail in either run, are those in dispute. -/
theorem disputed_eq (r : MatRun) (x : List (List Val) × List (List Val)) (c : PassFaults) :
    (r.tilesOf (c.p ++ c.d)).filter (fun t => r.tileIn x c.p t != r.tileIn x c.d t ||
      ((r.tilesOf (c.p ++ c.d)).filter (r.tileFails x c.p)).contains t ||
      ((r.tilesOf (c.p ++ c.d)).filter (r.tileFails x c.d)).contains t) = r.disputed x c :=
  List.filter_congr fun t ht => by simp [List.contains_eq_mem, ht]

theorem fullPass_clean (h : r.disputed x c = []) : s.fullPass o p r x c.p c.d f = s.passed o p r x f (faultOf c.p) := by
  unfold State.fullPass
  dsimp only
  rw [disputed_eq, h]
  rfl

/-- The tiles in dispute wait for run V, which asks for a frank. -/
theorem fullPass_asks (run : s.matRun op = some r) (same : r.op = op) (h : r.disputed x c ≠ []) :
    ∃ r', (s.fullPass o p r x c.p c.d f).matRun op = some r' ∧ r'.owed = r.disputed x c ∧ r'.first = c.p ∧ r'.dup = c.d ∧
      r'.pass = r.pass ∧ r'.elems = r.elems ∧ r'.ints = r.ints ∧ (s.fullPass o p r x c.p c.d f).asksFrank op = true ∧
      (s.fullPass o p r x c.p c.d f).mem = s.mem := by
  have odd : (r.disputed x c).isEmpty = false := by simpa using h
  unfold State.fullPass
  dsimp only
  rw [disputed_eq, odd]
  simp only [Bool.false_eq_true, if_false]
  generalize s.residuesOf r 0 _ ++ s.residuesOf r 1536 _ = rs
  have counted := Aside.countResidues (rs.map (·.1)) s
  generalize s.countResidues (rs.map (·.1)) = u at counted ⊢
  have placed := matRun_setMat (r' := { r with owed := r.disputed x c, first := c.p, dup := c.d, residues := rs })
    ((counted.matRun op).trans run) same
  have mem : (u.setMat { r with owed := r.disputed x c, first := c.p, dup := c.d, residues := rs }).mem = s.mem := counted.mem
  generalize u.setMat { r with owed := r.disputed x c, first := c.p, dup := c.d, residues := rs } = v at placed mem ⊢
  have asks := ask_asks v (f := v.matFrank r .vote false (shiftTime r.d.mode (r.area r.pass).h)) nofun
  exact ⟨_, (ask_matRun v _ op).trans placed, rfl, rfl, rfl, rfl, rfl, rfl, same ▸ asks, (ask_keeps v _).1.trans mem⟩

end

/-! ### Vote passes (R300, R304) -/

/-- What a fold that keeps each image once holds: the images. -/
theorem mem_images_foldl {α β : Type} [BEq β] [LawfulBEq β] (g : α → β) (l : List α) (cs : List β) (d : β) :
    d ∈ l.foldl (fun cs t => if cs.contains (g t) then cs else cs ++ [g t]) cs ↔ d ∈ cs ∨ ∃ k ∈ l, d = g k := by
  induction l generalizing cs with
  | nil => simp
  | cons k l ih =>
    rw [List.foldl_cons, ih]
    by_cases there : g k ∈ cs
    · simp only [List.contains_iff_mem, there, if_true, List.exists_mem_cons_iff]
      exact ⟨Or.imp_right .inr, Or.rec .inl (Or.rec (fun same => .inl (same ▸ there)) .inr)⟩
    · simp [there, or_assoc]

theorem mem_verdicts (r : MatRun) (x : List (List Val) × List (List Val)) (vs : List TileFault) (d : Nat × Option Nat) :
    d ∈ r.verdicts x vs ↔ ∃ k ∈ r.owed, d = (k.2, r.verdict x vs k) := by
  rw [MatRun.verdicts]
  have images := mem_images_foldl (fun k : Nat × Nat => (k.2, r.verdict x vs k)) r.owed [] d
  simpa only [List.not_mem_nil, false_or] using images

/-- A tile of which no two runs agree. -/
def undecided (r : MatRun) (x : List (List Val) × List (List Val)) (vs : List TileFault) : Bool :=
  (r.verdicts x vs).any (fun v => v.2.isNone)

theorem undecided_iff (r : MatRun) (x : List (List Val) × List (List Val)) (vs : List TileFault) :
    undecided r x vs = true ↔ ∃ k ∈ r.owed, r.verdict x vs k = none := by
  simp only [undecided, List.any_eq_true, Option.isNone_iff_eq_none, mem_verdicts]
  constructor
  · rintro ⟨_, ⟨k, hk, rfl⟩, none⟩
    exact ⟨k, hk, none⟩
  · rintro ⟨k, hk, none⟩
    exact ⟨_, ⟨k, hk, rfl⟩, none⟩

section

variable (s : State) (o : Op) (p : Program) (r : MatRun) (x : List (List Val) × List (List Val)) (vs : List TileFault) (f : DieVotes)

/-- The cells of the columns that a vote names. -/
def namedCells : List Nat :=
  (r.verdicts x vs).filterMap (fun v => v.2.map (fun k => s.cellOf (r.positionOf v.1 + k)))

/-- A vote pass told and counted. -/
def voteTold : State :=
  (((retold s o r x vs (undecided r x vs)).plateVotes o r.pass ((r.verdicts x vs).map (s.plateVote r))).countVote
    (namedCells s r x vs) 0).countVote (namedCells s r x vs) 1

/-- The run after its vote pass, with the culprit that its first vote named. -/
def voteRun : MatRun :=
  { rerun r with voted := true, culprit := if r.culprit = 0xFFFF then (namedCells s r x vs).headD 0xFFFF else r.culprit }

theorem voted_eq : s.voted o p r x vs f =
    if undecided r x vs then (voteTold s o r x vs).setMat (voteRun s r x vs).passMismatch
    else (voteTold s o r x vs).passed o p { voteRun s r x vs with masked := true } x f (settledFaults r vs) := rfl

theorem voteTold_aside : Aside s (voteTold s o r x vs) :=
  (((retold_aside s o r x vs _).trans (.plateVotes o _ _ _)).trans (.countVote _ _ _)).trans (.countVote _ _ _)

/-- Each vote is reported. -/
theorem voteTold_reports {d : Nat × Option Nat} (h : d ∈ r.verdicts x vs) :
    (voteTold s o r x vs).Reports 1 2 (s.cellOf (r.positionOf d.1 + d.2.getD 0)) :=
  ((Aside.countVote _ _ _).trans (.countVote _ _ _)).steady.reports
    (plateVotes_reports o _ _ _ (List.mem_map_of_mem (f := s.plateVote r) h))

theorem voteRun_sameSums (m : Bool) : SameSums r { voteRun s r x vs with masked := m } := ⟨rfl, rfl, rfl, rfl, rfl, rfl, rfl, rfl⟩

variable {r x vs}

theorem voteRun_culprit_kept (h : r.culprit ≠ 0xFFFF) : (voteRun s r x vs).culprit = r.culprit := if_neg h

/-- R304: of a decided vote the first verdict names the culprit. -/
theorem voteRun_culprit_first {d : Nat × Option Nat} {ds : List (Nat × Option Nat)} (decided : undecided r x vs = false)
    (unnamed : r.culprit = 0xFFFF) (first : r.verdicts x vs = d :: ds) :
    (voteRun s r x vs).culprit = s.cellOf (r.positionOf d.1 + d.2.getD 0) := by
  obtain ⟨col, _ | k⟩ := d
  · simp [undecided, first] at decided
  · simp [voteRun, namedCells, first, unnamed]

end

/-! ### PLATE_PASS_END and FULL_VOTE_PASS -/

/-- What the command answers beside the queue, the clocks and the actor. -/
structure Answers (t u : State) : Prop where
  mem   : t.mem = u.mem
  plate : t.plate = u.plate
  power : t.power = u.power
  bound : t.fw = u.fw

theorem done_answers (s u : State) : ∃ t, done s u = .next t ∧ Answers t u := ⟨_, rfl, rfl, rfl, rfl, rfl⟩

namespace Answers

variable {t u : State} (h : Answers t u)

include h

theorem matRun (op : Nat) : t.matRun op = u.matRun op := by unfold State.matRun; rw [h.plate]

theorem asksFrank (op : Nat) : t.asksFrank op = u.asksFrank op := by unfold State.asksFrank; rw [h.power]

theorem reports {kind code subject : Nat} (told : u.Reports kind code subject) : t.Reports kind code subject := by
  unfold State.Reports
  rw [h.bound]
  exact told

theorem tookPass {s : State} {op : Nat} {o : Op} {p : Program} {r : MatRun} {x : List (List Val) × List (List Val)}
    {err : Nat → Nat → Int} (took : s.TookPass u op o p r x err) : s.TookPass t op o p r x err := by
  intro s1 y hs hy
  obtain ⟨mem, run⟩ := took s1 y hs hy
  exact ⟨h.mem.trans mem, (h.matRun op).trans run⟩

end Answers

section

variable {s s1 : State} {op : Nat} {o : Op} {r : MatRun} {p : Program} {c : PassFaults} {f : DieVotes} {v : VotePass}
  {x : List (List Val) × List (List Val)} {e : MemErr}

/-- What a pass of the plate leaves, from its operands read. -/
def passLeaves (o : Op) (p : Program) (r : MatRun) (c : PassFaults) (f : DieVotes) :
    State × Except MemErr (List (List Val) × List (List Val)) → State
  | (s1, .error e) => s1.setMat (r.fail e)
  | (s1, .ok x) =>
    if r.check = 1 then s1.passed o p r x f (faultOf c.p)
    else if r.check = 3 then s1.fullPass o p r x c.p c.d f
    else if r.owed.isEmpty then s1.lightPass o p r x c.p f else s1.lightAgain o p r x c.p f

theorem streams_acting (s : State) (op : Nat) (r : MatRun) : (s.acting op).streams r = s.streams r := by
  simp only [State.streams, State.holdsFrank, State.asksFrank, acting_power]

theorem onPlate_acting (h : s.OnPlate op o r p) : (s.acting op).op op = some o ∧ (s.acting op).matRun op = some r ∧
    (s.acting op).program o.ring = some p := by
  refine ⟨?_, ?_, ?_⟩
  · rw [State.op, acting_seq]; exact h.found
  · rw [State.matRun, acting_plate]; exact h.run
  · rw [State.program, acting_seq]; exact h.program

theorem exec_platePassEnd (h : s.OnPlate op o r p) (streams : s.streams r = true) (room : r.blockRoom = true)
    (due : r.check = 3 → r.owed = []) :
    exec (.platePassEnd op c f) s = done s (passLeaves o p r c f ((s.acting op).passOperands p.root r)) := by
  refine whenOp_some h.ready ?_
  obtain ⟨found, run, program⟩ := onPlate_acting h
  have may : (!(s.acting op).streams r || !r.blockRoom || (r.check == 3 && !r.owed.isEmpty)) = false := by
    rw [streams_acting, streams, room]
    simpa using due
  simp only [platePassEnd, found, run, program, may, Bool.false_eq_true, if_false]
  generalize (s.acting op).passOperands p.root r = q
  obtain ⟨s1, _ | x⟩ := q <;> rfl

/-- The state that the operands of a pass are read in has the run on its plate. -/
theorem matRun_of_operands {u : State} (run : u.matRun op = some r)
    {q : Except MemErr (List (List Val) × List (List Val))} (read : u.passOperands p.root r = (s1, q)) : s1.matRun op = some r := by
  have accessed := accessed_passOperands p.root u r
  rw [read] at accessed
  exact (matRun_of_accessed accessed op).trans run

theorem releaseUse_matRun (u : State) (op : Nat) (use : FrankUse) : (u.releaseUse op use).matRun op = u.matRun op :=
  (Aside.attributeAll _ _).matRun op

theorem exec_fullVotePass (h : s.OnPlate op o r p) (check : r.check = 3) (streams : s.streams r = true) (owed : r.owed ≠ [])
    (read : ((s.acting op).releaseUse op .vote).passOperands p.root r = (s1, .ok x)) :
    exec (.fullVotePass op v) s = done s (s1.voted o p r x v.tiles v.folds) := by
  refine whenOp_some h.ready ?_
  obtain ⟨found, run, program⟩ := onPlate_acting h
  have may : ¬ (r.check ≠ 3 ∨ r.owed.isEmpty = true ∨ (!(s.acting op).streams r) = true) := by
    rw [streams_acting, streams]
    simp [check, owed]
  simp only [fullVotePass, found, run, program, if_neg may, read]

/-! #### The cases of a pass -/

/-- R42: a pass that its check lets through streams. -/
theorem passLeaves_clean (h : r.owed = []) (clean : r.check = 1 ∨ (r.check = 2 ∧ r.withheld x c.p = []) ∨
    (r.check = 3 ∧ r.disputed x c = [])) : passLeaves o p r c f (s1, .ok x) = s1.passed o p r x f (faultOf c.p) := by
  unfold passLeaves
  rcases clean with off | ⟨light, none⟩ | ⟨full, none⟩
  · simp only [off, if_true]
  · simp [light, h, lightPass_clean none]
  · simp [full, fullPass_clean none]

theorem passLeaves_light (light : r.check = 2) (h : r.owed = []) :
    passLeaves o p r c f (s1, .ok x) = s1.lightPass o p r x c.p f := by
  simp [passLeaves, light, h]

theorem passLeaves_again (light : r.check = 2) (h : r.owed ≠ []) :
    passLeaves o p r c f (s1, .ok x) = s1.lightAgain o p r x c.p f := by
  simp [passLeaves, light, h]

theorem passLeaves_full (full : r.check = 3) : passLeaves o p r c f (s1, .ok x) = s1.fullPass o p r x c.p c.d f := by
  simp [passLeaves, full]

/-- R293: a re-run that fails again fails the op; either way the failures that waited are told. -/
theorem lightAgain_fails (run : s1.matRun op = some r) (same : r.op = op) (lost : r.owed.any (r.tileFails x c.p) = true) :
    ∃ r', (s1.lightAgain o p r x c.p f).matRun op = some r' ∧ r'.failure = some (0x30, none) ∧
      (∀ q ∈ r.residues, (s1.lightAgain o p r x c.p f).Reports 1 1 q.1) ∧ (s1.lightAgain o p r x c.p f).mem = s1.mem := by
  have told := retold_aside s1 o r x c.p true
  rw [lightAgain_lost lost]
  exact ⟨_, matRun_setMat ((told.matRun op).trans run) same, rfl, fun q hq => retold_reports s1 o r x c.p true hq, told.mem⟩

/-- R293: a re-run that holds masks the fault, and its sums enter for the tiles it ran again. -/
theorem lightAgain_enters (run : s1.matRun op = some r) (same : r.op = op) (good : r.owed.any (r.tileFails x c.p) = false)
    (agreed : r.makesFolds = false ∨ f.lost = none) :
    ∃ r', (s1.lightAgain o p r x c.p f).matRun op = some r' ∧ r'.masked = true ∧ r'.owed = [] ∧ r'.pass = r.pass + 1 ∧
      (∀ q ∈ r.residues, (s1.lightAgain o p r x c.p f).Reports 1 1 q.1) ∧ r.Entered r' p o x (settledFaults r c.p) := by
  have told := (retold_aside s1 o r x c.p false).trans (.culprits (r.residues.map (·.1)) _)
  have reports : ∀ q ∈ r.residues, ((retold s1 o r x c.p false).culprits (r.residues.map (·.1))).Reports 1 1 q.1 := fun q hq =>
    (Aside.culprits _ _).steady.reports (retold_reports s1 o r x c.p false hq)
  rw [lightAgain_masks good]
  obtain ⟨r', run', next, entered⟩ := tookPass_run (passed_tookPass (r := { rerun r with masked := true }) (o := o) (p := p) (x := x)
    (err := settledFaults r c.p) ((told.matRun op).trans run) same agreed)
  have sums := foldsCounted_sameSums { rerun r with masked := true } f
  exact ⟨r', run', next.masked.trans (foldsCounted_masked _ f rfl), next.owed, next.pass.trans (congrArg (· + 1) sums.pass),
    fun q hq => passed_steady.reports (reports q hq), (rerun_sameSums true).entered (sums.entered entered)⟩

/-! #### The cases of a vote pass -/

/-- R300: with no majority the op fails. -/
theorem voted_fails (run : s1.matRun op = some r) (same : r.op = op) (lost : ∃ k ∈ r.owed, r.verdict x v.tiles k = none) :
    ∃ r', (s1.voted o p r x v.tiles v.folds).matRun op = some r' ∧ r'.failure = some (0x30, none) ∧ r'.voted = true ∧
      (∀ d ∈ r.verdicts x v.tiles,
        (s1.voted o p r x v.tiles v.folds).Reports 1 2 (s1.cellOf (r.positionOf d.1 + d.2.getD 0))) := by
  have told := voteTold_aside s1 o r x v.tiles
  rw [voted_eq, if_pos ((undecided_iff r x v.tiles).mpr lost)]
  exact ⟨_, matRun_setMat ((told.matRun op).trans run) same, rfl, rfl, fun d hd => voteTold_reports s1 o r x v.tiles hd⟩

/-- R300, R304: a decided vote masks the fault, names its first culprit, and run V's sums enter for the tiles it voted on. -/
theorem voted_enters (run : s1.matRun op = some r) (same : r.op = op) (decided : ∀ k ∈ r.owed, r.verdict x v.tiles k ≠ none)
    (agreed : r.makesFolds = false ∨ v.folds.lost = none) :
    ∃ r', (s1.voted o p r x v.tiles v.folds).matRun op = some r' ∧ r'.masked = true ∧ r'.voted = true ∧ r'.owed = [] ∧
      r'.pass = r.pass + 1 ∧ (r.culprit ≠ 0xFFFF → r'.culprit = r.culprit) ∧
      (∀ d ds, r.culprit = 0xFFFF → r.verdicts x v.tiles = d :: ds → r'.culprit = s1.cellOf (r.positionOf d.1 + d.2.getD 0)) ∧
      (∀ d ∈ r.verdicts x v.tiles,
        (s1.voted o p r x v.tiles v.folds).Reports 1 2 (s1.cellOf (r.positionOf d.1 + d.2.getD 0))) ∧
      r.Entered r' p o x (settledFaults r v.tiles) := by
  have told := voteTold_aside s1 o r x v.tiles
  have clear : undecided r x v.tiles = false := by
    rw [Bool.eq_false_iff]
    intro lost
    obtain ⟨k, hk, none⟩ := (undecided_iff r x v.tiles).mp lost
    exact decided k hk none
  rw [voted_eq, clear, if_neg Bool.false_ne_true]
  obtain ⟨r', run', next, entered⟩ := tookPass_run (passed_tookPass (r := { voteRun s1 r x v.tiles with masked := true }) (o := o)
    (p := p) (x := x) (err := settledFaults r v.tiles) ((told.matRun op).trans run) same agreed)
  have sums := foldsCounted_sameSums { voteRun s1 r x v.tiles with masked := true } v.folds
  have culprit : r'.culprit = (voteRun s1 r x v.tiles).culprit := next.culprit.trans (foldsCounted_culprit _ v.folds)
  exact ⟨r', run', next.masked.trans (foldsCounted_masked _ v.folds rfl), next.voted.trans (foldsCounted_voted _ v.folds), next.owed,
    next.pass.trans (congrArg (· + 1) sums.pass), fun named => culprit.trans (voteRun_culprit_kept s1 named),
    fun d ds unnamed first => culprit.trans (voteRun_culprit_first s1 clear unnamed first),
    fun d hd => passed_steady.reports (voteTold_reports s1 o r x v.tiles hd),
    (voteRun_sameSums s1 r x v.tiles true).entered (sums.entered entered)⟩

end

/-! ### The obligation -/

/-- R42, R289, R291 to R296, R299: passes and their checks. -/
theorem platePassesHold : PlatePassesHold := by
  refine ⟨?clean, ?withheld, ?again, ?disputed, ?error⟩
  case clean =>
    intro s s1 op o r r1 p c f x h streams room owed read clean votes
    have e := exec_platePassEnd (c := c) (f := f) h streams room (fun _ => owed)
    rw [read, passLeaves_clean owed clean] at e
    have run := matRun_of_operands (onPlate_acting h).2.1 read
    subst votes
    refine ⟨fun agreed => ?_, fun folds lost => ?_⟩
    · obtain ⟨t, answer, answers⟩ := done_answers s (s1.passed o p r x f (faultOf c.p))
      exact ⟨t, e.trans answer, answers.tookPass (passed_tookPass run h.same agreed)⟩
    · obtain ⟨t, answer, answers⟩ := done_answers s (s1.passed o p r x f (faultOf c.p))
      rw [passed_lost folds lost] at answers
      exact ⟨t, _, e.trans answer, (answers.matRun op).trans (matRun_setMat run h.same), rfl, rfl, answers.mem⟩
  case withheld =>
    intro s s1 op o r p c f x h streams room light owed read bad
    have e := exec_platePassEnd (c := c) (f := f) h streams room (fun _ => owed)
    rw [read, passLeaves_light light owed] at e
    obtain ⟨t, answer, answers⟩ := done_answers s (s1.lightPass o p r x c.p f)
    obtain ⟨r', run, tiles, first, pass, elems, ints, failure, mem⟩ :=
      lightPass_withholds (o := o) (p := p) (f := f) (matRun_of_operands (onPlate_acting h).2.1 read) h.same bad
    have unfailed : r.failure = none := by
      simp only [State.streams, MatRun.streaming, Bool.and_eq_true, Option.isNone_iff_eq_none] at streams
      exact streams.2.2
    exact ⟨t, r', e.trans answer, (answers.matRun op).trans run, tiles, first, pass, elems, ints, failure.trans unfailed,
      answers.mem.trans mem⟩
  case again =>
    intro s s1 op o r p c f x h streams room light owed read
    have e := exec_platePassEnd (c := c) (f := f) h streams room (fun full => by rw [light] at full; cases full)
    rw [read, passLeaves_again light owed] at e
    have run := matRun_of_operands (onPlate_acting h).2.1 read
    obtain ⟨t, answer, answers⟩ := done_answers s (s1.lightAgain o p r x c.p f)
    refine ⟨fun lost => ?_, fun good agreed => ?_⟩
    · obtain ⟨r', run', failure, told, mem⟩ := lightAgain_fails (o := o) (p := p) (f := f) run h.same lost
      exact ⟨t, r', e.trans answer, (answers.matRun op).trans run', failure, fun q hq => answers.reports (told q hq),
        answers.mem.trans mem⟩
    · obtain ⟨r', run', masked, none, pass, told, entered⟩ := lightAgain_enters (o := o) (p := p) run h.same good agreed
      exact ⟨t, r', e.trans answer, (answers.matRun op).trans run', masked, none, pass,
        fun q hq => answers.reports (told q hq), entered⟩
  case disputed =>
    intro s s1 op o r p c f x h streams room full owed read bad
    have e := exec_platePassEnd (c := c) (f := f) h streams room (fun _ => owed)
    rw [read, passLeaves_full full] at e
    obtain ⟨t, answer, answers⟩ := done_answers s (s1.fullPass o p r x c.p c.d f)
    obtain ⟨r', run, tiles, first, dup, pass, elems, ints, asks, mem⟩ :=
      fullPass_asks (o := o) (p := p) (f := f) (matRun_of_operands (onPlate_acting h).2.1 read) h.same bad
    exact ⟨t, r', e.trans answer, (answers.matRun op).trans run, tiles, first, dup, pass, elems, ints,
      (answers.asksFrank op).trans asks, answers.mem.trans mem⟩
  case error =>
    intro s s1 op o r p c f err h streams room due read
    have e := exec_platePassEnd (c := c) (f := f) h streams room due
    rw [read] at e
    have run := matRun_of_operands (onPlate_acting h).2.1 read
    obtain ⟨t, answer, answers⟩ := done_answers s (s1.setMat (r.fail err))
    exact ⟨t, _, e.trans answer, (answers.matRun op).trans (matRun_setMat run h.same), rfl, answers.mem⟩

/-- R300, R304: vote passes. -/
theorem votePassesHold : VotePassesHold := by
  refine ⟨fun s s1 op o r p v x h check streams owed read => ?_, fun r x vs k => ⟨fun d => ?_, fun d p => ?_, fun d p => ?_⟩⟩
  · have e := exec_fullVotePass (v := v) h check streams owed read
    have run := matRun_of_operands ((releaseUse_matRun _ op _).trans (onPlate_acting h).2.1) read
    obtain ⟨t, answer, answers⟩ := done_answers s (s1.voted o p r x v.tiles v.folds)
    refine ⟨fun lost => ?_, fun decided agreed => ?_⟩
    · obtain ⟨r', run', failure, voted, told⟩ := voted_fails (o := o) (p := p) run h.same lost
      exact ⟨t, r', e.trans answer, (answers.matRun op).trans run', failure, voted, fun d hd => answers.reports (told d hd)⟩
    · obtain ⟨r', run', masked, voted, none, pass, kept, first, told, entered⟩ :=
        voted_enters (o := o) (p := p) run h.same decided agreed
      exact ⟨t, r', e.trans answer, (answers.matRun op).trans run', masked, voted, none, pass, kept, first,
        fun d hd => answers.reports (told d hd), entered⟩
  · exact if_pos d
  · rw [MatRun.verdict, if_neg d, if_pos p]
  · rw [MatRun.verdict, if_neg d, if_neg p]

/-- Settles O42: each outcome of a pass and of a vote pass is one of the cases above, and residues modulo 255 see every change that 255
does not divide. -/
theorem platePasses : Obligations.PlatePasses := ⟨platePassesHold, votePassesHold, residuesCatch⟩

end Sys2Proof.Proofs

/-! ## Registers at reset

The registers of a ring and its completion queue repeat at a stride of 0x40 bytes; the others stand at fixed offsets of their blocks.
No ring, queue or NUMERICS entry has been written at reset, so each holds its type's reset value. -/

namespace Sys2Proof.Proofs

open Sys2Proof Sys2Proof.Machine Sys2Proof.Laws

/-! ### The registers of one ring (R229) -/

/-- R229: the word at offset `w` of the registers of a ring and its completion queue. -/
def ringWord (r : Ring) (c : CQ) (w : Nat) : Nat :=
  match w with
  | 0x00 => r.base.toNat
  | 0x08 => sqSizeReg r
  | 0x10 => sqHeadReg r
  | 0x18 => c.base.toNat
  | 0x20 => cqSizeReg c
  | 0x28 => cqTailReg c
  | _ => 0

/-- R229: the registers of ring `n` stand at 0x1000 + 0x40n. -/
theorem ringsReg_ring (s : State) {n w off : Nat} (hn : n < 64) (hw : w < 0x40) (e : off = 0x1000 + 0x40 * n + w) :
    s.ringsReg off = ringWord (s.ring n) (s.cq n) w := by
  have index : (off - 0x1000) / 0x40 = n := by omega
  have word : off % 0x40 = w := by omega
  have inside : 0x1000 ≤ off ∧ off < 0x2000 := by omega
  unfold State.ringsReg
  split
  case h_7 => rw [if_pos inside, index, word]; rfl
  all_goals omega

/-- R229: every ring and completion queue is disabled at reset, with 16 entries each and nothing fetched. -/
theorem reset_ring {n : Nat} (hn : n < 64) :
    State.reset.ringsReg (0x1000 + 0x40 * n) = 0 ∧ State.reset.ringsReg (0x1008 + 0x40 * n) = 4 ∧
      State.reset.ringsReg (0x1010 + 0x40 * n) = 0 ∧ State.reset.ringsReg (0x1018 + 0x40 * n) = 0 ∧
      State.reset.ringsReg (0x1020 + 0x40 * n) = 4 := by
  have word : ∀ w off, w < 0x40 → off = 0x1000 + 0x40 * n + w →
      State.reset.ringsReg off = ringWord Ring.reset CQ.reset w := fun _ _ => ringsReg_ring State.reset hn
  exact ⟨word 0x00 _ (by omega) (by omega), word 0x08 _ (by omega) (by omega), word 0x10 _ (by omega) (by omega),
    word 0x18 _ (by omega) (by omega), word 0x20 _ (by omega) (by omega)⟩

/-! ### The blocks -/

/-- R229: no doorbell page, a poll every 500 ns, no event queue. -/
theorem reset_ringsReg :
    State.reset.ringsReg 0x00 = 0 ∧ State.reset.ringsReg 0x08 = 0x1F4 ∧ State.reset.ringsReg 0x10 = 0 ∧
      State.reset.ringsReg 0x18 = 0xA ∧ State.reset.ringsReg 0x20 = 0 ∧ State.reset.ringsReg 0x28 = 0 :=
  ⟨rfl, rfl, rfl, rfl, rfl, rfl⟩

/-- No page table, no invalidation in progress, and MODULE_TIME at zero. -/
theorem reset_memoryReg :
    State.reset.memoryReg 0x00 = 0 ∧ State.reset.memoryReg 0x10 = 0 ∧ State.reset.memoryReg 0x20 = 0 :=
  ⟨rfl, rfl, rfl⟩

/-- R61: the default check is LIGHT, no duet is enabled and no MATMUL has completed. -/
theorem reset_plateReg :
    State.reset.plateReg 0x00 = 2 ∧ State.reset.plateReg 0x08 = 0 ∧ State.reset.plateReg 0x28 = 0 :=
  ⟨rfl, rfl, rfl⟩

/-- R96, R130: no seed, the policy defaults, and an empty book of scales. -/
theorem reset_numericsReg :
    State.reset.numericsReg 0x08 = 0 ∧ State.reset.numericsReg 0x10 = 0x110 ∧ State.reset.numericsReg 0x18 = 4 ∧
      State.reset.numericsReg 0x20 = 0x20 ∧ State.reset.numericsReg 0x28 = 0 :=
  ⟨rfl, rfl, rfl, rfl, rfl⟩

/-- R263, R287: no node ID, the collective time-out of 50 ms, no epoch and no collective yet. -/
theorem reset_netReg :
    State.reset.netReg 0x00 = 0 ∧ State.reset.netReg 0x18 = 0xC350 ∧ State.reset.netReg 0x58 = 0 ∧ State.reset.netReg 0x68 = 0 :=
  ⟨rfl, rfl, rfl, rfl⟩

/-- R347: depth 1, no pool, the mirror's share at its default, no step yet. -/
theorem reset_proofReg :
    State.reset.proofReg 0x00 = 1 ∧ State.reset.proofReg 0x18 = 0 ∧ State.reset.proofReg 0x20 = 0xF ∧
      State.reset.proofReg 0x28 = 0 ∧ State.reset.proofReg 0x30 = 0 ∧ State.reset.proofReg 0x38 = 0 :=
  ⟨rfl, rfl, rfl, rfl, rfl, rfl⟩

/-- R368: a limit of 2,200 W, and 50 ms and 50 µs for a request to time out and to age. -/
theorem reset_powerReg : State.reset.powerReg 0x00 = 0x898 ∧ State.reset.powerReg 0x18 = 0x320032 := ⟨rfl, rfl⟩

/-- R109: every entry is FREE at reset. -/
theorem reset_entry (n : Nat) : State.reset.entry n = Entry.free := rfl

/-! ### The obligation -/

/-- Settles O4: the fixed registers block by block, those of the 64 rings by their shared layout. -/
theorem resetValues : Obligations.ResetValues := by
  obtain ⟨page, poll, base, size, status, bar2⟩ := reset_ringsReg
  obtain ⟨root, busy, time⟩ := reset_memoryReg
  obtain ⟨check, duet, count⟩ := reset_plateReg
  obtain ⟨seed, policy, flush, run, book⟩ := reset_numericsReg
  obtain ⟨node, timeout, epoch, colls⟩ := reset_netReg
  obtain ⟨limit, frank⟩ := reset_powerReg
  obtain ⟨depth, pages, mirror, slot, now, proved⟩ := reset_proofReg
  exact ⟨rfl, rfl, page, poll, base, size, status, bar2, fun _ => reset_ring, root, busy, time, check, duet, count,
    seed, policy, flush, run, book, node, timeout, epoch, colls, depth, pages, mirror, slot, now, proved, limit, frank,
    rfl, reset_entry⟩

end Sys2Proof.Proofs

/-! ## Short commands of the rings

A command that is due starts, does its one thing, and completes with a record, or waits for what R320 and R339 name. -/

namespace Sys2Proof.Proofs

open Sys2Proof Sys2Proof.Machine Sys2Proof.Laws

/-! ### What starting and completing a command leave alone -/

section

variable (s : State) (n id t status d : Nat) (hd : Bool)

@[simp] theorem markStarted_proof : (s.markStarted n id t).proof = s.proof := by obtain ⟨h, l, e⟩ := markStarted_rest s n id t; rw [e]
@[simp] theorem markStarted_net : (s.markStarted n id t).net = s.net := by obtain ⟨h, l, e⟩ := markStarted_rest s n id t; rw [e]
@[simp] theorem markStarted_seq : (s.markStarted n id t).seq = s.seq := by obtain ⟨h, l, e⟩ := markStarted_rest s n id t; rw [e]
@[simp] theorem markStarted_stepCode (k : Nat) : (s.markStarted n id t).stepCode k = s.stepCode k := by
  simp [State.stepCode, State.step_]
@[simp] theorem markStarted_namesEntry (first k : Nat) : (s.markStarted n id t).namesEntry first k = s.namesEntry first k := by
  simp [State.namesEntry]
@[simp] theorem markStarted_clock : (s.markStarted n id t).clock = s.clock := by obtain ⟨h, l, e⟩ := markStarted_rest s n id t; rw [e]
@[simp] theorem markStarted_outbox : (s.markStarted n id t).outbox = s.outbox := by obtain ⟨h, l, e⟩ := markStarted_rest s n id t; rw [e]
@[simp] theorem markStarted_held : (s.markStarted n id t).host.held = s.host.held := by
  unfold State.markStarted; dsimp only; split <;> rfl
@[simp] theorem markStarted_failedLinks : (s.markStarted n id t).life.failedLinks = s.life.failedLinks := by
  unfold State.markStarted; dsimp only; split <;> rfl

@[simp] theorem complete_mem : (s.complete n id status hd d).mem = s.mem := by
  obtain ⟨h, x, e⟩ := complete_frame s n id status hd d; rw [e]
@[simp] theorem complete_proof : (s.complete n id status hd d).proof = s.proof := by
  obtain ⟨h, x, e⟩ := complete_frame s n id status hd d; rw [e]
@[simp] theorem complete_fw : (s.complete n id status hd d).fw = s.fw := by
  obtain ⟨h, x, e⟩ := complete_frame s n id status hd d; rw [e]
@[simp] theorem complete_net : (s.complete n id status hd d).net = s.net := by
  obtain ⟨h, x, e⟩ := complete_frame s n id status hd d; rw [e]
@[simp] theorem complete_numerics : (s.complete n id status hd d).numerics = s.numerics := by
  obtain ⟨h, x, e⟩ := complete_frame s n id status hd d; rw [e]

end

section

variable {s u : State} {ring : Fin 64} {c : FetchedCmd} {typ status d : Nat} {hd : Bool} {f : State → Option State}

/-- A command that is due, and completes once what it does has been told, leaves its ring with a record. -/
theorem completes (due : s.Due ring.val typ c) (told : Told (s.markStarted ring.val c.id typ) u)
    (ends : f s = some (u.complete ring.val c.id status hd d)) :
    ∃ t, whenReadyOr s f = .next t ∧ s.Finished t ring.val c status hd d ∧ t.mem = u.mem ∧ t.proof = u.proof ∧ t.fw = u.fw := by
  have found : (u.ring ring.val).cmd c.id = some { c with started := true } := by
    rw [told.ring]
    exact markStarted_cmd due.found
  have asItWas : (u.ring ring.val).cq = (s.ring ring.val).cq ∧
      (u.ring ring.val).cmds.filter (fun x => x.id != c.id) = (s.ring ring.val).cmds.filter (fun x => x.id != c.id) := by
    rw [told.ring, markStarted_ring]
    exact ⟨rfl, filter_marked _ _⟩
  obtain ⟨record, gone⟩ := complete_finished found status hd d
  rw [asItWas.1] at record
  have sent : ∃ more, u.outbox = s.outbox ++ more := by simpa using told.sent
  have held : ∃ more, u.host.held = s.host.held ++ more := by simpa using told.held
  exact ⟨_, whenReadyOr_some due.ready ends, ⟨recorded_since sent held record, gone.trans asItWas.2⟩, complete_mem _ _ _ _ _ _,
    complete_proof _ _ _ _ _ _, complete_fw _ _ _ _ _ _⟩

end

/-! ### Commands that may wait for a tray peer (R22) -/

theorem noneWanted_of_channels {s t : State} (h : s.NoneWanted) (net : t.net.channels = s.net.channels) : t.NoneWanted := by
  unfold State.NoneWanted
  rw [net]
  exact h

/-- At READY an event that no tray peer's bytes put off happens. -/
theorem whenPeersAnswer_some {s t : State} {f : State → Option State} (hr : s.isReady = true) (h : f s = some t)
    (arrived : t.NoneWanted) : whenPeersAnswer s f = done s (t.dropWindows ((t.actor.map (·.1)).getD 0)) := by
  rw [whenPeersAnswer, if_pos hr, h, ← afterPeers_noneWanted s arrived]
  rfl

/-! ### Images and records in a row -/

theorem records_length (n : Nat) : ∀ (k : Nat) (bs : List Byte), (records n k bs).length = k
  | 0, _ => rfl
  | k + 1, bs => congrArg (· + 1) (records_length n k (bs.drop n))

theorem records_at (n : Nat) : ∀ (k i : Nat) (bs : List Byte), i < k → (records n k bs)[i]? = some ((bs.drop (n * i)).take n)
  | 0, _, _, h => absurd h (Nat.not_lt_zero _)
  | _ + 1, 0, _, _ => rfl
  | k + 1, i + 1, bs, h => by
    have next := records_at n k i (bs.drop n) (Nat.lt_of_succ_lt_succ h)
    rw [List.drop_drop, Nat.add_comm] at next
    exact next

/-- Entries that no image goes to stay. -/
theorem setImages_outside (images : List (List Byte)) : ∀ (book : SMap Entry) (first i : Nat),
    (i < first ∨ first + images.length ≤ i) → (setImages book first images).get Entry.free i = book.get Entry.free i := by
  induction images with
  | nil => exact fun _ _ _ _ => rfl
  | cons b bs ih =>
    intro book first i out
    rw [List.length_cons] at out
    rw [setImages, ih _ _ _ (by omega)]
    exact get_set_other _ _ _ _ _ (by omega)

/-- Each image becomes the entry it goes to. -/
theorem setImages_at (images : List (List Byte)) : ∀ (book : SMap Entry) (first i : Nat) (b : List Byte), images[i]? = some b →
    (setImages book first images).get Entry.free (first + i) = parseEntry b := by
  induction images with
  | nil => nofun
  | cons a as ih =>
    intro book first i b found
    cases i with
    | zero =>
      cases found
      rw [setImages, setImages_outside _ _ _ _ (.inl (by omega))]
      exact get_set_same _ _ _ _
    | succ i =>
      rw [setImages, show first + (i + 1) = first + 1 + i by omega]
      exact ih _ _ _ _ found

/-! ### Events of a field test (R304, R311) -/

/-- Events have been raised, and what the plate schedules has moved with them. -/
structure Noticed (s t : State) : Prop where
  told  : Told s t
  aside : Aside s t

theorem Noticed.trans {s t u : State} (a : Noticed s t) (b : Noticed t u) : Noticed s u :=
  ⟨a.told.trans b.told, a.aside.trans b.aside⟩

theorem Noticed.refl (s : State) : Noticed s s := ⟨.refl s, .refl s⟩

theorem Noticed.raise (s : State) (kind code step opTag subject : Nat) (detail : List Byte) :
    Noticed s (s.raise kind code step opTag subject detail) := ⟨.raise _ _ _ _ _ _ _, .raise _ _ _ _ _ _ _⟩

theorem Noticed.plate (s : State) {p : Plate} (h : p.running = s.plate.running := by rfl) : Noticed s { s with plate := p } :=
  ⟨.of_eq, .of_eq (running := h)⟩

/-- R338: a scheduled column gets its spare, and the switch is told. -/
theorem Noticed.switchColumn (s : State) (c : Nat) : Noticed s (s.switchColumn c) := by
  unfold State.switchColumn
  dsimp only
  split
  · exact .refl s
  · refine .trans ?_ (.raise _ _ _ _ _ _ _)
    split <;> exact .plate s

theorem Noticed.switchColumns (cs : List Nat) (s : State) : Noticed s (s.switchColumns cs) := by
  induction cs generalizing s with
  | nil => exact .refl s
  | cons c cs ih => exact (Noticed.switchColumn s c).trans (ih _)

theorem Noticed.spareEvents (ds : List Nat) (s : State) : Noticed s (s.spareEvents ds) := by
  induction ds generalizing s with
  | nil => exact .refl s
  | cons d ds ih => exact .trans (.raise s _ _ _ _ _ _) (ih _)

theorem Noticed.switchIfIdle (s : State) : Noticed s s.switchIfIdle := by
  unfold State.switchIfIdle
  split
  · exact (Noticed.switchColumns _ s).trans (.trans (.plate _) (.spareEvents _ _))
  · exact .refl s

theorem Noticed.scheduleColumn (s : State) (c : Nat) : Noticed s (s.scheduleColumn c) := by
  unfold State.scheduleColumn
  dsimp only
  split
  · exact .refl s
  split
  · exact .raise s _ _ _ _ _ _
  · exact (Noticed.plate s).trans (.trans (.raise _ _ _ _ _ _ _) (.switchIfIdle _))

/-- One failure of a field test, told and its column scheduled. -/
def testEvent (s : State) (f : TestFail) : State :=
  let s1 := s.fault 0x11 0 f.test.val 2 0 (testUnit f) 0 0 noColumns
  if f.test.val ≤ 1 ∧ f.unit.toNat < 400 then s1.scheduleColumn f.unit.toNat else s1

theorem testEvents_eq_foldl (fs : List TestFail) (s : State) : s.testEvents fs = fs.foldl testEvent s := by
  induction fs generalizing s with
  | nil => rfl
  | cons f fs ih => exact ih _

theorem testEvent_noticed (s : State) (f : TestFail) : Noticed s (testEvent s f) ∧ (testEvent s f).Reports 1 0x11 f.test.val := by
  have raised : Noticed s (s.fault 0x11 0 f.test.val 2 0 (testUnit f) 0 0 noColumns) := .raise _ _ _ _ _ _ _
  have told : (s.fault 0x11 0 f.test.val 2 0 (testUnit f) 0 0 noColumns).Reports 1 0x11 f.test.val :=
    raise_reports _ _ _ _ _ _ _ rfl
  unfold testEvent
  dsimp only
  split
  · have scheduled := Noticed.scheduleColumn (s.fault 0x11 0 f.test.val 2 0 (testUnit f) 0 0 noColumns) f.unit.toNat
    exact ⟨raised.trans scheduled, scheduled.aside.steady.reports told⟩
  · exact ⟨raised, told⟩

/-- Every failure found is told, and the work stands. -/
theorem testEvents_noticed (fs : List TestFail) (s : State) :
    Noticed s (s.testEvents fs) ∧ ∀ f ∈ fs, (s.testEvents fs).Reports 1 0x11 f.test.val := by
  rw [testEvents_eq_foldl]
  induction fs generalizing s with
  | nil => exact ⟨.refl s, nofun⟩
  | cons f fs ih =>
    obtain ⟨here, told⟩ := testEvent_noticed s f
    obtain ⟨further, all⟩ := ih (testEvent s f)
    refine ⟨here.trans further, fun g hg => ?_⟩
    rcases List.mem_cons.mp hg with rfl | later
    exacts [further.aside.steady.reports told, all g later]

/-! ### The commands -/

section

variable {s : State} {ring : Fin 64} {c : FetchedCmd}

/-- A STEP_MARK has begun the boundary that its case asks for, or the replay. -/
def marked (s : State) (ring : Nat) (c : FetchedCmd) (replay : Bool) : State :=
  { s.markStarted ring c.id cmdStepMark with proof := { s.proof with
      boundary := some (boundaryNow (.mark ring c.id) (c.w 0x10) (bits (c.w 0x18) 31 0) replay s.clock.time) } }

/-- What a STEP_MARK without reserved bits, its epoch not in the past, comes to while no COLL runs. -/
theorem stepMark_cases (due : s.Due ring.val cmdStepMark c) (free : s.proof.boundary = none) (header : c.headerBad = false)
    (word : bits (c.w 0x18) 63 32 = 0) (rest : c.restBad 0x20 = false) (epoch : s.net.epoch ≤ bits (c.w 0x18) 31 0)
    (colls : s.net.colls = []) :
    stepMark ring s =
      if s.proof.steps = [] then some (marked s ring.val c false)
      else if c.w 0x10 = s.proof.stepNow + 1 then
        if s.stepFailed then some ((s.markStarted ring.val c.id cmdStepMark).complete ring.val c.id 0x61 false 0)
        else some (marked s ring.val c false)
      else if c.w 0x10 = (s.proof.stepProved + 1) % 2 ^ 64 ∧ c.w 0x10 ≤ s.proof.stepNow then some (marked s ring.val c true)
      else some ((s.markStarted ring.val c.id cmdStepMark).badCmd ring.val c) := by
  have past : ¬ bits (c.w 0x18) 31 0 < s.net.epoch := by omega
  simp [stepMark, free, startCmd_due due, header, word, rest, past, colls, State.endFailedColls, marked]

/-- R335: the partner is the one that is named, or none. -/
theorem setPartner_frame (s : State) (enable : Bool) (node : Nat) : ∃ whole, s.setPartner enable node = { s with proof := { s.proof with
    partner := if enable then some node else none, partnerWhole := whole } } := by
  cases enable with
  | false => exact ⟨false, rfl⟩
  | true =>
    by_cases same : s.proof.partner = some node
    · refine ⟨s.proof.partnerWhole, (if_pos same).trans ?_⟩
      rw [if_pos rfl, ← same]
    · exact ⟨false, if_neg same⟩

/-- R267: a definition is in force at once where its epoch is the present one, and pending where it is a later one. -/
def grouped (s : State) (g : Nat) (d : GroupDef) : State :=
  if d.epoch == s.net.epoch then { s with net := { s.net with active := s.net.active.set none g (some d) } }
  else { s with net := { s.net with pendingGroups := s.net.pendingGroups.set none g (some d) } }

theorem grouped_now {s : State} {d : GroupDef} (now : d.epoch = s.net.epoch) (g : Nat) :
    (grouped s g d).groupActive g = some d ∧ (grouped s g d).net.pendingGroups = s.net.pendingGroups := by
  rw [grouped, if_pos (beq_iff_eq.mpr now)]
  exact ⟨by simp [State.groupActive], rfl⟩

theorem grouped_later {s : State} {d : GroupDef} (later : s.net.epoch < d.epoch) (g : Nat) :
    (grouped s g d).net.active = s.net.active ∧ (grouped s g d).net.pendingGroups.get none g = some d := by
  rw [grouped, if_neg (by simpa using Nat.ne_of_gt later)]
  exact ⟨rfl, by simp⟩

theorem grouped_mem (s : State) (g : Nat) (d : GroupDef) : (grouped s g d).mem = s.mem := by unfold grouped; split <;> rfl

theorem grouped_channels (s : State) (g : Nat) (d : GroupDef) : (grouped s g d).net.channels = s.net.channels := by
  unfold grouped; split <;> rfl

theorem completeWritten_keeps (s : State) (n id status detail : Nat) :
    (s.completeWritten n id status detail).mem = s.mem ∧ (s.completeWritten n id status detail).numerics = s.numerics := by
  unfold State.completeWritten
  split
  · exact ⟨rfl, rfl⟩
  · exact ⟨complete_mem _ _ _ _ _ _, complete_numerics _ _ _ _ _ _⟩

end

/-- Settles O52: each command that is due comes, with its checks passed, to one state, whose memory, entries, definitions and steps are
read off it. -/
theorem shortCommands : Obligations.ShortCommands := by
  refine ⟨?stepMark, ?proveStatus, ?snapshot, ?scaleSet, ?counterRead, fun _ _ _ => rfl, ?groupSetup, ?mirrorSetup, ?fieldTest⟩
  case stepMark =>
    intro s ring c due free header word rest epoch colls
    have cases := stepMark_cases due free header word rest epoch colls
    refine ⟨fun first => ?_, fun later next good => ?_, fun later next failed => ?_, fun later replay old => ?_⟩
    · rw [if_pos first] at cases
      exact ⟨_, whenReadyOr_some due.ready cases, markStarted_mem _ _ _ _, rfl⟩
    · rw [if_neg later, if_pos next, good] at cases
      exact ⟨_, whenReadyOr_some due.ready cases, markStarted_mem _ _ _ _, rfl⟩
    · rw [if_neg later, if_pos next, failed] at cases
      obtain ⟨t, answer, finished, mem, proof, -⟩ := completes due (.refl _) cases
      exact ⟨t, answer, finished, mem.trans (markStarted_mem _ _ _ _), proof.trans (markStarted_proof _ _ _ _)⟩
    · rw [if_neg later, if_neg (by omega), if_pos ⟨replay, old⟩] at cases
      exact ⟨_, whenReadyOr_some due.ready cases, markStarted_mem _ _ _ _, rfl⟩
  case proveStatus =>
    intro s ring c k due header rest code
    have proves : proveStatus ring s = some ((s.markStarted ring.val c.id cmdProveStatus).complete ring.val c.id 0 false
        (k + s.proof.stepProved % 2 ^ 56 * 2 ^ 8)) := by
      simp [proveStatus, startCmd_due due, header, rest, code, at_]
    obtain ⟨t, answer, finished, mem, proof, -⟩ := completes due (.refl _) proves
    exact ⟨t, answer, finished, mem.trans (markStarted_mem _ _ _ _), proof.trans (markStarted_proof _ _ _ _)⟩
  case snapshot =>
    intro s ring c due header dev word rest room
    have short : ¬ c.w 0x18 < imageBytes (bits (c.w 0x20) 0 0) := by omega
    have waits : snapshot ring s = some { s.markStarted ring.val c.id cmdSnapshot with proof := { s.proof with
        snapshots := s.proof.snapshots ++ [(ring.val, c.id, s.mem.ptRoot)] } } := by
      simp [snapshot, startCmd_due due, header, dev, word, rest, short]
    exact ⟨_, whenReadyOr_some due.ready waits, markStarted_mem _ _ _ _, rfl⟩
  case scaleSet =>
    intro s s1 ring c bs first n due header dev aligned low high rest hfirst hn nonzero fits read valid unnamed arrived
    have sets : scaleSet ring s = some (({ s1 with numerics := { s1.numerics with
        book := setImages s1.numerics.book first (records 192 n bs) } } : State).complete ring.val c.id 0 false 0) := by
      simp [scaleSet, startCmd_due due, header, dev, aligned, low, high, rest, ← hfirst, ← hn, Nat.ne_of_gt nonzero,
        Nat.not_lt.mpr fits, read, valid, unnamed]
    refine ⟨_, whenPeersAnswer_some due.ready sets (noneWanted_of_channels arrived (by simp)), complete_mem _ _ _ _ _ _, fun i hi => ?_,
      fun i out => ?_⟩
    · refine (congrArg (fun x : Numerics => x.book.get Entry.free _) (complete_numerics _ _ _ _ _ _)).trans ?_
      exact setImages_at _ _ _ _ _ (records_at _ _ _ _ hi)
    · refine (congrArg (fun x : Numerics => x.book.get Entry.free _) (complete_numerics _ _ _ _ _ _)).trans ?_
      exact setImages_outside _ _ _ _ (by rwa [records_length])
  case counterRead =>
    intro s s1 ring c due header dev aligned low mid high rest sel range fixed write
    have inRange : (if bits (c.w 0x18) 3 0 = 0 then
          bits (c.w 0x18) 46 32 == 0 || decide (16384 < bits (c.w 0x18) 29 16 + bits (c.w 0x18) 46 32)
        else bits (c.w 0x18) 29 16 != 0 || bits (c.w 0x18) 46 32 != 0) = false := by
      split
      next book =>
        obtain ⟨nonzero, fits⟩ := range book
        simp [Nat.ne_of_gt nonzero, fits]
      next other => simp [fixed other]
    have reads : counterRead ring s = some (s1.completeWritten ring.val c.id 0 0) := by
      simp [counterRead, startCmd_due due, header, dev, aligned, low, mid, high, rest, Nat.not_lt.mpr sel, inRange, write]
    obtain ⟨mem, numerics⟩ := completeWritten_keeps s1 ring.val c.id 0 0
    exact ⟨_, whenReadyOr_some due.ready reads, mem, numerics⟩
  case groupSetup =>
    intro s s1 ring c bs g epoch n due header dev word rest hg hepoch hn nonzero few small valid read low distinct arrived member room
    generalize hes : (records 4 n bs).map leNat = es at low distinct member ⊢
    have ids : es.any (fun e => decide (2 ^ 17 ≤ e)) = false := by simpa using low
    have sets : s1.net.epoch ≤ epoch → (epoch == s1.net.epoch && s1.net.colls.any (fun r => r.d.group == g)) = false →
        groupSetup ring s = some ((grouped s1 g ⟨epoch, es⟩).complete ring.val c.id 0 false 0) := by
      intro present idle
      simp only [groupSetup, startCmd_due due, header, dev, word, rest, ← hg, ← hepoch, ← hn, read, hes, ids, distinct, idle,
        markStarted_mem, markStarted_net]
      simp [Nat.ne_of_gt nonzero, Nat.not_lt.mpr few, Nat.not_lt.mpr small, valid, member, Nat.not_lt.mpr present,
        Nat.not_lt.mpr room, grouped]
    have net := complete_net (grouped s1 g ⟨epoch, es⟩) ring.val c.id 0 0 false
    have mem := (complete_mem (grouped s1 g ⟨epoch, es⟩) ring.val c.id 0 0 false).trans (grouped_mem s1 _ _)
    have arrived' := noneWanted_of_channels arrived ((congrArg Net.channels net).trans (grouped_channels s1 _ _))
    refine ⟨fun now idle => ?_, fun later => ?_⟩
    · obtain ⟨active, pending⟩ := grouped_now (d := ⟨epoch, es⟩) now g
      exact ⟨_, whenPeersAnswer_some due.ready (sets (Nat.le_of_eq now.symm) (by simp [idle])) arrived',
        (congrArg (fun x : Net => x.active.get none _) net).trans active, (congrArg Net.pendingGroups net).trans pending, mem⟩
    · obtain ⟨active, pending⟩ := grouped_later (d := ⟨epoch, es⟩) later g
      exact ⟨_, whenPeersAnswer_some due.ready (sets (Nat.le_of_lt later) (by simp [Nat.ne_of_gt later])) arrived',
        (congrArg Net.active net).trans active, mem, (congrArg (fun x : Net => x.pendingGroups.get none _) net).trans pending⟩
  case mirrorSetup =>
    intro s ring c due header low high table rest
    have plain : devBad 0 = false := rfl
    have sets : mirrorSetup ring s = some (((s.markStarted ring.val c.id cmdMirrorSetup).setPartner (bit (c.w 0x10) 32)
        (bits (c.w 0x10) 16 0)).complete ring.val c.id 0 false 0) := by
      simp [mirrorSetup, startCmd_due due, header, low, high, table, rest, plain]
    obtain ⟨whole, frame⟩ := setPartner_frame (s.markStarted ring.val c.id cmdMirrorSetup) (bit (c.w 0x10) 32) (bits (c.w 0x10) 16 0)
    rw [frame] at sets
    obtain ⟨t, answer, finished, mem, proof, -⟩ := completes due .of_eq sets
    refine ⟨t, answer, finished, mem.trans (markStarted_mem _ _ _ _), ?_, ?_⟩
    · rw [proof, markStarted_proof]
    · rw [proof]
  case fieldTest =>
    intro s s1 ring c run due header high nonzero low dev rest links
    have known : bits (bits (c.w 0x10) 15 0) 15 8 = 0 := by simp only [bits] at low ⊢; omega
    obtain ⟨noticed, told⟩ := testEvents_noticed (run.failed.filter (fun f => bit (bits (c.w 0x10) 15 0) f.test.val))
      (s.markStarted ring.val c.id cmdFieldTest)
    refine ⟨fun late => ?_, fun inTime write => ?_⟩
    · have ends : fieldTest ring run s = some (((s.markStarted ring.val c.id cmdFieldTest).testEvents
          (run.failed.filter (fun f => bit (bits (c.w 0x10) 15 0) f.test.val))).complete ring.val c.id 0x70 false 0) := by
        simp [fieldTest, startCmd_due due, header, high, nonzero, known, dev, rest, links, late]
      obtain ⟨t, answer, finished, mem, -, fw⟩ := completes due noticed.told ends
      refine ⟨t, answer, finished, mem.trans (noticed.aside.mem.trans (markStarted_mem _ _ _ _)), fun f hf asked => ?_⟩
      unfold State.Reports
      rw [fw]
      exact told f (List.mem_filter.mpr ⟨hf, asked⟩)
    · have root := congrArg Memory.ptRoot (noticed.aside.mem.trans (markStarted_mem _ _ _ _))
      have ends : fieldTest ring run s = some (s1.complete ring.val c.id 0 false 0) := by
        simp [fieldTest, startCmd_due due, header, high, nonzero, known, dev, rest, links, inTime, root, write]
      exact ⟨_, whenReadyOr_some due.ready ends, complete_mem _ _ _ _ _ _⟩

end Sys2Proof.Proofs

/-! ## Drains and brackets of a run (R114, R118, R119, R295)

The end of a run notes its time on the plate before it writes: no access to memory looks at the plate, so those writes come out as they
would before. -/

namespace Sys2Proof.Proofs

open Sys2Proof Sys2Proof.Machine Sys2Proof.Laws

/-! ### Accesses to memory do not look at the plate -/

/-- The state with another plate. -/
def plated (p : Plate) (s : State) : State := { s with plate := p }

section

variable (p : Plate) (s : State)

@[simp] theorem plated_mem : (plated p s).mem = s.mem := rfl
@[simp] theorem plated_host : (plated p s).host = s.host := rfl
@[simp] theorem plated_proof : (plated p s).proof = s.proof := rfl
theorem plated_inHbm : (plated p s).inHbm = s.inHbm := rfl
theorem plated_poisoned : (plated p s).poisoned = s.poisoned := rfl
theorem plated_ramWord : (plated p s).ramWord = s.ramWord := rfl
theorem plated_keptPages : (plated p s).keptPages = s.keptPages := rfl
theorem plated_member : (plated p s).member = s.member := rfl
theorem plated_hbmBytes : (plated p s).hbmBytes = s.hbmBytes := rfl
theorem plated_inGroup : (plated p s).inGroup = s.inGroup := rfl

theorem plated_ownWindow : (plated p s).ownWindow = s.ownWindow := by
  delta State.ownWindow
  rw [plated_member]

theorem plated_place : (plated p s).place = s.place := by
  have ranges : (plated p s).ranges = s.ranges := by
    delta State.ranges
    rw [plated_hbmBytes, plated_member, plated_inGroup]
  delta State.place
  rw [plated_ownWindow, plated_hbmBytes, ranges]

theorem plated_check : (plated p s).check = s.check := by
  have zone : (plated p s).zoneAt = s.zoneAt := by
    delta State.zoneAt
    rw [plated_place]
  delta State.check
  rw [plated_place, zone, show (plated p s).linkFailed = s.linkFailed from rfl]

theorem plated_walk3 : (plated p s).walk3 = s.walk3 := by
  delta State.walk3
  rw [plated_inHbm, plated_poisoned, plated_ramWord]

theorem plated_walk2 : (plated p s).walk2 = s.walk2 := by
  delta State.walk2
  rw [plated_inHbm, plated_poisoned, plated_ramWord, plated_walk3]

theorem plated_walk : (plated p s).walk = s.walk := by
  delta State.walk
  rw [plated_inHbm, plated_poisoned, plated_ramWord, plated_walk2]

theorem plated_walkEntries : (plated p s).walkEntries = s.walkEntries := by
  delta State.walkEntries
  rw [plated_inHbm, plated_ramWord]

theorem plated_frameOf : (plated p s).frameOf = s.frameOf := by
  delta State.frameOf
  rw [plated_walk, plated_mem, plated_inHbm]

theorem plated_refusesWrite : (plated p s).refusesWrite = s.refusesWrite := by
  have frame : (plated p s).protectedFrame = s.protectedFrame := by
    delta State.protectedFrame
    rw [plated_proof, plated_keptPages, plated_frameOf]
  delta State.refusesWrite
  rw [plated_proof, plated_inHbm, frame]

theorem plated_checkPage : (plated p s).checkPage = s.checkPage := by
  delta State.checkPage
  rw [plated_refusesWrite, plated_ownWindow, plated_check]

end

/-- R307: a block poisoned and told. -/
def poisonTold (s : State) (a : Nat) : State :=
  (poisonNoted s a).fault 8 s.actorTag (memoryUnit a) (if s.actor.isSome then 1 else 2) (if s.actor.isSome then 0x31 else 0)
    (memoryUnit a) 0 (eventAddr (a / 64 * 64)) noColumns

theorem poisonBlock_eq (s : State) (a : Nat) : s.poisonBlock a =
    (let u := if memoryId a = 1 then (poisonTold s a).recordRepair a else poisonTold s a
     if u.keptPages.any (fun p => (u.frameOf p).any (fun x => x.2 == a / 0x10000 * 0x10000)) then u.dirty 1 else u) := rfl

section

variable (p : Plate)

theorem plated_sendHost (s : State) (o : Output) : plated p (s.sendHost o) = (plated p s).sendHost o := by
  unfold State.sendHost
  rw [apply_ite (plated p)]
  rfl

theorem plated_fireVector (s : State) (v : Nat) : plated p (s.fireVector v) = (plated p s).fireVector v := by
  unfold State.fireVector
  rw [apply_ite (plated p), plated_sendHost]
  rfl

theorem plated_drainEvents (fuel : Nat) (s : State) : plated p (State.drainEvents fuel s) = State.drainEvents fuel (plated p s) := by
  induction fuel generalizing s with
  | zero => rfl
  | succ k ih =>
    unfold State.drainEvents
    rw [plated_host]
    split
    · rfl
    · rw [apply_ite (plated p)]
      dsimp only
      rw [ih, plated_fireVector]
      rfl

theorem plated_raise (s : State) (kind code step opTag subject : Nat) (detail : List Byte) :
    plated p (s.raise kind code step opTag subject detail) = (plated p s).raise kind code step opTag subject detail := by
  have buffer : ∀ (x : State) (e : EventRec), plated p (x.buffer e) = (plated p x).buffer e := by
    intro x e
    unfold State.buffer
    rw [apply_ite (plated p), plated_drainEvents]
    rfl
  unfold State.raise
  dsimp only
  rw [apply_ite (plated p), buffer, apply_ite (plated p)]
  rfl

theorem plated_fault (s : State) (code opTag subject outcome status unit where_ address : Nat) (columns : List Nat) :
    plated p (s.fault code opTag subject outcome status unit where_ address columns) =
      (plated p s).fault code opTag subject outcome status unit where_ address columns := plated_raise p _ _ _ _ _ _ _

theorem plated_recordRepair (s : State) (a : Nat) : plated p (s.recordRepair a) = (plated p s).recordRepair a := by
  unfold State.recordRepair
  dsimp only
  rw [apply_ite (plated p), plated_fault]
  rfl

theorem plated_correctedTold (s : State) (a : Nat) : plated p (correctedTold s a) = correctedTold (plated p s) a := by
  unfold correctedTold
  dsimp only
  rw [apply_ite (plated p), plated_fault, show (plated p s).count (0x480 + 8 * memoryId a) 1 = plated p (s.count (0x480 + 8 * memoryId a) 1)
    from rfl]
  generalize s.count (0x480 + 8 * memoryId a) 1 = u
  rw [plated_mem]
  cases u.mem.corrAddr.get none (memoryId a) <;> rfl

theorem plated_rowNoted (s : State) (a : Nat) : plated p (rowNoted s a) = rowNoted (plated p s) a := by
  unfold rowNoted
  dsimp only
  rw [apply_ite (plated p), apply_ite (plated p), plated_recordRepair]
  rfl

theorem plated_corrected (s : State) (a : Nat) : plated p (s.corrected a) = (plated p s).corrected a := by
  rw [corrected_eq, corrected_eq, plated_rowNoted, plated_correctedTold]

theorem plated_dirty (s : State) (cause : Nat) : plated p (s.dirty cause) = (plated p s).dirty cause := rfl

theorem plated_poisonBlock (s : State) (a : Nat) : plated p (s.poisonBlock a) = (plated p s).poisonBlock a := by
  have repaired : plated p (if memoryId a = 1 then (poisonTold s a).recordRepair a else poisonTold s a) =
      if memoryId a = 1 then (poisonTold (plated p s) a).recordRepair a else poisonTold (plated p s) a := by
    rw [apply_ite (plated p), plated_recordRepair, poisonTold, plated_fault]
    rfl
  rw [poisonBlock_eq, poisonBlock_eq, ← repaired]
  dsimp only
  rw [plated_keptPages, plated_frameOf, apply_ite (plated p), plated_dirty]

theorem plated_meet (bs : List Nat) (s : State) : plated p (s.meet bs) = (plated p s).meet bs := by
  induction bs generalizing s with
  | nil => rfl
  | cons b bs ih =>
    unfold State.meet
    rw [plated_mem]
    split
    · exact ih s
    · dsimp only
      rw [ih, apply_ite (plated p), plated_corrected, plated_poisonBlock]
      rfl

theorem plated_meetEntries (ps : List Nat) (s : State) : plated p (s.meetEntries ps) = (plated p s).meetEntries ps := by
  induction ps generalizing s with
  | nil => rfl
  | cons a ps ih =>
    unfold State.meetEntries
    dsimp only
    rw [← plated_meet, apply_ite (plated p), ih]
    rfl

theorem plated_meetWalk (s : State) (root : Word) (va : Nat) : plated p (s.meetWalk root va) = (plated p s).meetWalk root va := by
  rw [State.meetWalk, State.meetWalk, plated_meetEntries, plated_walkEntries]

/-! #### Translation -/

/-- An access's outcome, on another plate. -/
def platedIn {α : Type} (x : State × α) : State × α := (plated p x.1, x.2)

theorem plated_translate (s : State) (root : Word) (va : Nat) (wr : Bool) :
    platedIn p (s.translate root va wr) = (plated p s).translate root va wr := by
  unfold State.translate
  dsimp only
  rw [plated_mem, ← plated_meetWalk]
  split
  · rw [apply_ite (platedIn p)]
    rfl
  · generalize s.meetWalk root va = u
    rw [plated_walk]
    cases u.walk root va with
    | fault => rfl
    | bad b => rfl
    | leaf pte base size w =>
      dsimp only
      rw [apply_ite (platedIn p)]
      rfl

theorem plated_resolve (s : State) (root : Word) (allow : Allow) (va n : Nat) (wr : Bool) :
    platedIn p (s.resolve root allow va n wr) = (plated p s).resolve root allow va n wr := by
  unfold State.resolve
  rw [apply_ite (platedIn p), ← plated_translate]
  generalize s.translate root va wr = x
  obtain ⟨u, e | a⟩ := x
  · rfl
  · dsimp only [platedIn]
    rw [plated_checkPage]

/-! #### Frames to a tray peer -/

theorem plated_yeEmit (s : State) (m : Nat) (f : YeFrame) : plated p (s.yeEmit m f) = (plated p s).yeEmit m f := by
  unfold State.yeEmit
  dsimp only
  rw [show (plated p s).upPair m = s.upPair m from rfl]
  split <;> rfl

theorem plated_yeSend (s : State) (m typ addr len tag : Nat) (payload : List Byte) (op : Option Nat) :
    plated p (s.yeSend m typ addr len tag payload op) = (plated p s).yeSend m typ addr len tag payload op := by
  unfold State.yeSend
  dsimp only
  rw [apply_ite (plated p), plated_yeEmit]
  rfl

theorem plated_yeWrites (m : Nat) (op : Option Nat) (fuel : Nat) (s : State) (addr : Nat) (bs : List Byte) :
    plated p (s.yeWrites m addr op fuel bs) = (plated p s).yeWrites m addr op fuel bs := by
  induction fuel generalizing s addr bs with
  | zero => rfl
  | succ k ih =>
    cases bs with
    | nil => rfl
    | cons b bs =>
      unfold State.yeWrites
      dsimp only
      rw [ih, plated_yeSend]

/-! #### Writes -/

theorem plated_writeAt (s : State) (z : Zone) (a : Nat) (bs : List Byte) :
    platedIn p (s.writeAt z a bs) = (plated p s).writeAt z a bs := by
  cases z with
  | tray m =>
    unfold State.writeAt
    dsimp only
    rw [apply_ite (platedIn p), platedIn, platedIn, plated_yeWrites]
    rfl
  | _ => rfl

theorem plated_poolCheck (s : State) : plated p s.poolCheck = (plated p s).poolCheck := by
  unfold State.poolCheck
  dsimp only
  rw [apply_ite (plated p), plated_raise]
  rfl

theorem plated_copyPage (s : State) (src dst : Nat) : plated p (s.copyPage src dst) = (plated p s).copyPage src dst := by
  have own : ∀ bs, plated p (s.meetOwn bs) = (plated p s).meetOwn bs := fun bs => by
    unfold State.meetOwn
    rw [show ({ plated p s with actor := none } : State) = plated p { s with actor := none } from rfl, ← plated_meet]
    rfl
  have clear : ∀ (x : State) (a n : Nat), plated p (x.clearPoison a n) = (plated p x).clearPoison a n := fun _ _ _ => rfl
  have store : ∀ (x : State) (r : Store 8), plated p { x with mem := { x.mem with ram := r } } =
      { plated p x with mem := { x.mem with ram := r } } := fun _ _ => rfl
  unfold State.copyPage
  dsimp only
  rw [← own]
  generalize s.meetOwn (blocksOf src 0x10000) = u
  rw [plated_mem, ← store, ← clear]
  rfl

theorem plated_redirectTo (s : State) (num page pte base f : Nat) (rest : List Nat) (whole : Bool) :
    plated p (s.redirectTo num page pte base f rest whole) = (plated p s).redirectTo num page pte base f rest whole := by
  unfold State.redirectTo
  dsimp only
  rw [plated_poolCheck, ← plated_copyPage, ← apply_ite (plated p)]
  rfl

theorem plated_redirect (s : State) (root : Word) (va : Nat) (whole : Bool) :
    platedIn p (s.redirect root va whole) = (plated p s).redirect root va whole := by
  unfold State.redirect
  dsimp only
  rw [show (plated p s).redirecting = s.redirecting from rfl, ← plated_meetWalk]
  cases s.redirecting with
  | none => rfl
  | some st =>
    dsimp only
    rw [apply_ite (platedIn p)]
    generalize s.meetWalk root (va / 0x10000 * 0x10000) = u
    rw [plated_walk, plated_proof]
    cases u.walk root (va / 0x10000 * 0x10000) with
    | fault => rfl
    | bad b => rfl
    | leaf pte base size wr =>
      dsimp only
      rw [apply_ite (platedIn p), apply_ite (platedIn p)]
      cases u.proof.free with
      | nil => rfl
      | cons f rest =>
        dsimp only
        rw [apply_ite (platedIn p), ← plated_redirectTo]
        rfl

theorem plated_poolExhausted (s : State) (va : Nat) : plated p (s.poolExhausted va) = (plated p s).poolExhausted va := by
  unfold State.poolExhausted
  rw [plated_dirty, plated_raise]
  rfl

theorem plated_writePages (root : Word) (allow : Allow) (fuel : Nat) (s : State) (va : Nat) (bs : List Byte) :
    platedIn p (s.writePages root allow fuel va bs) = (plated p s).writePages root allow fuel va bs := by
  induction fuel generalizing s va bs with
  | zero => rfl
  | succ k ih =>
    unfold State.writePages
    dsimp only
    rw [apply_ite (platedIn p), ← plated_redirect]
    refine if_congr .rfl rfl ?_
    generalize s.redirect root va (inPage va bs.length == 0x10000) = x
    obtain ⟨u, _ | _ | _ | _ | _⟩ := x
    · dsimp only [platedIn]
      rw [← plated_resolve]
      generalize u.resolve root allow va (inPage va bs.length) true = y
      obtain ⟨v, e | ⟨z, l⟩⟩ := y
      · rfl
      dsimp only [platedIn]
      rw [← plated_writeAt]
      generalize v.writeAt z l (bs.take (inPage va bs.length)) = w
      obtain ⟨w, e | done⟩ := w
      · rfl
      · exact ih w _ _
    · rfl
    · exact congrArg (Prod.mk · _) (plated_poolExhausted p u va)
    · rfl
    · rfl

theorem plated_writeAll (root : Word) (xs : List (Nat × List Byte)) (s : State) :
    platedIn p (s.writeAll root xs) = (plated p s).writeAll root xs := by
  induction xs generalizing s with
  | nil => rfl
  | cons x xs ih =>
    have write : platedIn p (s.writeVirt root allowOps x.1 x.2) = (plated p s).writeVirt root allowOps x.1 x.2 :=
      plated_writePages p _ _ _ _ _ _
    unfold State.writeAll
    rw [← write]
    generalize s.writeVirt root allowOps x.1 x.2 = y
    obtain ⟨u, e | ok⟩ := y
    · rfl
    · exact ih u

end

/-! ### A block drains (R114, R118, R295) -/

section

variable {s s1 : State} {op : Nat} {o : Op} {r : MatRun} {p : Program} {v : DieVotes}

theorem withScale_frame (r : MatRun) : ∃ c, r.withScale = { r with outScale := r.withScale.outScale, cnt := c } := by
  unfold MatRun.withScale
  split <;> exact ⟨_, rfl⟩

/-- Counting converted elements moves the counters of the run's use and its greatest saturated element. -/
theorem countElems_frame (seed : Word) (step : Nat) (is : List Nat) (r : MatRun) :
    ∃ c a, is.foldl (MatRun.countElem seed step) r = { r with cnt := c, aSat := a } := by
  induction is generalizing r with
  | nil => exact ⟨r.cnt, r.aSat, rfl⟩
  | cons i is ih =>
    obtain ⟨c, a, e⟩ := ih (r.countElem seed step i)
    exact ⟨c, a, e⟩

/-- The run with its next block drained at ACLK cycle `now`. -/
def drainedRun (now : Nat) (seed : Word) (step : Nat) (r : MatRun) (v : DieVotes) : MatRun :=
  { ((r.indexes (r.area (r.drained * r.d.kt)).m0 (r.area (r.drained * r.d.kt)).h (r.area (r.drained * r.d.kt)).n0
      (r.area (r.drained * r.d.kt)).w).foldl (MatRun.countElem seed step) (r.withScale.votes 3 v)) with
    drained := r.drained + 1, rowsFrom := if r.blockRoom then r.rowsFrom else max r.rowsFrom now }

theorem drainedRun_frame (now : Nat) (seed : Word) (step : Nat) (agreed : v.lost = none) : ∃ c a l n0 n1,
    drainedRun now seed step r v = { r with
      outScale := r.withScale.outScale, cnt := c, aSat := a, masked := r.masked || v.c0 + v.c1 != 0
      plateAclk := r.plateAclk + v.c0 + v.c1, lostVote := l, drainVotes0 := n0, drainVotes1 := n1
      drained := r.drained + 1, rowsFrom := if r.blockRoom then r.rowsFrom else max r.rowsFrom now } := by
  obtain ⟨c0, c1, _⟩ := v
  subst agreed
  obtain ⟨_, scaled⟩ := withScale_frame r
  unfold drainedRun
  obtain ⟨c, a, counted⟩ := countElems_frame seed step (r.indexes (r.area (r.drained * r.d.kt)).m0 (r.area (r.drained * r.d.kt)).h
    (r.area (r.drained * r.d.kt)).n0 (r.area (r.drained * r.d.kt)).w) (r.withScale.votes 3 ⟨c0, c1, none⟩)
  rw [counted, scaled]
  exact ⟨c, a, _, _, _, rfl⟩

/-- What a drain leaves, its votes and its writes made. -/
def drainLeaves (s : State) (o : Op) (p : Program) (r : MatRun) (v : DieVotes) : Option State :=
  let r2 := drainedRun s.clock.aclk p.seed (o.step.getD 0) r v
  if v.lost.isSome then some (s.setMat (r.withScale.votes 3 v).mismatch)
  else if !r.d.stores || !r.overlap.isEmpty then some (s.setMat r2)
  else State.settleWrites (s.writeAll p.root (r2.blockPieces p.seed (o.step.getD 0) (r.area (r.drained * r.d.kt)))) r2

theorem franks_acting (s : State) (op : Nat) :
    (s.acting op).holdsFrank op = s.holdsFrank op ∧ (s.acting op).asksFrank op = s.asksFrank op := by
  simp only [State.holdsFrank, State.asksFrank, acting_power, and_self]

theorem exec_blockDrain (h : s.OnPlate op o r p) (due : r.drainDue = true) (holds : s.holdsFrank op = true)
    (asks : s.asksFrank op = false) {t : State} (leaves : drainLeaves (s.acting op) o p r v = some t) :
    exec (.blockDrain op v) s = done s t := by
  refine whenOp_some h.ready (.trans ?_ leaves)
  obtain ⟨found, run, program⟩ := onPlate_acting h
  obtain ⟨frank, request⟩ := franks_acting s op
  have rows : ∀ is : List Nat, (is.foldl (MatRun.countElem p.seed (o.step.getD 0)) (r.withScale.votes 3 v)).rowsFrom = r.rowsFrom := by
    intro is
    obtain ⟨_, scaled⟩ := withScale_frame r
    obtain ⟨c, a, counted⟩ := countElems_frame p.seed (o.step.getD 0) is (r.withScale.votes 3 v)
    rw [counted, scaled]
    rfl
  simp only [blockDrain, found, run, program, due, frank, request, holds, asks, rows, Bool.not_true, Bool.or_self, Bool.false_eq_true,
    if_false]
  rfl

theorem unfailed_of_drainDue (due : r.drainDue = true) : r.failure = none := by
  simp only [MatRun.drainDue, Bool.and_eq_true, Option.isNone_iff_eq_none] at due
  exact due.1.1.2

/-- R295: a row of which no two converters agree fails the op. -/
theorem blockDrain_lost (h : s.OnPlate op o r p) (due : r.drainDue = true) (holds : s.holdsFrank op = true)
    (asks : s.asksFrank op = false) (lost : v.lost ≠ none) :
    ∃ t r', exec (.blockDrain op v) s = .next t ∧ t.matRun op = some r' ∧ r'.failure = some (0x30, none) ∧ r'.drained = r.drained ∧
      t.mem = s.mem := by
  have leaves : drainLeaves (s.acting op) o p r v = some ((s.acting op).setMat (r.withScale.votes 3 v).mismatch) :=
    if_pos (Option.isSome_iff_ne_none.mpr lost)
  obtain ⟨t, answer, answers⟩ := done_answers s ((s.acting op).setMat (r.withScale.votes 3 v).mismatch)
  obtain ⟨_, scaled⟩ := withScale_frame r
  have run := matRun_setMat (r' := (r.withScale.votes 3 v).mismatch) (onPlate_acting h).2.1 (by rw [scaled]; exact h.same)
  exact ⟨t, _, (exec_blockDrain h due holds asks leaves).trans answer, (answers.matRun op).trans run, rfl, by rw [scaled]; rfl,
    answers.mem.trans (acting_mem s op)⟩

/-- R114: a block of a run that stores nothing now is drained into its counters alone. -/
theorem blockDrain_counts (h : s.OnPlate op o r p) (due : r.drainDue = true) (holds : s.holdsFrank op = true)
    (asks : s.asksFrank op = false) (agreed : v.lost = none) (later : r.d.stores = false ∨ r.overlap ≠ []) :
    ∃ t, exec (.blockDrain op v) s = .next t ∧ t.matRun op = some (drainedRun s.clock.aclk p.seed (o.step.getD 0) r v) ∧
      t.mem = s.mem := by
  have keeps : (!r.d.stores || !r.overlap.isEmpty) = true := by simpa using later
  have leaves : drainLeaves (s.acting op) o p r v = some ((s.acting op).setMat (drainedRun s.clock.aclk p.seed (o.step.getD 0) r v)) := by
    simp [drainLeaves, agreed, keeps]
  obtain ⟨t, answer, answers⟩ := done_answers s ((s.acting op).setMat (drainedRun s.clock.aclk p.seed (o.step.getD 0) r v))
  have same : (drainedRun s.clock.aclk p.seed (o.step.getD 0) r v).op = op := by
    obtain ⟨c, a, l, n0, n1, frame⟩ := drainedRun_frame s.clock.aclk p.seed (o.step.getD 0) (r := r) agreed
    rw [frame]
    exact h.same
  exact ⟨t, (exec_blockDrain h due holds asks leaves).trans answer, (answers.matRun op).trans (matRun_setMat (onPlate_acting h).2.1 same),
    answers.mem.trans (acting_mem s op)⟩

/-- R114: a block of a streaming drain is written as it drains. -/
theorem blockDrain_writes (h : s.OnPlate op o r p) (due : r.drainDue = true) (holds : s.holdsFrank op = true)
    (asks : s.asksFrank op = false) (agreed : v.lost = none) (stores : r.d.stores = true) (apart : r.overlap = [])
    (write : (s.acting op).writeAll p.root ((drainedRun s.clock.aclk p.seed (o.step.getD 0) r v).blockPieces p.seed (o.step.getD 0)
      (r.area (r.drained * r.d.kt))) = (s1, none)) :
    ∃ t, exec (.blockDrain op v) s = .next t ∧ t.mem = s1.mem ∧
      (s1.matRun op = some r → t.matRun op = some (drainedRun s.clock.aclk p.seed (o.step.getD 0) r v)) := by
  have leaves : drainLeaves (s.acting op) o p r v = some (s1.setMat (drainedRun s.clock.aclk p.seed (o.step.getD 0) r v)) := by
    simp [drainLeaves, agreed, stores, apart, write, State.settleWrites]
  obtain ⟨t, answer, answers⟩ := done_answers s (s1.setMat (drainedRun s.clock.aclk p.seed (o.step.getD 0) r v))
  refine ⟨t, (exec_blockDrain h due holds asks leaves).trans answer, answers.mem, fun run => ?_⟩
  obtain ⟨c, a, l, n0, n1, frame⟩ := drainedRun_frame s.clock.aclk p.seed (o.step.getD 0) (r := r) agreed
  exact (answers.matRun op).trans (matRun_setMat run (by rw [frame]; exact h.same))

end

/-! ### A run ends, or brackets (R118 to R120) -/

section

variable {s s1 : State} {op : Nat} {o : Op} {r : MatRun} {p : Program}

/-- The plate once the op's last row has drained. -/
def restedPlate (s : State) : Plate :=
  { s.plate with lastPass := s.plate.lastPass.map (fun x => (x.1, s.clock.time)) }

theorem askRun_frame (s : State) (r : MatRun) {use : FrankUse} (run : use ≠ .topUp) (aclk : Nat) :
    (s.askRun r use aclk).mem = s.mem ∧ (∀ op, (s.askRun r use aclk).matRun op = s.matRun op) ∧
      (s.askRun r use aclk).asksFrank r.op = true := by
  unfold State.askRun
  dsimp only
  generalize hf : ({ s.matFrank r use (r.check == 3) aclk with watts := r.watts } : Frank) = f
  have of_run : f.use_ ≠ .topUp ∧ f.op = r.op := by subst hf; exact ⟨run, rfl⟩
  obtain ⟨use_ne, same⟩ := of_run
  rw [← same]
  split
  · exact ⟨(ask_keeps _ f).1.trans (ask_keeps s f).1, fun _ => (ask_matRun _ f _).trans (ask_matRun s f _), ask_asks _ use_ne⟩
  · exact ⟨(ask_keeps s f).1, ask_matRun s f, ask_asks s use_ne⟩

/-- R118, R120: the scale has grown, and the bracket asks for a frank of its own. -/
theorem bracketDue_frame {u : State} {r0 : MatRun} (run : u.matRun op = some r0) (same : r.op = op) :
    (u.bracketDue r).mem = u.mem ∧ (u.bracketDue r).asksFrank op = true ∧
      (u.bracketDue r).matRun op = some { r with decided := 1, outScale := r.outScale.times ((r.margin : Int) + 1) } := by
  have aside := releaseFranks_aside u r.op
  have released : (u.releaseFranks r.op).matRun op = some r0 := (aside.matRun op).trans run
  have placed := matRun_setMat (r' := { r with decided := 1, outScale := r.outScale.times ((r.margin : Int) + 1) }) released same
  unfold State.bracketDue
  dsimp only
  generalize (if r.d.whole then r.drainAclk else _ : Nat) = aclk
  obtain ⟨mem, runs, asks⟩ := askRun_frame ((u.releaseFranks r.op).setMat { r with
    decided := 1, outScale := r.outScale.times ((r.margin : Int) + 1) }) { r with
    decided := 1, outScale := r.outScale.times ((r.margin : Int) + 1) } (use := .bracket) nofun aclk
  exact ⟨mem.trans aside.mem, same ▸ asks, (runs op).trans placed⟩

/-- R118: a run whose elements saturated, at its first or second end. -/
theorem matmulRunEnd_brackets (h : s.OnPlate op o r p) (finished : r.runDone = true) (overflowed : r.overflowed = true)
    (first : r.brackets < 2) :
    ∃ t r', exec (.matmulRunEnd op) s = .next t ∧ t.matRun op = some r' ∧ r'.decided = 1 ∧
      r'.outScale = r.outScale.times ((r.margin : Int) + 1) ∧ t.asksFrank op = true ∧ t.mem = s.mem := by
  obtain ⟨found, run, program⟩ := onPlate_acting h
  have ends : matmulRunEnd op (s.acting op) = some ((plated (restedPlate (s.acting op)) (s.acting op)).bracketDue
      { r with plateAclk := r.plateAclk + r.endAclk }) := by
    simp only [matmulRunEnd, found, run, program, finished, overflowed, first, Bool.not_true, Bool.false_eq_true, if_false, decide_true,
      Bool.and_self, if_true]
    rfl
  obtain ⟨mem, asks, left⟩ := bracketDue_frame (u := plated (restedPlate (s.acting op)) (s.acting op))
    (r := { r with plateAclk := r.plateAclk + r.endAclk }) run h.same
  obtain ⟨t, answer, answers⟩ := done_answers s ((plated (restedPlate (s.acting op)) (s.acting op)).bracketDue
    { r with plateAclk := r.plateAclk + r.endAclk })
  exact ⟨t, _, (whenOp_some h.ready ends).trans answer, (answers.matRun op).trans left, rfl, rfl, (answers.asksFrank op).trans asks,
    answers.mem.trans (mem.trans (acting_mem s op))⟩

/-- The run's end where nothing saturated or no bracket is left: its scale stands, and a bracket or FULL lets the franks go. -/
def runEnded (u : State) (op : Nat) (r : MatRun) : State :=
  (if r.check = 3 ∨ r.brackets ≠ 0 then u.releaseFranks op else u).setMat { r with
    plateAclk := r.plateAclk + r.endAclk, decided := 2 }

theorem runEnded_frame {u : State} (run : u.matRun op = some r) (same : r.op = op) : (runEnded u op r).mem = u.mem ∧
    (runEnded u op r).matRun op = some { r with plateAclk := r.plateAclk + r.endAclk, decided := 2 } := by
  have aside := releaseFranks_aside u op
  unfold runEnded
  split
  · exact ⟨aside.mem, matRun_setMat ((aside.matRun op).trans run) same⟩
  · exact ⟨rfl, matRun_setMat run same⟩

/-- R118, R125: any other run ends with its row statistics written. -/
theorem matmulRunEnd_ends (h : s.OnPlate op o r p) (finished : r.runDone = true) (last : r.overflowed = false ∨ 2 ≤ r.brackets)
    (apart : r.overlap = []) (write : (s.acting op).writeAll p.root r.allStats = (s1, none)) :
    ∃ t r', exec (.matmulRunEnd op) s = .next t ∧ t.matRun op = some r' ∧ r'.decided = 2 ∧ r'.outScale = r.outScale ∧
      r'.plateAclk = r.plateAclk + r.endAclk ∧ t.mem = s1.mem := by
  obtain ⟨found, run, program⟩ := onPlate_acting h
  have settled : (r.overflowed && decide (r.brackets < 2)) = false := by
    rcases last with none | second
    · rw [none, Bool.false_and]
    · simp [Nat.not_lt.mpr second]
  have pieces : ({ r with plateAclk := r.plateAclk + r.endAclk } : MatRun).lateRows p.seed (o.step.getD 0) ++
      ({ r with plateAclk := r.plateAclk + r.endAclk } : MatRun).allStats = r.allStats := by
    rw [MatRun.lateRows, if_pos (.inl (by rw [apart]; rfl)), List.nil_append]
    rfl
  have kept (u : State) : r.overlap.foldl (fun (x : State) (w : Nat × Nat) => x.undefAt w.1 w.2) u = u := by
    rw [apart]
    rfl
  have wrote : (plated (restedPlate (s.acting op)) (s.acting op)).writeAll p.root r.allStats =
      (plated (restedPlate (s.acting op)) s1, none) := by
    rw [← plated_writeAll, write]
    rfl
  have ends : matmulRunEnd op (s.acting op) = some (runEnded (plated (restedPlate (s.acting op)) s1) op r) := by
    simp only [plated, restedPlate] at wrote
    simp only [matmulRunEnd, found, run, program, finished, settled, pieces, wrote, kept, Bool.not_true, Bool.false_eq_true, if_false]
    rfl
  obtain ⟨mem, left⟩ := runEnded_frame (u := plated (restedPlate (s.acting op)) s1) (r := r) run h.same
  obtain ⟨t, answer, answers⟩ := done_answers s (runEnded (plated (restedPlate (s.acting op)) s1) op r)
  exact ⟨t, _, (whenOp_some h.ready ends).trans answer, (answers.matRun op).trans left, rfl, rfl, rfl, answers.mem.trans mem⟩

/-! ### A bracket (R118) -/

theorem again_whole (whole : r.d.whole = true) : r.again.pass = r.pass ∧ r.again.results = r.results := by
  unfold MatRun.again
  rw [if_pos whole]
  exact ⟨rfl, rfl⟩

theorem again_block (block : r.d.whole = false) : r.again.pass = 0 ∧ r.again.results = [] := by
  unfold MatRun.again
  rw [block]
  exact ⟨rfl, rfl⟩

theorem again_frame (r : MatRun) : r.again.op = r.op ∧ r.again.decided = 0 ∧ r.again.brackets = r.brackets + 1 ∧
    r.again.drained = 0 ∧ r.again.outScale = r.outScale := by
  unfold MatRun.again
  dsimp only
  split <;> exact ⟨rfl, rfl, rfl, rfl, rfl⟩

/-- A bracket whose frank is held starts the run again. -/
theorem exec_matmulBracket (ready : s.isReady = true) (run : s.matRun op = some r) (decided : r.decided = 1)
    (unfailed : r.failure = none) (holds : s.holdsFrank op = true) (asks : s.asksFrank op = false) :
    exec (.matmulBracket op) s = done s ((s.acting op).setMat r.again) := by
  refine whenOp_some ready ?_
  have there : (s.acting op).matRun op = some r := by rw [State.matRun, acting_plate]; exact run
  obtain ⟨frank, request⟩ := franks_acting s op
  simp [matmulBracket, there, decided, unfailed, frank, request, holds, asks]

end

/-- Settles O43: a drain moves the counters of its run alone, beside the block it writes; the writes of a run's end do not look at the
plate, so they come out as they would before it rested. -/
theorem drainsAndBrackets : Obligations.DrainsAndBrackets := by
  refine ⟨?drains, ?writes, fun _ _ _ _ _ h ended overflowed first => matmulRunEnd_brackets h ended overflowed first, ?plain, ?stats,
    ?bracket⟩
  case drains =>
    intro s op o r p v h due holds asks
    refine ⟨fun lost => blockDrain_lost h due holds asks lost, fun agreed later => ?_⟩
    have unfailed := unfailed_of_drainDue due
    obtain ⟨t, answer, run, mem⟩ := blockDrain_counts h due holds asks agreed later
    obtain ⟨c, a, l, n0, n1, frame⟩ := drainedRun_frame s.clock.aclk p.seed (o.step.getD 0) (r := r) agreed
    rw [frame] at run
    exact ⟨t, _, answer, run, rfl, rfl, rfl, unfailed, by simp, rfl, mem⟩
  case writes =>
    intro s s1 op o r r2 p v h due holds asks agreed stores apart hr2 write
    subst hr2
    exact blockDrain_writes h due holds asks agreed stores apart write
  case plain =>
    intro s op o r p h ended last apart plain
    have none : r.allStats = [] := by simp [MatRun.allStats, plain]
    obtain ⟨t, r', answer, run, decided, scale, aclk, mem⟩ :=
      matmulRunEnd_ends h ended last apart (s1 := s.acting op) (by rw [none]; rfl)
    exact ⟨t, r', answer, run, decided, scale, aclk, mem.trans (acting_mem s op)⟩
  case stats => exact fun s s1 op o r p h ended last apart _ write _ => matmulRunEnd_ends h ended last apart write
  case bracket =>
    intro s op r ready run same decided unfailed holds asks
    obtain ⟨t, answer, answers⟩ := done_answers s ((s.acting op).setMat r.again)
    obtain ⟨op_eq, undecided, brackets, drained, scale⟩ := again_frame r
    have there : (s.acting op).matRun op = some r := by rw [State.matRun, acting_plate]; exact run
    exact ⟨t, r.again, (exec_matmulBracket ready run decided unfailed holds asks).trans answer,
      (answers.matRun op).trans (matRun_setMat there (op_eq.trans same)), undecided, brackets, drained, scale, again_whole, again_block,
      answers.mem.trans (acting_mem s op)⟩

end Sys2Proof.Proofs

/-! ## The cycle counters (R178, R363)

A step is a tick or the command at the queue's front. A tick counts each ACLK cycle once per die; a command keeps the clocks, unless it
starts or resets the module, and then they keep their count or start again from nothing. -/

namespace Sys2Proof.Proofs

open Sys2Proof Sys2Proof.Machine Sys2Proof.Laws

/-! ### A tick counts each cycle once per die -/

/-- Clocks started again balance, whatever MODULE_TIME they start from. -/
theorem balanced_restart (n : Nat) : ({ Clock.reset with time := n } : Clock).Balanced :=
  ⟨rfl, rfl, Nat.le_refl 0, Nat.zero_lt_succ 15⟩

/-- R178: one of the nine counters takes the cycle, whatever the die does. -/
theorem countCycle_total (s : State) (die : Nat) (c : DieCount) : (s.countCycle die c).total = c.total + 1 := by
  unfold State.countCycle
  split_ifs <;> simp only [DieCount.total] <;> omega

theorem bitOf_le_one (b : Bool) : bitOf b ≤ 1 := by cases b <;> decide

/-- R178, R363: one cycle more on each die, and at most one more of them stretched. -/
theorem aclkCycle_balanced {s : State} (h : s.clock.Balanced) (periods : Nat) (stretched : Bool) (left : Nat) :
    (s.aclkCycle periods stretched left).clock.Balanced := by
  obtain ⟨die0, die1, few, -⟩ := h
  exact ⟨(countCycle_total s 0 _).trans (congrArg (· + 1) die0), (countCycle_total s 1 _).trans (congrArg (· + 1) die1),
    Nat.add_le_add few (bitOf_le_one stretched), Nat.mod_lt _ (by decide)⟩

theorem aclkCycles_balanced (fuel : Nat) {s : State} (h : s.clock.Balanced) : (s.aclkCycles fuel).clock.Balanced := by
  induction fuel generalizing s with
  | zero => exact h
  | succ k ih =>
    unfold State.aclkCycles
    dsimp only
    generalize (if stretchedAt s.stretchNow s.clock.stretchPos = true then 3 else 2) = periods
    split
    · exact h
    · exact ih (aclkCycle_balanced h _ _ _)

/-- MODULE_TIME and the root periods at hand are no part of the balance. -/
theorem tick_balanced {s : State} (h : s.clock.Balanced) : s.tick.clock.Balanced := by
  unfold State.tick
  dsimp only
  split
  · split
    · exact aclkCycles_balanced 5 h
    · exact h
  · exact h

/-! ### The clocks of a start -/

@[simp] theorem raise_clock (s : State) (kind code step opTag subject : Nat) (detail : List Byte) :
    (s.raise kind code step opTag subject detail).clock = s.clock := (Accessed.raise s kind code step opTag subject detail).clock

@[simp] theorem setBank_clock (s : State) (kind : Nat) (b : ImageBank) : (s.setBank kind b).clock = s.clock := by
  unfold State.setBank
  split <;> rfl

@[simp] theorem rejected_clock (s : State) (kind slot result : Nat) : (s.rejected kind slot result).clock = s.clock :=
  raise_clock s _ _ _ _ _ _

@[simp] theorem dropPending_clock (s : State) (kind : Nat) : (s.dropPending kind).clock = s.clock := setBank_clock s kind _

theorem chooseActive_clock (s : State) (kind : Nat) : (s.chooseActive kind).1.clock = s.clock := by
  unfold State.chooseActive
  dsimp only
  split
  · exact setBank_clock s kind _
  · split
    · exact (setBank_clock _ kind _).trans (rejected_clock s kind _ _)
    · simp only [setBank_clock, rejected_clock]

/-- Choosing an image takes no time (R376). -/
theorem chooseImage_clock (s : State) (kind : Nat) : (s.chooseImage kind).1.clock = s.clock := by
  unfold State.chooseImage
  dsimp only
  split
  · split
    · exact (chooseActive_clock _ kind).trans (dropPending_clock s kind)
    · split
      · exact setBank_clock s kind _
      · exact (rejected_clock _ kind _ _).trans (dropPending_clock s kind)
  · exact chooseActive_clock s kind

theorem holdStart_clock (s : State) (stage code unit subject : Nat) : (s.holdStart stage code unit subject).clock = s.clock :=
  raise_clock _ _ _ _ _ _ _

theorem exhaustedEvents_clock (fs : List Nat) (s : State) : (s.exhaustedEvents fs).clock = s.clock := by
  induction fs generalizing s with
  | nil => rfl
  | cons f fs ih => exact (ih _).trans (raise_clock s _ _ _ _ _ _)

theorem switchColumn_clock (s : State) (c : Nat) : (s.switchColumn c).clock = s.clock := by
  unfold State.switchColumn
  dsimp only
  split
  · rfl
  · rw [raise_clock]
    split <;> rfl

theorem switchColumns_clock (cs : List Nat) (s : State) : (s.switchColumns cs).clock = s.clock := by
  induction cs generalizing s with
  | nil => rfl
  | cons c cs ih => exact (ih _).trans (switchColumn_clock s c)

theorem spareEvents_clock (ds : List Nat) (s : State) : (s.spareEvents ds).clock = s.clock := by
  induction ds generalizing s with
  | nil => rfl
  | cons d ds ih => exact (ih _).trans (raise_clock s _ _ _ _ _ _)

theorem switchSpares_clock (s : State) : s.switchSpares.clock = s.clock :=
  (spareEvents_clock _ _).trans (switchColumns_clock s.plate.scheduled s)

/-- R222: READY starts the clocks at the time the start took. -/
theorem reachReady_clock (s : State) (run : StartRun) :
    (s.reachReady run).clock = { Clock.reset with time := run.readyTime.toNat } := by
  unfold State.reachReady
  dsimp only [State.bootedEvent, State.readyEvent]
  rw [raise_clock, raise_clock]
  exact (switchSpares_clock _).trans (exhaustedEvents_clock _ _)

/-! ### The commands that start or reset the module -/

/-- A Gyton start keeps the balance: the clocks stand, or Gyton's reset of the module starts them again (R376). -/
theorem bootGyton_balanced (fuel : Nat) {s : State} (h : s.clock.Balanced) : (State.bootGyton fuel s).clock.Balanced := by
  induction fuel generalizing s with
  | zero => exact h
  | succ k ih =>
    have chosen := chooseImage_clock s 1
    unfold State.bootGyton
    generalize s.chooseImage 1 = choice at chosen ⊢
    obtain ⟨s1, _ | _ | _⟩ := choice
    · exact chosen ▸ h
    · exact ih (balanced_restart 0)
    · exact chosen ▸ h

theorem gytonReset_balanced (s : State) : s.gytonReset.clock.Balanced := bootGyton_balanced 2 (balanced_restart 0)

theorem powerOn_balanced {s : State} (h : s.clock.Balanced) (tray : BitVec 2) (slot : BitVec 4) :
    (powerOn tray slot s).clock.Balanced := by
  unfold powerOn
  split
  · exact bootGyton_balanced 2 (balanced_restart 0)
  · exact h

/-- R402 steps 3 to 9: a failed lock keeps the clocks; any other outcome starts them again. -/
theorem rootPllLock_balanced {s : State} (h : s.clock.Balanced) (run : StartRun) : (rootPllLock run s).clock.Balanced := by
  have started {x : State} (e : x.clock = Clock.reset) : x.clock.Balanced := e ▸ balanced_restart 0
  unfold rootPllLock
  dsimp only
  split
  case isFalse => exact h
  split
  case h_1 => rw [holdStart_clock]; exact h
  split
  · exact started (holdStart_clock _ _ _ _ _)
  · exact started (holdStart_clock _ _ _ _ _)
  generalize hs : (State.mk ..) = s1
  have chosen : (s1.chooseImage 2).1.clock = Clock.reset := by rw [chooseImage_clock, ← hs]
  generalize s1.chooseImage 2 = choice at chosen ⊢
  obtain ⟨s2, _ | _ | _⟩ := choice
  case running =>
    dsimp only
    split
    · exact started ((holdStart_clock _ _ _ _ _).trans chosen)
    · rw [reachReady_clock]; exact balanced_restart _
  case again => exact gytonReset_balanced s2
  case nothing => exact started chosen

theorem imageTrialTimeout_balanced {s : State} (h : s.clock.Balanced) : (imageTrialTimeout s).clock.Balanced :=
  iteInduction (motive := fun t : State => t.clock.Balanced) (fun _ => gytonReset_balanced _) (fun _ => h)

theorem supplyLoss_balanced {s : State} (h : s.clock.Balanced) : (supplyLoss s).clock.Balanced := by
  unfold supplyLoss
  split
  · exact h
  · exact balanced_restart 0

theorem moduleReset_balanced {s : State} (h : s.clock.Balanced) : (moduleReset s).clock.Balanced := by
  unfold moduleReset
  split
  · exact h
  · exact balanced_restart 0

theorem modResetRelease_balanced {s : State} (h : s.clock.Balanced) (tray : BitVec 2) (slot : BitVec 4) :
    (modResetRelease tray slot s).clock.Balanced := by
  unfold modResetRelease
  split
  · exact bootGyton_balanced 2 h
  · exact h

/-! ### Every command -/

/-- Every command but those that start or reset the module answers through `done`, which puts the queue, the clocks and the actor
back (log 1). -/
theorem exec_eq_done {c : Instr} (h : isRestart c = false) (s : State) : ∃ u, exec c s = done s u := by
  cases c with
  | powerOn | rootPllLock | imageTrialTimeout | supplyLoss | moduleReset | modResetRelease => cases h
  | _ => exact ⟨_, rfl⟩

/-- A command that starts or resets the module keeps the balance. -/
theorem exec_restart_balanced {c : Instr} {s t : State} (restart : isRestart c = true) (h : s.clock.Balanced)
    (e : exec c s = .next t) : t.clock.Balanced := by
  cases c with
  | powerOn tray slot => cases e; exact powerOn_balanced h tray slot
  | rootPllLock run => cases e; exact rootPllLock_balanced h run
  | imageTrialTimeout => cases e; exact imageTrialTimeout_balanced h
  | supplyLoss => cases e; exact supplyLoss_balanced h
  | moduleReset => cases e; exact moduleReset_balanced h
  | modResetRelease tray slot => cases e; exact modResetRelease_balanced h tray slot
  | _ => cases restart

theorem exec_balanced {c : Instr} {s t : State} (h : s.clock.Balanced) (e : exec c s = .next t) : t.clock.Balanced := by
  cases restart : isRestart c with
  | true => exact exec_restart_balanced restart h e
  | false =>
    obtain ⟨u, answer⟩ := exec_eq_done restart s
    cases answer.symm.trans e
    exact h

/-! ### The obligations -/

/-- Settles O6: at reset no cycle has passed and no counter holds one. -/
theorem cyclesBalancedAtReset : Obligations.CyclesBalancedAtReset := balanced_restart 0

/-- Settles O5: a step is a tick, which counts each cycle once, or the front command, which keeps the clocks or starts them again. -/
theorem cyclesBalanced : Obligations.CyclesBalanced := by
  intro s t h e
  unfold step at e
  split at e
  · cases e; exact tick_balanced h
  next c rest _ => exact exec_balanced (s := { s with pending := rest }) h e

end Sys2Proof.Proofs

/-! ## D3hot

While the function may issue no request, requests and records wait; on the return to D0 they go out in the order they arose (R184). -/

namespace Sys2Proof.Proofs

open Sys2Proof Sys2Proof.Machine Sys2Proof.Laws

/-! ### No request may go out -/

theorem mayRequest_of_d3hot {s : State} (asleep : s.pcie.d3hot = true) : s.mayRequest = false := by
  simp [State.mayRequest, asleep]

section

variable {s : State} (mayNot : s.mayRequest = false)
include mayNot

/-- Buffered events stay buffered. -/
theorem drainEvents_waits (fuel : Nat) : State.drainEvents fuel s = s := by
  cases fuel with
  | zero => rfl
  | succ k =>
    rw [State.drainEvents]
    split
    · rfl
    · exact if_neg (by simp [mayNot])

theorem sendHost_waits (o : Output) :
    s.sendHost o = { s with host := { s.host with held := s.host.held ++ [.other o] } } :=
  if_neg (by simp [mayNot])

/-- R218: an event is buffered or counted, and no record of it leaves. -/
theorem buffer_waits (e : EventRec) : (s.buffer e).outbox = s.outbox := by
  unfold State.buffer
  split
  · rw [drainEvents_waits (s := { s with host := { s.host with buffer := s.host.buffer ++ [e] } }) mayNot]
  · rfl

theorem raise_waits (kind code step opTag subject : Nat) (detail : List Byte) :
    (s.raise kind code step opTag subject detail).outbox = s.outbox := by
  have buffered : ∀ (f : Firmware) (e : EventRec), (({ s with fw := f } : State).buffer e).outbox = s.outbox :=
    fun f => buffer_waits (s := { s with fw := f }) mayNot
  unfold State.raise
  dsimp only
  split
  · split <;> rfl
  · split
    exacts [buffered _ _, buffer_waits mayNot _]

/-- R184: a command completes, and its record waits. -/
theorem complete_waits {ring id : Nat} {c : FetchedCmd} (found : (s.ring ring).cmd id = some c) (status detail : Nat) (hd : Bool) :
    s.complete ring id status hd detail =
      { s.setRing ring { s.ring ring with cmds := (s.ring ring).cmds.filter (fun d => d.id != id) } with
        host := { (s.setRing ring { s.ring ring with cmds := (s.ring ring).cmds.filter (fun d => d.id != id) }).host with
          held := s.host.held ++ [.record (s.ring ring).cq ring c.seq ((c.bytes.drop 8).take 8) status hd detail c.fetched c.irq
            s.host.buffer.length] } } := by
  have held : ¬ (s.mayRequest && s.host.held.isEmpty) = true := by simp [mayNot]
  simp only [State.complete, found]
  exact if_neg held

end

/-! ### Requests go out again -/

/-- What a held request has become in what has been sent: the message itself, or the record of the command it tells. -/
def Released (sent : List Output) : Held → Prop
  | .record _ ring seq tag status hd detail _ _ _ =>
    ∃ addr phase elapsed, .hostWrite addr (completionBytes tag seq status phase hd ring detail elapsed) false ∈ sent
  | .other o => o ∈ sent

theorem Released.mono {x y : List Output} (sub : x ⊆ y) : ∀ {h : Held}, Released x h → Released y h
  | .record .., ⟨addr, phase, elapsed, sent⟩ => ⟨addr, phase, elapsed, sub sent⟩
  | .other _, sent => sub sent

theorem Told.outbox_subset {s t : State} (h : Told s t) : s.outbox ⊆ t.outbox := by
  obtain ⟨more, e⟩ := h.sent
  rw [e]
  exact List.subset_append_left _ _

/-- R184, R214: everything held goes out, and nothing sent is taken back. -/
theorem releaseHeld_releases (hs : List Held) (s : State) (told : Nat) :
    s.outbox ⊆ (s.releaseHeld told hs).outbox ∧ ∀ h ∈ hs, Released (s.releaseHeld told hs).outbox h := by
  induction hs generalizing s told with
  | nil => exact ⟨List.Subset.refl _, nofun⟩
  | cons h hs ih =>
    cases h with
    | record q r n tag st hd d f i ev =>
      obtain ⟨m, addr, phase, elapsed, sent⟩ := writeRecord_outbox (State.drainEvents (ev - told) s) q r n tag st hd d f i
      obtain ⟨kept, out⟩ := ih ((State.drainEvents (ev - told) s).writeRecord q r n tag st hd d f i)
        (told + ((State.drainEvents (ev - told) s).host.eqWritten + 2 ^ 32 - s.host.eqWritten) % 2 ^ 32)
      rw [sent] at kept
      refine ⟨fun o ho => kept (List.mem_append_left _ ((Told.drainEvents _ s).outbox_subset ho)),
        List.forall_mem_cons.mpr ⟨⟨addr, phase, elapsed, kept ?_⟩, out⟩⟩
      exact List.mem_append_right _ List.mem_cons_self
    | other o =>
      obtain ⟨kept, out⟩ := ih (s.send o) told
      exact ⟨fun _ ho => kept (List.mem_append_left _ ho),
        List.forall_mem_cons.mpr ⟨kept (List.mem_append_right _ (List.mem_singleton_self o)), out⟩⟩

theorem powerStateD0_sends {s : State} (runs : s.functionRuns = true) (up : s.pcie.linkUp = true) (cfg : s.pcie.cfgReady = true)
    (loop : s.pcie.loopActive = false) (follower : s.pcie.follower = false) :
    ∃ t, exec .powerStateD0 s = .next t ∧ t.host.held = [] ∧ ∀ h ∈ s.host.held, Released t.outbox h := by
  let u : State := { s with pcie := { s.pcie with d3hot := false } }
  have may : u.mayRequest = true := by simp [u, State.mayRequest, up, cfg, loop, follower]
  have flushed : u.flushHeld = ({ u with host := { u.host with held := [] } } : State).releaseHeld 0 s.host.held := if_pos may
  obtain ⟨-, out⟩ := releaseHeld_releases s.host.held { u with host := { u.host with held := [] } } 0
  rw [← flushed] at out
  exact ⟨_, congrArg (done s) (if_pos runs), ((flushHeld_clear may).drainEvents drainFuel).none,
    fun h held => (out h held).mono (Told.drainEvents _ _).outbox_subset⟩

/-! ### The statement -/

/-- Settles O60: in D3hot every request and record is appended to what is held, and D0 sends what is held in order. -/
theorem heldInD3hot : Obligations.HeldInD3hot := by
  refine ⟨fun s hr asleep => ?idle, fun s o asleep => ?request, fun s ring id status detail hd c asleep found => ?record,
    fun s kind code step tag subject detail asleep o sent => ?event, fun s runs up cfg loop follower => ?awake⟩
  case idle =>
    have mayNot := mayRequest_of_d3hot asleep
    have polls : s.startPoll = s := if_neg (by simp [mayNot])
    refine ⟨(whenReady_of_isReady hr _).trans (congrArg (done s) polls),
      fun _ => (whenReady_of_isReady hr _).trans (congrArg (done s) polls), fun ring r => ?_⟩
    exact (whenReady_of_isReady hr _).trans (congrArg (done s) (if_pos (by simp [State.mayFetch, mayNot])))
  case request =>
    rw [sendHost_waits (mayRequest_of_d3hot asleep)]
    exact ⟨rfl, rfl⟩
  case record =>
    rw [complete_waits (mayRequest_of_d3hot asleep) found]
    exact ⟨rfl, rfl, congrArg Ring.cmds (ring_setRing s ring _)⟩
  case event =>
    rw [raise_waits (mayRequest_of_d3hot asleep)] at sent
    exact .inl sent
  case awake =>
    obtain ⟨t, e, none, out⟩ := powerStateD0_sends runs up cfg loop follower
    exact ⟨t, e, none, fun o held => out _ held, fun _ _ _ _ _ _ _ _ _ _ held => out _ held⟩

end Sys2Proof.Proofs

/-! ## Result records

An op's record decides its status; what follows of its program depends on what the window still holds (R59, R198, R437). -/

namespace Sys2Proof.Proofs

open Sys2Proof Sys2Proof.Machine Sys2Proof.Laws

/-! ### What a program notes of an op that failed (R58, R59) -/

section

variable (p : Program) (o : Op) (status : Nat) (d : Option Word)

@[simp] theorem note_cmd : (p.note o status d).cmd = p.cmd := by
  simp only [Program.note]
  split_ifs <;> rfl

variable {p o status} (bad : 0x20 ≤ status)
include bad

theorem note_next_failed : (p.note o status d).next = none := by
  simp only [Program.note, if_pos bad]
  split <;> rfl

/-- The first failure of a program is the one it keeps. -/
theorem note_failure (first : p.failure = none) (unproved : p.proofFailed = false) :
    (p.note o status d).failure = some (status, BitVec.ofNat 32 o.tag, d) := by
  simp [Program.note, if_pos bad, first, unproved]

theorem note_result_status (first : p.failure = none) (unproved : p.proofFailed = false) : (p.note o status d).result.1 = status := by
  rw [Program.result, note_failure d bad first unproved]
  cases d with
  | none => rfl
  | some w =>
    dsimp only
    split <;> rfl

end

/-- R19: the address of a failed access fits the detail. -/
theorem virtDetail_lt (va : Nat) : virtDetail va < 2 ^ 64 := by unfold virtDetail; omega

/-- R198: the detail of a program whose first failure is an ADDRESS_FAULT is the address. -/
theorem note_result_address {p : Program} (first : p.failure = none) (unproved : p.proofFailed = false) (o : Op) (va : Nat) :
    (p.note o 0x21 (some (BitVec.ofNat 64 (virtDetail va)))).result = (0x21, virtDetail va) := by
  rw [Program.result, note_failure _ (by decide) first unproved]
  simpa using virtDetail_lt va

/-! ### Whether the program settles (R198) -/

section

variable {s : State} {n : Nat} {p : Program} (h : s.program n = some p)
include h

/-- A program with an op in the window does not settle. -/
theorem settleProgram_waits {x : Op} (there : x ∈ s.seq.window) (own : x.ring = n) : s.settleProgram n = s := by
  have more : (p.next.isNone && !s.seq.window.any (fun o => o.ring == n)) = false := by
    rw [List.any_eq_true.mpr ⟨x, there, by simpa using own⟩]
    simp
  simp only [State.settleProgram, h, more, Bool.false_eq_true, if_false]

/-- A program whose list has ended, with no op left, completes its command. -/
theorem settleProgram_ends (ended : p.next = none) (alone : ∀ x ∈ s.seq.window, x.ring ≠ n) : s.settleProgram n =
    ({ s with seq := { s.seq with programs := s.seq.programs.filter (fun x => x.ring != n) } } : State).complete n p.cmd p.result.1
      false p.result.2 := by
  have ends : (p.next.isNone && !s.seq.window.any (fun o => o.ring == n)) = true := by simpa [ended] using alone
  simp only [State.settleProgram, h, ends, if_true]

end

/-- R59: of its program, only ops that have issued stay in the window. -/
theorem dropUnissued_window (s : State) (n : Nat) :
    (s.dropUnissued n).seq.window = s.seq.window.filter (fun o => !(o.ring == n && o.phase != .issued)) := by
  have opened : ∀ (ids : List Nat) (x : State), (ids.foldl State.dropOpening x).seq = x.seq := by
    intro ids
    induction ids with
    | nil => exact fun _ => rfl
    | cons i is ih => exact fun x => ih (x.dropOpening i)
  unfold State.dropUnissued
  dsimp only
  rw [opened]

/-! ### An op closes with a failure (R59) -/

theorem Told.endCounted (s : State) (o : Op) (status : Nat) : Told s (endCounted s o status) := by
  have step : Told s (s.stepStatus o.step status) := by
    unfold State.stepStatus
    split
    · split
      exacts [.of_eq, .refl s]
    · exact .refl s
  exact (((step.andThen _ .of_eq).andThen _ .of_eq).andThen _ .of_eq).andThen _ .of_eq

/-- The module before the program of an op that failed is asked whether it ends. -/
def failedLeft (s : State) (o : Op) (status : Nat) (d : Option Word) : State :=
  (leftNoted (endCounted s o status) o status d).dropUnissued o.ring

section

variable {s : State} {o : Op} {status : Nat} {d : Option Word} {p : Program}

theorem closeOp_failed (bad : 0x20 ≤ status) : s.closeOp o status d = (failedLeft s o status d).settleProgram o.ring := by
  rw [closeOp_eq, if_pos bad]
  rfl

theorem failedLeft_told : Told s (failedLeft s o status d) := by
  have counted := Told.endCounted s o status
  unfold failedLeft
  generalize endCounted s o status = u at counted ⊢
  obtain ⟨ps, left⟩ := leftNoted_frame u o status d
  obtain ⟨cs, w, q, m, dropped⟩ := dropUnissued_frame (leftNoted u o status d) o.ring
  rw [dropped, left]
  exact counted.trans .of_eq

theorem failedLeft_program (h : s.program o.ring = some p) :
    (failedLeft s o status d).program o.ring = some (p.note o status d) := by
  have noted : (leftNoted (endCounted s o status) o status d).program o.ring = some (p.note o status d) := by
    rw [leftNoted_program, State.program, (endCounted_aside s o status).seq, ← State.program, h]
    rfl
  unfold failedLeft
  obtain ⟨cs, w, q, m, dropped⟩ := dropUnissued_frame (leftNoted (endCounted s o status) o status d) o.ring
  rw [dropped]
  exact noted

theorem failedLeft_window : (failedLeft s o status d).seq.window =
    (s.seq.window.filter (fun x => x.id != o.id)).filter (fun x => !(x.ring == o.ring && x.phase != .issued)) := by
  have counted := (endCounted_aside s o status).seq
  unfold failedLeft
  generalize endCounted s o status = u at counted ⊢
  obtain ⟨ps, left⟩ := leftNoted_frame u o status d
  rw [dropUnissued_window, left]
  dsimp only
  rw [counted]

/-- With another of its ops issued, the program stays, stopped. -/
theorem closeOp_stays (bad : 0x20 ≤ status) (h : s.program o.ring = some p) {x : Op} (there : x ∈ s.seq.window)
    (own : x.ring = o.ring) (other : x.id ≠ o.id) (issued : x.phase = .issued) :
    (s.closeOp o status d).program o.ring = some (p.note o status d) := by
  have left : x ∈ (failedLeft s o status d).seq.window := by
    rw [failedLeft_window]
    simp [there, other, issued]
  rw [closeOp_failed bad, settleProgram_waits (failedLeft_program h) left own, failedLeft_program h]

/-- With none of its ops left, the program completes its command. -/
theorem closeOp_ends (bad : 0x20 ≤ status) (h : s.program o.ring = some p) (only : s.seq.window = [o]) {c : FetchedCmd}
    (found : (s.ring o.ring).cmd p.cmd = some c) : (s.closeOp o status d).program o.ring = none ∧
      s.Finished (s.closeOp o status d) o.ring c (p.note o status d).result.1 false (p.note o status d).result.2 := by
  have told := failedLeft_told (s := s) (o := o) (status := status) (d := d)
  have empty : (failedLeft s o status d).seq.window = [] := by
    rw [failedLeft_window, only]
    simp
  rw [closeOp_failed bad, settleProgram_ends (failedLeft_program h) (note_next_failed d bad) (by simp [empty]), note_cmd]
  generalize failedLeft s o status d = u at told ⊢
  let v : State := { u with seq := { u.seq with programs := u.seq.programs.filter (fun x => x.ring != o.ring) } }
  have same : v.ring o.ring = s.ring o.ring := told.ring o.ring
  have foundThen : (v.ring o.ring).cmd p.cmd = some c := by rw [same]; exact found
  obtain ⟨record, gone⟩ := complete_finished foundThen (p.note o status d).result.1 false (p.note o status d).result.2
  rw [same] at record gone
  refine ⟨?_, recorded_since told.sent told.held record, gone⟩
  obtain ⟨g, x, e⟩ := complete_frame v o.ring p.cmd (p.note o status d).result.1 false (p.note o status d).result.2
  change State.program (v.complete _ _ _ _ _) _ = none
  rw [e]
  simp [v, State.program]

/-! ### The record itself (R437) -/

variable {record : Nat → List Byte}

/-- An op closes with the status its record leaves it. -/
theorem finishOp_of_result {s1 : State} {st : Nat} {d' : Option Word} (written : s.writeResult o status d record = some (s1, st, d')) :
    s.finishOp o status d record = some (s1.closeOp o st d') := by
  simp only [State.finishOp, State.finishTelling, written]

theorem writeResult_written {s1 : State} (named : o.resultAddr ≠ 0) (aligned : o.resultAddr % 32 = 0)
    (written : s.writeVirt (s.rootOf o.ring) allowOps o.resultAddr (record status) = (s1, .ok ())) :
    s.writeResult o status d record = some (s1, status, d) := by
  simp [State.writeResult, named, aligned, written]

theorem writeResult_misaligned (misaligned : o.resultAddr % 32 ≠ 0) :
    s.writeResult o status d record = some (s, if status < 0x20 then 0x20 else status, d) := by
  have named : o.resultAddr ≠ 0 := by omega
  simp [State.writeResult, named, misaligned]

theorem writeResult_faults {s1 : State} {a : Nat} (named : o.resultAddr ≠ 0) (aligned : o.resultAddr % 32 = 0)
    (fails : s.writeVirt (s.rootOf o.ring) allowOps o.resultAddr (record status) = (s1, .error (.addr a))) :
    s.writeResult o status d record = some (if status < 0x20 then (s1, 0x21, some (BitVec.ofNat 64 (virtDetail o.resultAddr)))
      else (s1, status, d)) := by
  simp only [State.writeResult, named, aligned, fails, if_false, bne_self_eq_false, Bool.false_eq_true]
  split <;> rfl

end

/-! ### The statement -/

/-- Settles O50: the record written decides the status an op closes with; from 0x20 on the program stops, and what the window still
holds of it decides whether it completes. -/
theorem resultRecords : Obligations.ResultRecords := by
  refine ⟨fun s s1 o status d record named aligned written => ?written, fun s o x p status d record misaligned => ?stays,
    fun s o p c status d record misaligned good => ?ends, fun s s1 o x p status a d record named aligned fails => ?faults,
    fun p o st d bad => ⟨note_stopped p o bad d, note_next_failed d bad, note_result_status d bad⟩,
    fun p o a first unproved => note_result_address first unproved o a⟩
  case written =>
    exact ⟨_, finishOp_of_result (writeResult_written named aligned written), closeOp_gone _ _ _ _, (closeOp_keeps _ _ _ _).1⟩
  case stays =>
    intro program there own other issued
    have bad : 0x20 ≤ if status < 0x20 then 0x20 else status := by split <;> omega
    exact ⟨_, finishOp_of_result (writeResult_misaligned misaligned), closeOp_gone _ _ _ _, (closeOp_keeps _ _ _ _).1,
      closeOp_stays bad program there own other issued⟩
  case ends =>
    intro program only found
    have written := writeResult_misaligned (s := s) (status := status) (d := d) (record := record) misaligned
    rw [if_pos good] at written
    exact ⟨_, finishOp_of_result written, closeOp_gone _ _ _ _, (closeOp_keeps _ _ _ _).1,
      closeOp_ends (Nat.le_refl _) program only found⟩
  case faults =>
    intro program there own other issued
    have written := writeResult_faults (d := d) named aligned fails
    by_cases good : status < 0x20
    · rw [if_pos good] at written ⊢
      exact ⟨_, finishOp_of_result written, closeOp_gone _ _ _ _, (closeOp_keeps _ _ _ _).1,
        closeOp_stays (by decide) program there own other issued⟩
    · rw [if_neg good] at written ⊢
      exact ⟨_, finishOp_of_result written, closeOp_gone _ _ _ _, (closeOp_keeps _ _ _ _).1,
        closeOp_stays (by omega) program there own other issued⟩

end Sys2Proof.Proofs

/-! ## The BAR2 window

Reads and writes of the host at the addresses of device memory (R187, R188, R216, R307). -/

namespace Sys2Proof.Proofs

open Sys2Proof Sys2Proof.Machine Sys2Proof.Laws

/-! ### A fault of the window (R188) -/

theorem bar2Fault_frame (s : State) (a : Nat) : (s.bar2Fault a).mem = s.mem := by
  unfold State.bar2Fault
  split
  · rfl
  · exact (Aside.raise { s with host := { s.host with bar2Fault := some s.clock.time } } _ _ _ _ _ _).mem

/-! ### Outputs in flight (R216) -/

section

variable (s : State) (a : Nat) (bs : List Byte)

theorem unsettled_keeps : (s.unsettled a bs).1.outbox = s.outbox ∧ (s.unsettled a bs).1.mem = s.mem := by
  unfold State.unsettled
  dsimp only
  split <;> exact ⟨rfl, rfl⟩

theorem unsettled_length : (s.unsettled a bs).2.length = bs.length := by
  unfold State.unsettled
  dsimp only
  split
  · rfl
  · simp

variable {s a bs}

/-- A byte that no output in flight covers is what memory holds. -/
theorem unsettled_settled {i : Nat} (within : i < bs.length)
    (settled : ∀ r ∈ s.pendingOutputs, a + i < r.1 ∨ r.1 + r.2 ≤ a + i) : (s.unsettled a bs).2.getD i 0 = bs.getD i 0 := by
  unfold State.unsettled
  dsimp only
  split
  · rfl
  · have uncovered : (s.pendingOutputs.filter (fun r => decide (r.1 < a + bs.length) && decide (a < r.1 + r.2))).any
        (fun r => decide (r.1 ≤ a + i) && decide (a + i < r.1 + r.2)) = false := by
      rw [List.any_eq_false]
      intro r hr
      have := settled r (List.mem_of_mem_filter hr)
      simp
      omega
    simp [List.getD, within, uncovered]

end

/-! ### Writes (R187) -/

theorem store_get_outside (s : State) {a k : Nat} {bs : List Byte} (out : k < a ∨ a + bs.length ≤ k) :
    (s.store a bs).mem.ram.get k = s.mem.ram.get k := by
  have written : (s.store a bs).mem.ram.get k = _ := get_write s.mem.ram a (keepSlots a bs) k
  rw [written, keepSlots_length, if_neg (by omega)]

/-- R19: a range that passes its check lies in a zone the caller may use. (`check` is unfolded as a function: applied to an address, the
kernel would compute with the bounds of the map.) -/
theorem allowed_of_check {s : State} {allow : Allow} {a n l : Nat} {z : Zone} (checked : s.check allow a n = .ok (z, l)) :
    allow z = true := by
  have unfolded : State.check = State.check := rfl
  conv at unfolded => rhs; delta State.check
  rw [unfolded] at checked
  beta_reduce at checked
  generalize s.place a n = placed at checked
  generalize s.linkFailed = failed at checked
  cases placed with
  | error f => cases checked
  | ok y =>
    cases allowed : allow y.1 with
    | false => simp [allowed] at checked
    | true =>
      cases link : failed y.1 y.2 n with
      | some k => simp [allowed, link] at checked
      | none =>
        simp only [allowed, link, Bool.not_true, Bool.false_eq_true, if_false, Except.ok.injEq, Prod.mk.injEq] at checked
        exact checked.1 ▸ allowed

/-- A write of the host that passes its check is a store in the module's own memory. -/
theorem writePhys_stores {s : State} {a l : Nat} {bs : List Byte} {z : Zone} (full : bs ≠ [])
    (checked : s.check allowOwn a bs.length = .ok (z, l)) (accepted : z = .hbm → s.refusesWrite l bs.length = false) :
    s.writePhys allowOwn a bs = (s.store l bs, .ok ()) := by
  have own := allowed_of_check checked
  have taken : (decide (z = .hbm) && s.refusesWrite l bs.length) = false := by
    by_cases hbm : z = .hbm
    · simp [accepted hbm]
    · simp [hbm]
  have stores : s.writePhys allowOwn a bs = s.writeAt z l bs := by
    simp only [State.writePhys, List.isEmpty_iff, full, if_false, checked, taken, Bool.false_eq_true]
  rw [stores]
  cases z with
  | setup | tray => cases own
  | hbm | local_ | acc | coll => rfl

/-! ### The commands -/

section

variable {s s1 : State} {off n : Nat} {bytes : List Byte} (hr : s.isReady = true)
include hr

theorem exec_bar2Read {t : State} (answers : bar2Read off n s = t) : exec (.bar2Read off n) s = done s t :=
  (whenReady_of_isReady hr _).trans (congrArg (done s) answers)

theorem exec_bar2Write {t : State} (answers : bar2Write off bytes s = t) : exec (.bar2Write off bytes) s = done s t :=
  (whenReady_of_isReady hr _).trans (congrArg (done s) answers)

end

section

variable {s s1 : State} {off n : Nat} {bytes : List Byte}

/-- What a read of the host answers, as the read of memory does. -/
def bar2Answer (s1 : State) (a n : Nat) : Except MemErr (List Byte) → State
  | .ok bs => (s1.unsettled a bs).1.send (.barData (s1.unsettled a bs).2)
  | .error (.bad b) => s1.send (.barPoison b)
  | .error e => (s1.bar2Fault e.detail).send (.barData (List.replicate n 255))

theorem bar2Read_answers {r : Except MemErr (List Byte)} (within : off + n ≤ 2 ^ 36)
    (target : s.bar2Target (s.host.bar2Base.toNat + off) = true)
    (read : s.readPhys allowOwn (s.host.bar2Base.toNat + off) n = (s1, r)) :
    bar2Read off n s = bar2Answer s1 (s.host.bar2Base.toNat + off) n r := by
  rw [bar2Read, if_neg (by omega)]
  simp only [target, read, Bool.not_true, Bool.false_eq_true, if_false]
  cases r with
  | ok bs => rfl
  | error e => cases e <;> rfl

theorem bar2Read_untargeted (within : off + n ≤ 2 ^ 36) (own : s.bar2Target (s.host.bar2Base.toNat + off) = false) :
    bar2Read off n s = (s.bar2Fault (s.host.bar2Base.toNat + off)).send (.barData (List.replicate n 255)) := by
  rw [bar2Read, if_neg (by omega)]
  simp only [own, Bool.not_false, if_true]

theorem bar2Write_writes (within : off + bytes.length ≤ 2 ^ 36) (target : s.bar2Target (s.host.bar2Base.toNat + off) = true)
    (written : s.writePhys allowOwn (s.host.bar2Base.toNat + off) bytes = (s1, .ok ())) : bar2Write off bytes s = s1 := by
  rw [bar2Write, if_neg (by omega)]
  simp only [target, written, Bool.not_true, Bool.false_eq_true, if_false]

theorem bar2Write_fails {e : MemErr} (within : off + bytes.length ≤ 2 ^ 36)
    (target : s.bar2Target (s.host.bar2Base.toNat + off) = true)
    (fails : s.writePhys allowOwn (s.host.bar2Base.toNat + off) bytes = (s1, .error e)) :
    bar2Write off bytes s = s1.bar2Fault e.detail := by
  rw [bar2Write, if_neg (by omega)]
  simp only [target, fails, Bool.not_true, Bool.false_eq_true, if_false]

theorem bar2Write_untargeted (within : off + bytes.length ≤ 2 ^ 36) (own : s.bar2Target (s.host.bar2Base.toNat + off) = false) :
    bar2Write off bytes s = s.bar2Fault (s.host.bar2Base.toNat + off) := by
  rw [bar2Write, if_neg (by omega)]
  simp only [own, Bool.not_false, if_true]

end

/-! ### The statement -/

/-- Settles O24: a read answers what the memory read did, a write is a store where its check places it, and the rest of either is a
fault that leaves memory alone. -/
theorem bar2Window : Obligations.Bar2Window := by
  refine ⟨fun s s1 off n bs hr within target read => ?data, fun s off n hr within own => ?ones,
    fun s s1 off n b hr within target read => ?poison, fun s s1 off n d hr within target read => ?faults,
    fun s off bytes z l hr within full target checked accepted => ?lands, fun s s1 off bytes e hr within target fails => ?refused,
    fun s off bytes hr within own => ?nowhere, fun s off n bytes hr => ⟨fun out => ?_, fun out => ?_⟩⟩
  case data =>
    obtain ⟨outbox, mem⟩ := unsettled_keeps s1 (s.host.bar2Base.toNat + off) bs
    exact ⟨_, (s1.unsettled (s.host.bar2Base.toNat + off) bs).2, exec_bar2Read hr (bar2Read_answers within target read),
      congrArg (· ++ _) outbox, mem, unsettled_length _ _ _, fun i hi settled => unsettled_settled hi settled⟩
  case ones =>
    exact ⟨_, exec_bar2Read hr (bar2Read_untargeted within own), List.getLast?_concat, bar2Fault_frame _ _⟩
  case poison => exact ⟨_, exec_bar2Read hr (bar2Read_answers within target read), rfl, rfl⟩
  case faults =>
    exact ⟨_, exec_bar2Read hr (bar2Read_answers within target read), List.getLast?_concat, bar2Fault_frame _ _⟩
  case lands =>
    exact ⟨_, exec_bar2Write hr (bar2Write_writes within target (writePhys_stores full checked accepted)),
      fun i hi slot => store_get s hi slot, fun a out => store_get_outside s out⟩
  case refused => exact ⟨_, exec_bar2Write hr (bar2Write_fails within target fails), bar2Fault_frame _ _⟩
  case nowhere => exact ⟨_, exec_bar2Write hr (bar2Write_untargeted within own), bar2Fault_frame _ _⟩
  · exact exec_bar2Read hr (if_pos out)
  · exact exec_bar2Write hr (if_pos out)

end Sys2Proof.Proofs

/-! ## Rings, queues and their interrupts

Writes that enable rings and queues (R195, R211, R218), and the vectors of queues (R186, R212). -/

namespace Sys2Proof.Proofs

open Sys2Proof Sys2Proof.Machine Sys2Proof.Laws

/-! ### SQ_SIZE (R195) -/

/-- The ring as a write of `v` leaves its size and queue: fixed while it is enabled or has a command in flight. -/
def sizedRing (r : Ring) (v : Nat) : Ring :=
  if r.enable || !r.cmds.isEmpty then r else { r with log2 := bits v 4 0, cq := bits v 13 8 }

/-- A ring just enabled. -/
def startedRing (r : Ring) : Ring := { r with enable := true, fetched := 0, producer := 0, stopped := false, cause := 0 }

/-- What a write of `v` to the SQ_SIZE of ring `n` does. -/
def sqSizeWritten (s : State) (n v : Nat) : State :=
  if (sizedRing (s.ring n) v).log2 < 4 ∨ 16 < (sizedRing (s.ring n) v).log2 then s
  else if bit v 16 && !(s.cq (sizedRing (s.ring n) v).cq).enable then s
  else if bit v 16 && !(s.ring n).enable then s.setRing n (startedRing (sizedRing (s.ring n) v))
  else s.setRing n { sizedRing (s.ring n) v with enable := bit v 16 }

theorem exec_ringEnable {s : State} (hr : s.isReady = true) (n : Fin 64) (a : RegAccess) :
    exec (.ringEnable n a) s = done s (sqSizeWritten s n.val (accessValue a (sqSizeReg (s.ring n.val)))) :=
  whenReady_of_isReady hr _

theorem sizedRing_free {r : Ring} (off : r.enable = false) (empty : r.cmds = []) (v : Nat) :
    sizedRing r v = { r with log2 := bits v 4 0, cq := bits v 13 8 } :=
  if_neg (by simp [off, empty])

theorem sizedRing_fixed {r : Ring} (used : r.enable = true ∨ r.cmds ≠ []) (v : Nat) : sizedRing r v = r :=
  if_pos (by simpa using used)

section

variable {s : State} {n v : Nat}

theorem sqSizeWritten_outside (out : (sizedRing (s.ring n) v).log2 < 4 ∨ 16 < (sizedRing (s.ring n) v).log2) :
    sqSizeWritten s n v = s := if_pos out

variable (lo : 4 ≤ (sizedRing (s.ring n) v).log2) (hi : (sizedRing (s.ring n) v).log2 ≤ 16)
include lo hi

theorem sqSizeWritten_within : sqSizeWritten s n v =
    if bit v 16 && !(s.cq (sizedRing (s.ring n) v).cq).enable then s
    else if bit v 16 && !(s.ring n).enable then s.setRing n (startedRing (sizedRing (s.ring n) v))
    else s.setRing n { sizedRing (s.ring n) v with enable := bit v 16 } := if_neg (by omega)

theorem sqSizeWritten_noQueue (on : bit v 16 = true) (none : (s.cq (sizedRing (s.ring n) v).cq).enable = false) :
    sqSizeWritten s n v = s := by
  rw [sqSizeWritten_within lo hi]
  simp [on, none]

theorem sqSizeWritten_starts (on : bit v 16 = true) (queue : (s.cq (sizedRing (s.ring n) v).cq).enable = true)
    (off : (s.ring n).enable = false) : (sqSizeWritten s n v).ring n = startedRing (sizedRing (s.ring n) v) := by
  rw [sqSizeWritten_within lo hi]
  simp [on, queue, off]

theorem sqSizeWritten_stops (clear : bit v 16 = false) :
    (sqSizeWritten s n v).ring n = { sizedRing (s.ring n) v with enable := false } := by
  rw [sqSizeWritten_within lo hi]
  simp [clear]

/-- A ring that is enabled, and stays so, keeps its size. -/
theorem sqSizeWritten_stays (on : bit v 16 = true) (already : (s.ring n).enable = true) :
    (sqSizeWritten s n v).ring n = s.ring n := by
  have fixed := sizedRing_fixed (.inl already) v
  have same : { s.ring n with enable := true } = s.ring n := by rw [← already]
  rw [sqSizeWritten_within lo hi, fixed]
  split
  · rfl
  · simp [already, on, same]

end

/-! ### CQ_SIZE (R211, R212) -/

theorem Told.cq {s t : State} (h : Told s t) (q : Nat) : t.cq q = s.cq q := by
  have cqs : t.host.cqs = s.host.cqs := (congrArg HostSide.cqs h.rest :)
  rw [State.cq, cqs, State.cq]

@[simp] theorem cq_setCq (s : State) (q : Nat) (c : CQ) : (s.setCq q c).cq q = c := get_set_same _ _ _ _

/-- The interrupt fields of a write of `v`. -/
def moderatedCq (c : CQ) (v : Nat) : CQ := { c with irqEnable := bit v 9, irqCount := bits v 23 16, irqTimeUs := bits v 47 32 }

/-- What a write of `v` to the CQ_SIZE of queue `q` does. -/
def cqSizeWritten (s : State) (q v : Nat) : State :=
  if (s.cq q).enable then
    if !bit v 8 && s.queueUsed q then s
    else (s.setCq q { moderatedCq (s.cq q) v with enable := bit v 8 }).moderate q
  else if bits v 4 0 < 4 ∨ 16 < bits v 4 0 then s
  else if bit v 8 then s.setCq q { moderatedCq (s.cq q) v with log2 := bits v 4 0, enable := true, written := 0, uncovered := 0 }
  else s.setCq q { moderatedCq (s.cq q) v with log2 := bits v 4 0 }

theorem exec_cqEnable {s : State} (hr : s.isReady = true) (q : Fin 64) (a : RegAccess) :
    exec (.cqEnable q a) s = done s (cqSizeWritten s q.val (accessValue a (cqSizeReg (s.cq q.val)))) :=
  whenReady_of_isReady hr _

/-- R212: records that reached the count are covered by an interrupt. -/
theorem moderate_cq (s : State) (q : Nat) : (s.moderate q).cq q = { s.cq q with
    uncovered := if (s.cq q).irqEnable = true ∧ max 1 (s.cq q).irqCount ≤ (s.cq q).uncovered then 0 else (s.cq q).uncovered } := by
  unfold State.moderate
  dsimp only
  split
  next due =>
    rw [(Told.fireVector _ q).cq, cq_setCq, if_pos (by simpa using due)]
  next due => rw [if_neg (by simpa using due)]

section

variable {s : State} {q v : Nat}

theorem cqSizeWritten_outside (off : (s.cq q).enable = false) (out : bits v 4 0 < 4 ∨ 16 < bits v 4 0) : cqSizeWritten s q v = s := by
  rw [cqSizeWritten, if_neg (by simp [off]), if_pos out]

theorem cqSizeWritten_sizes (off : (s.cq q).enable = false) (lo : 4 ≤ bits v 4 0) (hi : bits v 4 0 ≤ 16) :
    (cqSizeWritten s q v).cq q = { moderatedCq (s.cq q) v with
      log2 := bits v 4 0, enable := bit v 8, written := if bit v 8 then 0 else (s.cq q).written
      uncovered := if bit v 8 then 0 else (s.cq q).uncovered } := by
  rw [cqSizeWritten, if_neg (by simp [off]), if_neg (by omega)]
  cases on : bit v 8 with
  | true => exact cq_setCq _ _ _
  | false =>
    refine (cq_setCq _ _ _).trans ?_
    simp [moderatedCq, off]

theorem cqSizeWritten_used (on : (s.cq q).enable = true) (clear : bit v 8 = false) (used : s.queueUsed q = true) :
    cqSizeWritten s q v = s := by
  rw [cqSizeWritten, if_pos on, if_pos (by simp [clear, used])]

theorem cqSizeWritten_moderates (on : (s.cq q).enable = true) (allowed : bit v 8 = true ∨ s.queueUsed q = false) :
    (cqSizeWritten s q v).cq q = { moderatedCq (s.cq q) v with
      enable := bit v 8
      uncovered := if bit v 9 = true ∧ max 1 (bits v 23 16) ≤ (s.cq q).uncovered then 0 else (s.cq q).uncovered } := by
  have stays : ¬ (!bit v 8 && s.queueUsed q) = true := by
    rcases allowed with h | h <;> simp [h]
  rw [cqSizeWritten, if_pos on, if_neg stays, moderate_cq, cq_setCq]
  rfl

end

/-! ### EVENT_QUEUE_BASE (R218) -/

theorem drainEvents_empty {s : State} (none : s.host.buffer = []) (fuel : Nat) : State.drainEvents fuel s = s := by
  cases fuel with
  | zero => rfl
  | succ k => rw [State.drainEvents, none]

/-- The event queue just placed and enabled. -/
def eventsStarted (s : State) (v : Nat) : State := { s with host := { s.host with
  eqBase := BitVec.ofNat 64 (at_ (bits v 63 12) 12), eqEnable := true, eqWritten := 0, eqConsumed := 0 } }

/-- What a write of `v` to EVENT_QUEUE_BASE does. -/
def eqBaseWritten (s : State) (v : Nat) : State :=
  if s.host.eqEnable then { s with host := { s.host with eqEnable := bit v 0 } }
  else if bit v 0 then State.drainEvents drainFuel (eventsStarted s v)
  else { s with host := { s.host with eqBase := BitVec.ofNat 64 (at_ (bits v 63 12) 12) } }

theorem exec_eventQueueEnable {s : State} (hr : s.isReady = true) (a : RegAccess) : exec (.eventQueueEnable a) s =
    done s (eqBaseWritten s (accessValue a (bitOf s.host.eqEnable + s.host.eqBase.toNat))) :=
  whenReady_of_isReady hr _

section

variable {s : State} {v : Nat}

theorem eqBaseWritten_enabled (on : s.host.eqEnable = true) :
    eqBaseWritten s v = { s with host := { s.host with eqEnable := bit v 0 } } := if_pos on

/-- R218: a base written while the queue is disabled is taken; with ENABLE the queue starts, empty where nothing is buffered. -/
theorem eqBaseWritten_takes (off : s.host.eqEnable = false) : (eqBaseWritten s v).host.eqEnable = bit v 0 ∧
    (eqBaseWritten s v).host.eqBase = BitVec.ofNat 64 (bits v 63 12 * 2 ^ 12) ∧
    ((eqBaseWritten s v).host.eqEnable = true → s.host.buffer = [] →
      (eqBaseWritten s v).host.eqWritten = 0 ∧ (eqBaseWritten s v).host.eqConsumed = 0) := by
  rw [eqBaseWritten, if_neg (by simp [off])]
  cases on : bit v 0 with
  | true =>
    rw [if_pos rfl]
    have told := (Told.drainEvents drainFuel (eventsStarted s v)).rest
    refine ⟨(congrArg HostSide.eqEnable told :), (congrArg HostSide.eqBase told :), fun _ none => ?_⟩
    rw [drainEvents_empty (s := eventsStarted s v) none]
    exact ⟨rfl, rfl⟩
  | false =>
    rw [if_neg (by decide)]
    exact ⟨off, rfl, fun enabled => absurd (off.symm.trans enabled) nofun⟩

end

theorem queueEnablesHold : QueueEnablesHold := by
  refine ⟨fun s n a hr off empty lo hi => ?sized, fun s n a hr off used lo hi queue => ?inFlight,
    fun s n a hr off empty out => ?ringOutside, fun s n a hr on lo hi => ?enabled, fun s q a hr off lo hi => ?queueSized,
    fun s q a hr off out => ?queueOutside, fun s q a hr on => ⟨fun clear used => ?queueUsed, fun allowed => ?moderated⟩,
    fun s a hr off => ?events, fun s a hr on => ?eventsOn⟩
  case sized =>
    rw [exec_ringEnable hr]
    generalize accessValue a (sqSizeReg (s.ring n.val)) = v at lo hi ⊢
    have free := sizedRing_free off empty v
    have bounds : 4 ≤ (sizedRing (s.ring n.val) v).log2 ∧ (sizedRing (s.ring n.val) v).log2 ≤ 16 := by rw [free]; exact ⟨lo, hi⟩
    refine ⟨fun on queue => ⟨_, rfl, ?_⟩, fun clear => ⟨_, rfl, ?_⟩, fun on none => congrArg (done s) ?_⟩
    · refine (sqSizeWritten_starts bounds.1 bounds.2 on (by rw [free]; exact queue) off).trans ?_
      rw [free]
      rfl
    · refine (sqSizeWritten_stops bounds.1 bounds.2 clear).trans ?_
      rw [free, ← off]
    · exact sqSizeWritten_noQueue bounds.1 bounds.2 on (by rw [free]; exact none)
  case inFlight =>
    rw [exec_ringEnable hr]
    generalize accessValue a (sqSizeReg (s.ring n.val)) = v
    have fixed := sizedRing_fixed (.inr used) v
    refine ⟨_, rfl, ?_⟩
    cases on : bit v 16 with
    | true =>
      refine (sqSizeWritten_starts (by rwa [fixed]) (by rwa [fixed]) on (by rwa [fixed]) off).trans ?_
      rw [fixed]
      rfl
    | false =>
      have same : { s.ring n.val with enable := false } = s.ring n.val := by rw [← off]
      exact (sqSizeWritten_stops (by rwa [fixed]) (by rwa [fixed]) on).trans (by rw [fixed]; exact same)
  case ringOutside =>
    rw [exec_ringEnable hr]
    exact congrArg (done s) (sqSizeWritten_outside (by rw [sizedRing_free off empty]; exact out))
  case enabled =>
    rw [exec_ringEnable hr]
    generalize accessValue a (sqSizeReg (s.ring n.val)) = v
    have fixed := sizedRing_fixed (.inl on) v
    refine ⟨_, rfl, ?_⟩
    cases stays : bit v 16 with
    | true => exact (sqSizeWritten_stays (by rwa [fixed]) (by rwa [fixed]) stays on).trans (by rw [← on])
    | false => exact (sqSizeWritten_stops (by rwa [fixed]) (by rwa [fixed]) stays).trans (by rw [fixed])
  case queueSized =>
    rw [exec_cqEnable hr]
    exact ⟨_, rfl, cqSizeWritten_sizes off lo hi⟩
  case queueOutside =>
    rw [exec_cqEnable hr]
    exact congrArg (done s) (cqSizeWritten_outside off out)
  case queueUsed =>
    rw [exec_cqEnable hr]
    exact congrArg (done s) (cqSizeWritten_used on clear used)
  case moderated =>
    rw [exec_cqEnable hr]
    exact ⟨_, rfl, cqSizeWritten_moderates on allowed⟩
  case events =>
    rw [exec_eventQueueEnable hr]
    exact ⟨_, rfl, eqBaseWritten_takes off⟩
  case eventsOn =>
    rw [exec_eventQueueEnable hr]
    exact congrArg (done s) (eqBaseWritten_enabled on)

/-! ### Vectors (R186, R212) -/

section

variable {s : State} {v : Nat}

/-- A request goes out at once where it may and nothing waits. -/
theorem sendHost_sends (may : s.mayRequest = true) (none : s.host.held = []) (o : Output) : s.sendHost o = s.send o :=
  if_pos (by simp [may, none])

theorem fireVector_pends (masked : s.vectorMasked v = true) :
    (s.fireVector v).host.msixPend.get false v = true ∧ (s.fireVector v).outbox = s.outbox := by
  rw [State.fireVector, if_pos masked]
  exact ⟨by simp, rfl⟩

theorem fireVector_sends (unmasked : s.vectorMasked v = false) (may : s.mayRequest = true) (none : s.host.held = []) :
    (s.fireVector v).outbox = s.outbox ++ [.msix v] := by
  rw [State.fireVector, if_neg (by simp [unmasked]), sendHost_sends may none]
  rfl

theorem sendHost_asked (s : State) (o : Output) : (s.sendHost o).Asked o := by
  unfold State.sendHost
  split
  · exact .inl (List.mem_append_right _ (List.mem_singleton_self o))
  · exact .inr (List.mem_append_right _ (List.mem_singleton_self _))

/-- What has been asked stays asked while more is told. -/
theorem Told.asked {s t : State} (h : Told s t) {o : Output} (asked : s.Asked o) : t.Asked o := by
  obtain ⟨x, sent⟩ := h.sent
  obtain ⟨y, held⟩ := h.held
  unfold State.Asked
  rw [sent, held]
  exact asked.imp (List.mem_append_left _) (List.mem_append_left _)

end

/-- Queue `q` with its records covered by an interrupt. -/
def covered (s : State) (q : Nat) : State := s.setCq q { s.cq q with uncovered := 0 }

/-- R212: a queue with records to be covered, whose timer runs out. -/
theorem exec_cqIrqTimer {s : State} (hr : s.isReady = true) (q : Fin 64) (enabled : (s.cq q.val).irqEnable = true)
    (timed : (s.cq q.val).irqTimeUs ≠ 0) (due : (s.cq q.val).uncovered ≠ 0) : exec (.cqIrqTimer q) s =
      done s ((covered s q.val).fireVector q.val) :=
  (whenReady_of_isReady hr _).trans (congrArg (done s) (if_pos (by simp [enabled, timed, due])))

/-- Vector `v` pending no more. -/
def unpended (s : State) (v : Nat) : State := { s with host := { s.host with msixPend := s.host.msixPend.set false v false } }

/-- Vector `v`, where its message is pending and it is unmasked, is sent. -/
def pendingSent (s : State) (v : Nat) : State :=
  if s.host.msixPend.get false v && !s.vectorMasked v then (unpended s v).sendHost (.msix v) else s

theorem sendPending_cons (s : State) (v : Nat) (vs : List Nat) : s.sendPending (v :: vs) = (pendingSent s v).sendPending vs := rfl

theorem sendHost_host (s : State) (o : Output) : ∃ l, (s.sendHost o).host = { s.host with held := l } := by
  unfold State.sendHost
  split
  exacts [⟨s.host.held, rfl⟩, ⟨_, rfl⟩]

section

variable {s : State} {v : Nat}

theorem pendingSent_asks (pends : s.host.msixPend.get false v = true) (unmasked : s.vectorMasked v = false) :
    pendingSent s v = (unpended s v).sendHost (.msix v) :=
  if_pos (by simp [pends, unmasked])

theorem pendingSent_keeps (h : s.host.msixPend.get false v = false ∨ s.vectorMasked v = true) : pendingSent s v = s :=
  if_neg (by rcases h with h | h <;> simp [h])

end

theorem Told.pendingSent (s : State) (v : Nat) : Told s (pendingSent s v) := by
  refine (Told.refl s).andThen _ (.trans ?_ (.sendHost _ _))
  exact ⟨⟨[], by simp [unpended]⟩, ⟨[], by simp [unpended]⟩, rfl⟩

theorem Told.sendPending (vs : List Nat) (s : State) : Told s (s.sendPending vs) := by
  induction vs generalizing s with
  | nil => exact .refl s
  | cons v vs ih => exact (Told.pendingSent s v).trans (ih _)

/-- The masks are not what events and interrupts move. -/
theorem Told.vectorMasked {s t : State} (h : Told s t) (v : Nat) : t.vectorMasked v = s.vectorMasked v := by
  have fn : t.host.msixFnMask = s.host.msixFnMask := (congrArg HostSide.msixFnMask h.rest :)
  have on : t.host.msixEnable = s.host.msixEnable := (congrArg HostSide.msixEnable h.rest :)
  have table : t.host.msix = s.host.msix := (congrArg HostSide.msix h.rest :)
  unfold State.vectorMasked
  rw [fn, on, table]

theorem pendingSent_pend (s : State) (v w : Nat) : (pendingSent s v).host.msixPend.get false w =
    if w = v ∧ s.vectorMasked v = false then false else s.host.msixPend.get false w := by
  by_cases sends : s.host.msixPend.get false v = true ∧ s.vectorMasked v = false
  · obtain ⟨l, host⟩ := sendHost_host (unpended s v) (.msix v)
    rw [pendingSent_asks sends.1 sends.2, host]
    simp [unpended, get_set, sends.2]
  · have keeps : s.host.msixPend.get false v = false ∨ s.vectorMasked v = true := by
      simpa only [not_and_or, Bool.not_eq_true, Bool.not_eq_false] using sends
    rw [pendingSent_keeps keeps]
    split
    next own =>
      obtain ⟨rfl, unmasked⟩ := own
      simpa [unmasked] using keeps
    next => rfl

/-- R186: of the vectors gone through, those unmasked are pending no more. -/
theorem sendPending_pend (vs : List Nat) (s : State) (w : Nat) : (s.sendPending vs).host.msixPend.get false w =
    if w ∈ vs ∧ s.vectorMasked w = false then false else s.host.msixPend.get false w := by
  induction vs generalizing s with
  | nil => simp [State.sendPending]
  | cons v vs ih =>
    rw [sendPending_cons, ih, (Told.pendingSent s v).vectorMasked, pendingSent_pend]
    by_cases own : w = v
    · subst own
      by_cases unmasked : s.vectorMasked w = false <;> simp [unmasked]
    · simp [own]

/-- R186: what was pending on an unmasked vector is asked. -/
theorem sendPending_asks {vs : List Nat} {s : State} {w : Nat} (there : w ∈ vs) (pends : s.host.msixPend.get false w = true)
    (unmasked : s.vectorMasked w = false) : (s.sendPending vs).Asked (.msix w) := by
  induction vs generalizing s with
  | nil => cases there
  | cons v vs ih =>
    rw [sendPending_cons]
    by_cases own : w = v
    · subst own
      refine (Told.sendPending vs _).asked ?_
      rw [pendingSent_asks pends unmasked]
      exact sendHost_asked _ _
    · refine ih ((List.mem_cons.mp there).resolve_left own) ?_ ?_
      · rw [pendingSent_pend, if_neg (fun h => own h.1), pends]
      · rw [(Told.pendingSent s v).vectorMasked, unmasked]

/-! ### MSIX_UNMASK (R186) -/

/-- The table with one vector unmasked. -/
def unmasked (s : State) (v : Nat) : State := { s with host := { s.host with
  msix := s.host.msix.set MsixEntry.reset v { s.host.msix.get MsixEntry.reset v with mask := false } } }

/-- The function unmasked, with MSI-X enabled. -/
def functionUnmasked (s : State) : State := { s with host := { s.host with msixFnMask := false, msixEnable := true } }

section

variable {s : State}

theorem exec_msixUnmask_vector (runs : s.functionRuns = true) (v : Fin 128) :
    exec (.msixUnmask (some v)) s = done s (pendingSent (unmasked s v.val) v.val) := congrArg (done s) (if_pos runs)

theorem exec_msixUnmask_function (runs : s.functionRuns = true) :
    exec (.msixUnmask none) s = done s ((functionUnmasked s).sendPending (List.range 128)) := congrArg (done s) (if_pos runs)

theorem unmasked_masked (v : Nat) : (unmasked s v).vectorMasked v = (s.host.msixFnMask || !s.host.msixEnable) := by
  simp [State.vectorMasked, unmasked]

theorem functionUnmasked_masked (v : Nat) :
    (functionUnmasked s).vectorMasked v = (s.host.msix.get MsixEntry.reset v).mask := rfl

variable {v : Nat}

theorem pendingSent_unmasks (s : State) (v : Nat) :
    ((pendingSent (unmasked s v) v).host.msix.get MsixEntry.reset v).mask = false := by
  have table : (pendingSent (unmasked s v) v).host.msix = (unmasked s v).host.msix :=
    (congrArg HostSide.msix (Told.pendingSent (unmasked s v) v).rest :)
  rw [table]
  simp [unmasked]

/-- A vector that was masked by its entry alone sends what is pending on it. -/
theorem pendingSent_unmasked (fn : s.host.msixFnMask = false) (on : s.host.msixEnable = true)
    (pends : s.host.msixPend.get false v = true) :
    (pendingSent (unmasked s v) v).host.msixPend.get false v = false ∧ (pendingSent (unmasked s v) v).Asked (.msix v) ∧
      (s.mayRequest = true → s.host.held = [] → (pendingSent (unmasked s v) v).outbox = s.outbox ++ [.msix v]) := by
  have free : (unmasked s v).vectorMasked v = false := by simp [unmasked_masked, fn, on]
  refine ⟨?_, ?_, fun may none => ?_⟩
  · rw [pendingSent_pend, if_pos ⟨rfl, free⟩]
  · rw [pendingSent_asks (s := unmasked s v) pends free]
    exact sendHost_asked _ _
  · rw [pendingSent_asks (s := unmasked s v) pends free, sendHost_sends (s := unpended (unmasked s v) v) may none]
    rfl

theorem pendingSent_unmasked_keeps (h : s.host.msixFnMask = true ∨ s.host.msixEnable = false ∨ s.host.msixPend.get false v = false) :
    pendingSent (unmasked s v) v = unmasked s v := by
  refine pendingSent_keeps ?_
  rw [unmasked_masked]
  rcases h with h | h | h
  · simp [h]
  · simp [h]
  · exact .inl h

end

theorem interruptsHold : InterruptsHold := by
  refine ⟨fun s q hr enabled timed due => ?timer, fun s q hr idle => ?idle, fun s v runs => ?vector, fun s runs => ?function,
    fun s v off => congrArg (done s) (if_neg (by simp [off]))⟩
  case timer =>
    rw [exec_cqIrqTimer hr q enabled timed due]
    exact ⟨_, rfl, ((Told.fireVector (covered s q.val) q.val).cq q.val).trans (cq_setCq s q.val _),
      fireVector_pends (s := covered s q.val), fireVector_sends (s := covered s q.val)⟩
  case idle =>
    refine (whenReady_of_isReady hr _).trans (congrArg (done s) (if_neg ?_))
    rcases idle with h | h | h <;> simp [h]
  case vector =>
    rw [exec_msixUnmask_vector runs]
    exact ⟨_, rfl, pendingSent_unmasks s v.val, fun fn on pends => pendingSent_unmasked fn on pends, fun keeps => by
      rw [pendingSent_unmasked_keeps keeps]
      exact ⟨rfl, rfl⟩⟩
  case function =>
    rw [exec_msixUnmask_function runs]
    have all : ∀ v, v < 128 → v ∈ List.range 128 := fun v => List.mem_range.mpr
    generalize List.range 128 = vs at all ⊢
    have told := (Told.sendPending vs (functionUnmasked s)).rest
    have pend := sendPending_pend vs (functionUnmasked s)
    have asks := fun {w} => sendPending_asks (vs := vs) (s := functionUnmasked s) (w := w)
    simp only [functionUnmasked_masked] at pend asks
    refine ⟨_, rfl, (congrArg HostSide.msixFnMask told :), (congrArg HostSide.msixEnable told :), (congrArg HostSide.msix told :),
      fun v hv pends => ⟨fun open_ => ⟨(pend v).trans (if_pos ⟨all v hv, open_⟩), asks (all v hv) pends open_⟩, fun masked => ?_⟩⟩
    exact (pend v).trans ((if_neg (by simp [masked])).trans pends)

/-- Settles O23: each size register is written by one rule, whose cases are those of the statement; of the vectors gone through, those
unmasked and pending are sent. -/
theorem queuesAndInterrupts : Obligations.QueuesAndInterrupts := ⟨queueEnablesHold, interruptsHold⟩

end Sys2Proof.Proofs

/-! ## SIGNAL and WAIT

Ops that issue, change a semaphore or wait for one, and close (R203 to R205). -/

namespace Sys2Proof.Proofs

open Sys2Proof Sys2Proof.Machine Sys2Proof.Laws

/-! ### An op in the window -/

/-- An op put in the place of one in the window is found there. -/
theorem op_setOp {s : State} {id : Nat} {o x : Op} (found : s.op id = some o) (same : x.id = id) : (s.setOp x).op id = some x := by
  have ids : (fun y : Op => (if y.id = x.id then x else y).id == id) = fun y => y.id == id := by
    funext y
    split
    next e => rw [e]
    next => rfl
  simp only [State.op, State.setOp, List.find?_map, Function.comp_def, ids]
  rw [show s.seq.window.find? (fun y => y.id == id) = some o from found, Option.map_some, if_pos (by rw [same, op_ident found])]

section

variable (s : State) (o : Op)

/-- Issuing an op touches the window, and ends the time of a BRANCH whose target it is (R171). -/
theorem issue_frame : ∃ v b, s.issue o =
    (({ s with vec := v, seq := { s.seq with branches := b } } : State).setOp (s.issued o), s.issued o) := by
  unfold State.issue State.branchTarget
  dsimp only
  split
  · exact ⟨s.vec, s.seq.branches, rfl⟩
  · exact ⟨_, _, rfl⟩

theorem issue_issued : (s.issue o).2 = s.issued o := rfl

@[simp] theorem issue_mem : (s.issue o).1.mem = s.mem := by obtain ⟨v, b, e⟩ := issue_frame s o; rw [e]; rfl
@[simp] theorem issue_sems : (s.issue o).1.seq.sems = s.seq.sems := by obtain ⟨v, b, e⟩ := issue_frame s o; rw [e]; rfl
@[simp] theorem issue_program (n : Nat) : (s.issue o).1.program n = s.program n := by
  obtain ⟨v, b, e⟩ := issue_frame s o; rw [e]; rfl

variable {s o}

theorem issue_op {id : Nat} {x : Op} (found : s.op id = some x) (same : o.id = id) : (s.issue o).1.op id = some (s.issued o) := by
  obtain ⟨v, b, e⟩ := issue_frame s o
  rw [e]
  exact op_setOp (s := { s with vec := v, seq := { s.seq with branches := b } }) found same

/-- The other ops of the window stay as they are. -/
theorem issue_others {x : Op} (there : x ∈ (s.issue o).1.seq.window) (other : x.id ≠ o.id) : x ∈ s.seq.window := by
  obtain ⟨v, b, e⟩ := issue_frame s o
  rw [e] at there
  obtain ⟨y, hy, put⟩ := List.mem_map.mp there
  split at put
  next => exact absurd (congrArg Op.id put).symm other
  next => exact put ▸ hy

end

/-! ### A closed op -/

section

variable {s : State} {o : Op} (status : Nat) (d : Option Word)

/-- Of a closed op, the semaphores know nothing, and what is left of the window was there before. -/
theorem closeOp_seq (s : State) (o : Op) : (s.closeOp o status d).seq.sems = s.seq.sems ∧
    ∀ x ∈ (s.closeOp o status d).seq.window, x ∈ s.seq.window ∧ x.id ≠ o.id := by
  have counted := (endCounted_aside s o status).seq
  rw [closeOp_eq]
  generalize endCounted s o status = u at counted ⊢
  obtain ⟨ps, left⟩ := leftNoted_frame u o status d
  obtain ⟨cs, w, q, m, dropped⟩ := dropUnissued_frame (leftNoted u o status d) o.ring
  split
  · obtain ⟨h, x, ps', settled⟩ := settleProgram_frame ((leftNoted u o status d).dropUnissued o.ring) o.ring
    rw [settled, dropped, left, ← counted]
    exact ⟨rfl, fun x hx => by simpa using List.mem_of_mem_filter hx⟩
  · obtain ⟨h, x, ps', settled⟩ := settleProgram_frame (leftNoted u o status d) o.ring
    rw [settled, left, ← counted]
    exact ⟨rfl, fun x hx => by simpa using hx⟩

@[simp] theorem closeOp_sem (s : State) (o : Op) (i : Nat) : (s.closeOp o status d).sem i = s.sem i := by
  rw [State.sem, (closeOp_seq status d s o).1, State.sem]

/-- Once the last WAIT that watches has closed, none does. -/
theorem closeOp_unwatched (others : ∀ x ∈ s.seq.window, x.id ≠ o.id → x.kind = opWait → x.phase ≠ .issued) :
    (s.closeOp o status d).Unwatched := by
  intro x hx
  obtain ⟨there, other⟩ := (closeOp_seq status d s o).2 x hx
  exact others x there other

/-- R58, R198: an op closed with a good status is gone, and its program goes on. -/
theorem closeOp_closed (s : State) (o : Op) {status : Nat} : s.Closed (s.closeOp o status none) o status :=
  ⟨closeOp_gone _ _ _ _, fun _ found goes good => closeOp_noted none found goes good⟩

end

/-! ### What acts for an op -/

section

variable {s t : State} {op kind : Nat} {o : Op}

theorem acting_found (found : s.op op = some o) : s.acting op = { s with actor := some (op, o.tag) } := by
  rw [State.acting, found]

theorem free_acting (h : s.Free op kind o) : (s.acting op).Free op kind o := by
  rw [acting_found h.found]
  exact ⟨h.ready, h.found, h.ident, h.kind, h.free⟩

theorem closed_acting {st : Nat} (found : s.op op = some o) (h : (s.acting op).Closed t o st) : s.Closed t o st := by
  rw [acting_found found] at h
  exact ⟨h.gone, h.noted⟩

end

/-! ### An op that issues and closes at once -/

section

variable {s : State} {o : Op} (st : Nat) (d : Option Word)

/-- Where no WAIT watched, none does once another op has issued and closed. -/
theorem issue_closeOp_unwatched (alone : s.Unwatched) : ((s.issue o).1.closeOp (s.issued o) st d).Unwatched :=
  closeOp_unwatched st d fun _ there other => alone _ (issue_others there other)

/-- R58, R198: an op that issues and closes with a good status is gone, and its program goes on. -/
theorem issue_closeOp_closed (s : State) (o : Op) {st : Nat} : s.Closed ((s.issue o).1.closeOp (s.issued o) st none) o st := by
  obtain ⟨gone, noted⟩ := closeOp_closed (s.issue o).1 (s.issued o) (status := st)
  exact ⟨gone, fun p found => noted p (by rw [issue_program]; exact found)⟩

end

/-- A frame to a tray peer moves no memory. -/
@[simp] theorem yeSend_mem (s : State) (m typ addr len tag : Nat) (payload : List Byte) (op : Option Nat) :
    (s.yeSend m typ addr len tag payload op).mem = s.mem := by
  unfold State.yeSend State.yeEmit
  dsimp only
  split
  · split <;> rfl
  · rfl

/-! ### SIGNAL (R204) -/

section

variable {s : State} {op : Nat} {o : Op}

/-- The value a SIGNAL gives its semaphore. -/
def signalled (s : State) (o : Op) : BitVec 32 :=
  if o.signalSets then BitVec.ofNat 32 (o.w 0x18) else s.sem o.semIndex + BitVec.ofNat 32 (o.w 0x18)

/-- A local SIGNAL closes, and sets its semaphore. -/
theorem signal_own (h : s.Free op opSignal o) (good : s.signalBad o = false) (own : o.signalMember = 7) (bare : o.resultAddr = 0) :
    signal op s = some (((s.issue o).1.closeOp (s.issued o) 0 none).setSem o.semIndex (signalled (s.issue o).1 o)) := by
  have bare' : (s.issued o).resultAddr = 0 := bare
  simp only [signal, h.found, h.kind, h.free, good, own, issue_issued, State.finishOp, finishTelling_bare bare', bne_self_eq_false,
    Bool.not_true, Bool.or_self, Bool.false_eq_true, if_false, if_true]
  rfl

/-- A SIGNAL to a tray member begins, and sends its SEM_ADD frame. -/
theorem signal_sends (h : s.Free op opSignal o) (good : s.signalBad o = false) (away : o.signalMember ≠ 7)
    (alive : s.pairDead o.signalMember = false) :
    signal op s = some (((s.issue o).1.setOp { s.issued o with begun := true }).yeSend o.signalMember 6 o.semIndex 4 0
      (leBytes 4 (BitVec.ofNat 32 (o.w 0x18)).toNat) (some op)) := by
  simp only [signal, h.found, h.kind, h.free, good, away, alive, issue_issued, bne_self_eq_false, Bool.not_true, Bool.or_self,
    Bool.false_eq_true, if_false]

/-- R203, R204: a local SIGNAL sets its semaphore, and no other. -/
theorem signal_sets (h : s.Free op opSignal o) (good : s.signalBad o = false) (own : o.signalMember = 7) (bare : o.resultAddr = 0)
    (alone : s.Unwatched) : ∃ t, signal op s = some t ∧ s.Closed t o 0 ∧ t.mem = s.mem ∧ t.sem o.semIndex = signalled s o ∧
      ∀ i, i ≠ o.semIndex → t.sem i = s.sem i := by
  have same (i : Nat) : (s.issue o).1.sem i = s.sem i := by rw [State.sem, issue_sems, State.sem]
  have value : signalled (s.issue o).1 o = signalled s o := by rw [signalled, same, signalled]
  obtain ⟨gone, noted⟩ := issue_closeOp_closed s o (st := 0)
  rw [signal_own h good own bare, setSem_unwatched (issue_closeOp_unwatched 0 none alone)]
  refine ⟨_, rfl, ⟨gone, noted⟩, ?_, ?_, ?_⟩
  · exact (closeOp_keeps _ _ _ _).1.trans (issue_mem s o)
  · rw [sem_withSem_same, value]
  · exact fun i other => by rw [sem_withSem_other _ _ other, closeOp_sem, same]

theorem signal_begins (h : s.Free op opSignal o) (good : s.signalBad o = false) (away : o.signalMember ≠ 7)
    (alive : s.pairDead o.signalMember = false) : ∃ t, signal op s = some t ∧ t.op op = some { s.issued o with begun := true } ∧
      t.seq.sems = s.seq.sems ∧ t.mem = s.mem := by
  have sent := fun x : State => (Accessed.yeSend x o.signalMember 6 o.semIndex 4 0 (leBytes 4 (BitVec.ofNat 32 (o.w 0x18)).toNat)
    (some op)).seq
  refine ⟨_, signal_sends h good away alive, ?_, ?_, ?_⟩
  · rw [State.op, sent]
    exact op_setOp (issue_op h.found h.ident) h.ident
  · rw [sent]
    exact issue_sems s o
  · rw [yeSend_mem]
    exact issue_mem s o

/-- A SIGNAL to a tray member that cannot be reached is gone, and has touched no semaphore and no memory. -/
theorem signal_dead (h : s.Free op opSignal o) (good : s.signalBad o = false) (away : o.signalMember ≠ 7)
    (dead : s.pairDead o.signalMember = true) (bare : o.resultAddr = 0) :
    ∃ t, signal op s = some t ∧ t.op op = none ∧ t.seq.sems = s.seq.sems ∧ t.mem = s.mem := by
  have bare' : (s.issued o).resultAddr = 0 := bare
  have closes : signal op s = some ((s.issue o).1.closeOp (s.issued o) 0x42 none) := by
    simp only [signal, h.found, h.kind, h.free, good, away, dead, issue_issued, State.finishOp, finishTelling_bare bare',
      bne_self_eq_false, Bool.not_true, Bool.or_self, Bool.false_eq_true, if_false, if_true]
  exact ⟨_, closes, h.ident ▸ closeOp_gone _ _ _ _, ((closeOp_seq _ _ _ _).1).trans (issue_sems s o),
    ((closeOp_keeps _ _ _ _).1).trans (issue_mem s o)⟩

end

/-! ### WAIT (R205) -/

section

variable {s : State} {id : Nat} {o : Op}

/-- A WAIT taken from its semaphore: what it consumes is gone. -/
def consumed (s : State) (o : Op) : State := if o.consumes then withSem s o.semIndex (s.sem o.semIndex - o.waitTarget) else s

/-- What a consuming WAIT leaves of the state is all but one semaphore. -/
theorem consumed_frame (s : State) (o : Op) : ∃ q, consumed s o = { s with seq := { s.seq with sems := q } } := by
  unfold consumed
  split
  exacts [⟨_, rfl⟩, ⟨s.seq.sems, rfl⟩]

theorem consumed_own (s : State) (o : Op) :
    (consumed s o).sem o.semIndex = if o.consumes then s.sem o.semIndex - o.waitTarget else s.sem o.semIndex := by
  unfold consumed
  split
  exacts [sem_withSem_same _ _ _, rfl]

theorem consumed_other (s : State) (o : Op) {i : Nat} (other : i ≠ o.semIndex) : (consumed s o).sem i = s.sem i := by
  unfold consumed
  split
  exacts [sem_withSem_other _ _ other, rfl]

section

variable (found : s.op id = some o) (kind : o.kind = opWait) (issued : o.phase = .issued)

include found kind issued in
theorem takeWait_holds (met : o.condHolds (s.sem o.semIndex) = true) (bare : o.resultAddr = 0) :
    s.takeWait id = some ((consumed s o).closeOp o 0 none, o) := by
  simp only [State.takeWait, found, kind, issued, met, State.finishOp, finishTelling_bare bare, and_self, if_true, Option.map_some]
  rfl

include found in
theorem takeWait_stays (unmet : o.condHolds (s.sem o.semIndex) = false) : s.takeWait id = none := by
  simp [State.takeWait, found, unmet]

include found kind issued in
/-- A WAIT whose condition holds closes, and no other is left to test. -/
theorem testWait_holds (met : o.condHolds (s.sem o.semIndex) = true) (bare : o.resultAddr = 0)
    (alone : o.consumes = true → ((consumed s o).closeOp o 0 none).Unwatched) :
    s.testWait id = (consumed s o).closeOp o 0 none := by
  have rest : (if o.consumes then ((consumed s o).closeOp o 0 none).waitsOn o.semIndex else []) = [] := by
    split
    next takes => exact waitsOn_unwatched (alone takes) _
    next => rfl
  rw [State.testWait, State.testWaits, List.length_singleton, Nat.add_comm, State.testRuns, takeWait_holds found kind issued met bare]
  dsimp only
  rw [rest, testRuns_nil]

include found in
theorem testWait_stays (unmet : o.condHolds (s.sem o.semIndex) = false) : s.testWait id = s := by
  rw [State.testWait, State.testWaits, List.length_singleton, Nat.add_comm, State.testRuns, takeWait_stays found unmet]
  exact testRuns_nil _ s

end

/-- A WAIT as it stands in the window, numbered in the order of the issues. -/
def numbered (s : State) (o : Op) : Op := { o with sum := s.nextId }

/-- A WAIT free to start issues and tests its condition. -/
theorem wait_tests (h : s.Free id opWait o) (good : waitBad o = false) :
    wait id s = some ((s.fresh.2.issue (numbered s o)).1.testWait id) := by
  have taken : o.phase ≠ .issued := by
    intro issued
    have free := h.free
    simp [State.opFree, issued] at free
  simp [wait, h.found, h.kind, h.free, good, taken, numbered, State.fresh]

/-- R205: a WAIT whose condition holds closes at once, and its semaphore holds what it leaves. -/
theorem wait_holds (h : s.Free id opWait o) (good : waitBad o = false) (met : o.condHolds (s.sem o.semIndex) = true)
    (bare : o.resultAddr = 0) (alone : o.consumes = true → s.Unwatched) :
    ∃ t, wait id s = some t ∧ s.Closed t o 0 ∧ t.mem = s.mem ∧
      t.sem o.semIndex = (if o.consumes then s.sem o.semIndex - o.waitTarget else s.sem o.semIndex) ∧
      ∀ i, i ≠ o.semIndex → t.sem i = s.sem i := by
  have there : (s.fresh.2.issue (numbered s o)).1.op id = some (s.fresh.2.issued (numbered s o)) :=
    issue_op (s := s.fresh.2) h.found h.ident
  have same (i : Nat) : (s.fresh.2.issue (numbered s o)).1.sem i = s.sem i := by rw [State.sem, issue_sems]; rfl
  have memory : (s.fresh.2.issue (numbered s o)).1.mem = s.mem := issue_mem _ _
  have programs : (s.fresh.2.issue (numbered s o)).1.program o.ring = s.program o.ring := issue_program _ _ _
  have others : ∀ x ∈ (s.fresh.2.issue (numbered s o)).1.seq.window, x.id ≠ o.id → x ∈ s.seq.window := fun x hx other =>
    issue_others (s := s.fresh.2) hx other
  rw [wait_tests h good]
  generalize (s.fresh.2.issue (numbered s o)).1 = u at there same memory programs others ⊢
  generalize waits : s.fresh.2.issued (numbered s o) = w at there
  have sems : w.semIndex = o.semIndex := by rw [← waits]; rfl
  have takes : w.consumes = o.consumes := by rw [← waits]; rfl
  have target : w.waitTarget = o.waitTarget := by rw [← waits]; rfl
  have ident : w.id = o.id := by rw [← waits]; rfl
  have of_ring : w.ring = o.ring := by rw [← waits]; rfl
  have note (p : Program) : p.note w 0 none = p.note o 0 none := by rw [← waits]; rfl
  obtain ⟨q, left⟩ := consumed_frame u w
  have closes : u.testWait id = (consumed u w).closeOp w 0 none := by
    refine testWait_holds there (by rw [← waits]; exact h.kind) (by rw [← waits]; rfl) ?_ (by rw [← waits]; exact bare) fun eats => ?_
    · rw [sems, same, ← waits]
      exact met
    · refine closeOp_unwatched 0 none fun x hx other => alone (takes ▸ eats) x (others x ?_ (ident ▸ other))
      rw [left] at hx
      exact hx
  refine ⟨_, rfl, ?_⟩
  rw [closes]
  refine ⟨⟨ident ▸ closeOp_gone _ _ _ _, fun p found goes _ => ?_⟩, ?_, ?_, ?_⟩
  · have found' : (consumed u w).program w.ring = some p := by rw [left, of_ring]; exact programs.trans found
    rw [← of_ring, closeOp_noted none found' goes (by decide), note]
  · rw [(closeOp_keeps _ _ _ _).1, left]
    exact memory
  · rw [closeOp_sem, ← sems, consumed_own, takes, target, sems, same]
  · exact fun i other => by rw [closeOp_sem, consumed_other _ _ (sems ▸ other), same]

/-- R205: any other WAIT stays issued. -/
theorem wait_stays (h : s.Free id opWait o) (good : waitBad o = false) (unmet : o.condHolds (s.sem o.semIndex) = false) :
    ∃ t o', wait id s = some t ∧ t.op id = some o' ∧ o'.phase = .issued ∧ o'.desc = o.desc ∧ t.seq.sems = s.seq.sems ∧
      t.mem = s.mem := by
  have there : (s.fresh.2.issue (numbered s o)).1.op id = some (s.fresh.2.issued (numbered s o)) :=
    issue_op (s := s.fresh.2) h.found h.ident
  have same : (s.fresh.2.issue (numbered s o)).1.sem o.semIndex = s.sem o.semIndex := by rw [State.sem, issue_sems]; rfl
  refine ⟨_, s.fresh.2.issued (numbered s o), wait_tests h good, ?_⟩
  rw [testWait_stays there (by rw [← unmet, ← same]; rfl)]
  exact ⟨there, rfl, rfl, issue_sems _ _, issue_mem _ _⟩

/-- R205: a WAIT out of time is gone, and has touched no semaphore and no memory. -/
theorem waitTimeout_closes (found : s.op id = some o) (kind : o.kind = opWait) (issued : o.phase = .issued) (limited : o.waitLimitUs ≠ 0)
    (unmet : o.condHolds (s.sem o.semIndex) = false) (bare : o.resultAddr = 0) :
    ∃ t, waitTimeout id s = some t ∧ t.op id = none ∧ t.seq.sems = s.seq.sems ∧ t.mem = s.mem := by
  have closes : waitTimeout id s = some (s.closeOp o 0x40 none) := by
    simp [waitTimeout, found, kind, issued, limited, unmet, State.finishOp, finishTelling_bare bare]
  exact ⟨_, closes, op_ident found ▸ closeOp_gone _ _ _ _, (closeOp_seq _ _ _ _).1, (closeOp_keeps _ _ _ _).1⟩

/-- A WAIT whose condition holds does not run out of time. -/
theorem waitTimeout_met (found : s.op id = some o) (met : o.condHolds (s.sem o.semIndex) = true) : waitTimeout id s = none := by
  simp [waitTimeout, found, met]

end

/-- An op's event that has nothing to do leaves the module as it is. -/
theorem whenOp_none {s : State} {op : Nat} {f : State → Option State} (hr : s.isReady = true) (h : f (s.acting op) = none) :
    whenOp s op f = .next s := by
  rw [whenOp, if_pos hr, h]
  rfl

/-- Settles O47: a SIGNAL and a WAIT act on the state their op acts in, which differs from the module in its actor alone. -/
theorem signalsAndWaits : Obligations.SignalsAndWaits := by
  unfold Obligations.SignalsAndWaits
  refine ⟨fun s op o h good own bare alone => ?_, fun s op o h good away alive => ?_, fun s op o h good away dead bare => ?_,
    fun s op o h good met bare alone => ?_, fun s op o h good unmet => ?_, fun s op o ready found ident kind issued limited unmet bare => ?_,
    fun s op o ready found met => ?_⟩
  · have acts := acting_found h.found
    obtain ⟨t, does, closed, mem, own, others⟩ := signal_sets (free_acting h) (by rw [acts]; exact good) own bare (by rw [acts]; exact alone)
    obtain ⟨gone, noted⟩ := closed_acting h.found closed
    rw [acts] at mem own others
    exact ⟨_, whenOp_some h.ready does, ⟨gone, noted⟩, mem, own, others⟩
  · have acts := acting_found h.found
    obtain ⟨t, does, begun, sems, mem⟩ := signal_begins (free_acting h) (by rw [acts]; exact good) away (by rw [acts]; exact alive)
    rw [acts] at begun sems mem
    exact ⟨_, whenOp_some h.ready does, begun, sems, mem⟩
  · have acts := acting_found h.found
    obtain ⟨t, does, gone, sems, mem⟩ := signal_dead (free_acting h) (by rw [acts]; exact good) away (by rw [acts]; exact dead) bare
    rw [acts] at sems mem
    exact ⟨_, whenOp_some h.ready does, gone, sems, mem⟩
  · have acts := acting_found h.found
    obtain ⟨t, does, closed, mem, own, others⟩ := wait_holds (free_acting h) good (by rw [acts]; exact met) bare (by rw [acts]; exact alone)
    obtain ⟨gone, noted⟩ := closed_acting h.found closed
    rw [acts] at mem own others
    exact ⟨_, whenOp_some h.ready does, ⟨gone, noted⟩, mem, own, others⟩
  · have acts := acting_found h.found
    obtain ⟨t, o', does, stays, phase, desc, sems, mem⟩ := wait_stays (free_acting h) good (by rw [acts]; exact unmet)
    rw [acts] at sems mem
    exact ⟨_, o', whenOp_some h.ready does, stays, phase, desc, sems, mem⟩
  · have acts := acting_found found
    obtain ⟨t, does, gone, sems, mem⟩ := waitTimeout_closes (s := s.acting op) (id := op) (by rw [acts]; exact found) kind issued limited
      (by rw [acts]; exact unmet) bare
    rw [acts] at sems mem
    exact ⟨_, whenOp_some ready does, gone, sems, mem⟩
  · exact whenOp_none ready (waitTimeout_met (by rw [acting_found found]; exact found) (by rw [acting_found found]; exact met))

end Sys2Proof.Proofs

/-! ## FENCE, OP_PROGRAM, OP_TAKE and DMA_COPY

Commands that complete once they have started, the lists they start, and the copies that ask something of the host (R198 to R228). -/

namespace Sys2Proof.Proofs

open Sys2Proof Sys2Proof.Machine Sys2Proof.Laws

/-! ### What starting, asking and completing leave alone -/

section

variable (s : State) (n id t status d : Nat) (hd : Bool) (o : Output)

@[simp] theorem markStarted_plate : (s.markStarted n id t).plate = s.plate := by obtain ⟨h, l, e⟩ := markStarted_rest s n id t; rw [e]
@[simp] theorem markStarted_dma : (s.markStarted n id t).host.dma = s.host.dma := by
  unfold State.markStarted
  dsimp only
  split <;> rfl
@[simp] theorem markStarted_openNum : (s.markStarted n id t).openNum = s.openNum := by
  simp [State.openNum, State.openStep]

@[simp] theorem complete_seq : (s.complete n id status hd d).seq = s.seq := by
  obtain ⟨h, x, e⟩ := complete_frame s n id status hd d; rw [e]

@[simp] theorem sendHost_mem : (s.sendHost o).mem = s.mem := by unfold State.sendHost; split <;> rfl
@[simp] theorem sendHost_dma : (s.sendHost o).host.dma = s.host.dma := by unfold State.sendHost; split <;> rfl

end

/-! ### What has been asked of the host, and the copies in flight, while a command completes -/

theorem Told.dma {s t : State} (h : Told s t) : t.host.dma = s.host.dma := (congrArg HostSide.dma h.rest :)

/-- A record is sent, its queue counts it, and its interrupt may follow. -/
theorem writeRecord_told (s : State) (q ring seq : Nat) (tag : List Byte) (status : Nat) (hd : Bool) (d f : Nat) (i : Bool) :
    ∃ x c, Told { s.send x with host := { s.host with cqs := c } } (s.writeRecord q ring seq tag status hd d f i) := by
  unfold State.writeRecord
  dsimp only
  split
  exacts [⟨_, _, .fireVector _ _⟩, ⟨_, _, .refl _⟩]

section

variable (s : State) (n id status : Nat) (hd : Bool) (d : Nat)

@[simp] theorem complete_dma : (s.complete n id status hd d).host.dma = s.host.dma := by
  unfold State.complete
  dsimp only
  split
  · rfl
  · split
    · obtain ⟨x, c, told⟩ := writeRecord_told (s.setRing n _) _ _ _ _ _ _ _ _ _
      exact told.dma
    · rfl

/-- What has been asked stays asked while a command completes. -/
theorem complete_asked {s : State} {o : Output} (asked : s.Asked o) : (s.complete n id status hd d).Asked o := by
  unfold State.complete
  dsimp only
  split
  · exact asked
  · split
    · obtain ⟨x, c, told⟩ := writeRecord_told (s.setRing n _) _ _ _ _ _ _ _ _ _
      exact told.asked (asked.imp (List.mem_append_left _) fun held => held)
    · exact asked.imp (fun sent => sent) (List.mem_append_left _)

end

/-- A copy that went well ends: it is no longer in flight, and its command completes. -/
theorem endDma_good (s : State) (r : DmaRun) (hd : Bool) (d : Nat) : s.endDma r 0 hd d =
    ({ s with host := { s.host with dma := s.host.dma.filter (fun x => x.cmd != r.cmd) } } : State).complete r.ring r.cmd 0 hd d := by
  have well (x : State) : x.stepStatus r.step 0 = x := by unfold State.stepStatus; split <;> rfl
  rw [State.endDma, well]

/-! ### FENCE and OP_PROGRAM (R198, R201) -/

section

variable {s : State} {ring : Fin 64} {c : FetchedCmd}

/-- A command that does nothing but complete leaves memory and the sequencer as they are. -/
theorem completes_only {typ status d : Nat} {hd : Bool} {f : State → Option State} (due : s.Due ring.val typ c)
    (ends : f s = some ((s.markStarted ring.val c.id typ).complete ring.val c.id status hd d)) :
    ∃ t, whenReadyOr s f = .next t ∧ s.Finished t ring.val c status hd d ∧ t.mem = s.mem ∧ t.seq = s.seq := by
  obtain ⟨record, gone⟩ := started_finished due.found (u := s.markStarted ring.val c.id typ) rfl (by simp) (by simp) status hd d
  exact ⟨_, whenReadyOr_some due.ready ends, ⟨record, gone⟩, by simp, by simp⟩

/-- R201: a FENCE that may start completes. -/
theorem fence_completes (due : s.Due ring.val cmdFence c) (header : c.headerBad = false) (rest : c.restBad 0x18 = false) :
    fence ring s = some ((s.markStarted ring.val c.id cmdFence).complete ring.val c.id 0 false 0) := by
  simp [fence, startCmd_due due, header, rest]

/-- R198: an OP_PROGRAM that passes its checks starts its program. -/
theorem opProgram_starts (due : s.Due ring.val cmdOpProgram c) (header : c.headerBad = false) (rest : c.restBad 0x18 = false)
    (dev : devBad (c.w 0x10) = false) (virt : bit (c.w 0x10) 63 = true) (aligned : c.w 0x10 % 128 = 0)
    (unfailed : s.stepFailed = false) : ∃ t, opProgram ring s = some t ∧ t.mem = s.mem ∧ t.seq.window = s.seq.window ∧
      t.seq.programs = s.seq.programs ++ [s.newProgram ring.val c.id (c.w 0x10 % 2 ^ 48)] := by
  have latched : (s.markStarted ring.val c.id cmdOpProgram).newProgram ring.val c.id (c.w 0x10 % 2 ^ 48) =
      s.newProgram ring.val c.id (c.w 0x10 % 2 ^ 48) := by
    simp only [State.newProgram, markStarted_mem, markStarted_plate, markStarted_numerics]
  have starts : opProgram ring s = some { s.markStarted ring.val c.id cmdOpProgram with seq := { s.seq with
      programs := s.seq.programs ++ [s.newProgram ring.val c.id (c.w 0x10 % 2 ^ 48)]
      branches := s.seq.branches.set none ring.val none } } := by
    simp only [opProgram, startCmd_due due, header, rest, dev, virt, aligned, markStarted_stepFailed, unfailed, latched, markStarted_seq]
    rfl
  exact ⟨_, starts, markStarted_mem _ _ _ _, rfl, rfl⟩

/-- R5: an OP_PROGRAM outside its fields' encodings completes with BAD_DESCRIPTOR. -/
theorem opProgram_refuses (due : s.Due ring.val cmdOpProgram c)
    (bad : (c.headerBad || devBad (c.w 0x10) || !bit (c.w 0x10) 63 || c.w 0x10 % 128 != 0 || c.restBad 0x18) = true) :
    opProgram ring s = some ((s.markStarted ring.val c.id cmdOpProgram).complete ring.val c.id 0x20 false 0) := by
  simp only [opProgram, startCmd_due due, if_pos bad]
  rfl

end

/-! ### OP_TAKE (R436) -/

/-- The next descriptor of the program whose turn it is enters the window, and its program goes on. -/
theorem opTake_takes {s s0 s1 : State} {ring : Fin 64} {p : Program} {a : Nat} {bs : List Byte}
    (program : s.program ring.val = some p) (pnext : p.next = some a) (running : p.stopped = false) (room : s.seq.window.length < 16)
    (draws : s.drawsFrom ring.val = true)
    (read : ({ s with actor := some (p.cmd, 0) } : State).readVirt p.root allowOps a 128 = (s0, .ok bs))
    (hidden : s0.meetHidden 7 a = (s1, false)) (lo : field bs 0 1 ≠ 0) (hi : field bs 0 1 ≤ 8)
    (checked : field bs 0 1 = opMatmul → ∀ o : Op, o.desc = bs → matTakeCheck o p.check = 0) :
    opTake ring s = some (withTaken s1 p (takenOp s1.nextId ring.val a bs)) := by
  have clean : takeChecks p (takenOp s1.nextId ring.val a bs) = 0 := by
    unfold takeChecks
    split
    next matmul => exact checked matmul _ rfl
    next => rfl
  have kinds : ¬ (field bs 0 1 = 0 ∨ 8 < field bs 0 1) := by omega
  have draw : ¬ (p.stopped || decide (16 ≤ s.seq.window.length) || !s.drawsFrom ring.val) = true := by
    simp [running, draws, room]
  unfold opTake
  simp only [program, pnext, read, hidden, if_neg draw, if_neg kinds, Bool.false_eq_true, if_false]
  exact if_pos clean

/-! ### DMA_COPY (R223 to R228) -/

section

variable {s s1 : State} {ring : Fin 64} {c : FetchedCmd} {bs : List Byte}

/-- The copy of a command as it starts. -/
def startedCopy (s : State) (ring : Nat) (c : FetchedCmd) : DmaRun :=
  { ring := ring, cmd := c.id, root := s.mem.ptRoot, got := [], step := s.openNum }

section

variable (due : s.Due ring.val cmdDmaCopy c) (steady : s.proof.boundary = none) (good : dmaBad c = false)
  (range : (s.markStarted ring.val c.id cmdDmaCopy).dmaRange (dmaDesc c) = .ok ())

include due steady good range

/-- R225, R228: a copy to the host writes its bytes there as its mode shuffles them, and ends. -/
theorem dmaCopy_writes (out : (dmaDesc c).toHost = true)
    (read : (s.markStarted ring.val c.id cmdDmaCopy).readDev s.mem.ptRoot allowOwn (dmaDesc c).dev (dmaDesc c).len = (s1, .ok bs)) :
    ∃ t, dmaCopy ring s = some t ∧ t.Asked (.hostWrite (dmaDesc c).host ((dmaDesc c).shuffled bs) true) ∧ t.mem = s1.mem := by
  have ends : dmaCopy ring s = some ((s1.sendHost (.hostWrite (dmaDesc c).host ((dmaDesc c).shuffled bs) true)).endDma
      (startedCopy s ring.val c) 0 false (dmaDesc c).outLen) := by
    simp only [dmaCopy, steady, startCmd_due due, good, range, out, read, markStarted_mem, markStarted_openNum]
    rfl
  rw [endDma_good] at ends
  refine ⟨_, ends, complete_asked _ _ _ _ _ ?_, ?_⟩
  · exact sendHost_asked s1 _
  · rw [complete_mem]
    exact sendHost_mem s1 _

/-- R223: a copy from the host asks for its bytes. -/
theorem dmaCopy_reads (inward : (dmaDesc c).toHost = false) :
    ∃ t, dmaCopy ring s = some t ∧ t.Asked (.hostRead (dmaDesc c).host (dmaDesc c).len) ∧ t.mem = s.mem ∧
      t.host.dma = s.host.dma ++ [startedCopy s ring.val c] := by
  have asks : dmaCopy ring s = some (({ s.markStarted ring.val c.id cmdDmaCopy with host :=
      { (s.markStarted ring.val c.id cmdDmaCopy).host with dma := s.host.dma ++ [startedCopy s ring.val c] } } : State).sendHost
      (.hostRead (dmaDesc c).host (dmaDesc c).len)) := by
    simp only [dmaCopy, steady, startCmd_due due, good, range, inward, markStarted_mem, markStarted_openNum, markStarted_dma]
    rfl
  refine ⟨_, asks, sendHost_asked _ _, ?_, sendHost_dma _ _⟩
  rw [sendHost_mem]
  exact markStarted_mem _ _ _ _

end

variable {r : DmaRun} (flies : s.host.dma.find? (fun (x : DmaRun) => x.ring == ring.val) = some r)
  (found : (s.ring r.ring).cmd r.cmd = some c)

include flies found

/-- R225: once all its bytes have come, a copy from the host writes them and is no longer in flight. -/
theorem hostReadCompletion_writes (before : r.got.length ≤ (dmaDesc c).len) (all : (dmaDesc c).len ≤ r.got.length + bs.length)
    (write : s.writePieces r.root (dmaDesc c).dev [(0, (dmaDesc c).shuffled ((r.got ++ bs).take (dmaDesc c).len))] = (s1, .ok ())) :
    ∃ t, hostReadCompletion ring (.data bs) s = some t ∧ t.mem = s1.mem ∧ ∀ x ∈ t.host.dma, x.cmd ≠ r.cmd := by
  have got : r.got ++ bs.take ((dmaDesc c).len - r.got.length) = (r.got ++ bs).take (dmaDesc c).len := by
    rw [List.take_append, List.take_of_length_le before]
  have whole : ¬ ((r.got ++ bs).take (dmaDesc c).len).length < (dmaDesc c).len := by
    rw [List.length_take, List.length_append]
    omega
  have ends : hostReadCompletion ring (.data bs) s = some (s1.endDma r 0 false (dmaDesc c).outLen) := by
    simp only [hostReadCompletion, flies, found, got, if_neg whole, write]
  rw [endDma_good] at ends
  refine ⟨_, ends, complete_mem _ _ _ _ _ _, fun x hx => ?_⟩
  rw [complete_dma] at hx
  simpa using List.of_mem_filter hx

/-- Until then they are kept. -/
theorem hostReadCompletion_keeps (part : r.got.length + bs.length < (dmaDesc c).len) :
    hostReadCompletion ring (.data bs) s = some { s with host := { s.host with
      dma := s.host.dma.map (fun x => if x.cmd = r.cmd then { r with got := r.got ++ bs } else x) } } := by
  have taken : bs.take ((dmaDesc c).len - r.got.length) = bs := List.take_of_length_le (by omega)
  have more : (r.got ++ bs).length < (dmaDesc c).len := by rwa [List.length_append]
  simp only [hostReadCompletion, flies, found, taken, if_pos more]

end

/-- Settles O51: each command acts on the module in which it has just started, and what it has asked of the host outlives its record. -/
theorem ringCommands : Obligations.RingCommands := by
  unfold Obligations.RingCommands
  refine ⟨fun s ring c due header rest => completes_only due (fence_completes due header rest),
    fun s ring c due header rest dev virt aligned unfailed => ?_,
    fun s ring c due bad => completes_only due (opProgram_refuses due bad),
    fun s s0 s1 ring p a bs ready program pnext running room draws read hidden arrived lo hi checked => ?_,
    fun s s1 ring c bs due steady good out range read => ?_, fun s ring c due steady good inward range => ?_,
    fun s s1 ring r c bs ready flies found before all write => ?_, fun s ring r c bs ready flies found part => ?_⟩
  · obtain ⟨t, starts, mem, window, programs⟩ := opProgram_starts due header rest dev virt aligned unfailed
    exact ⟨_, whenReadyOr_some due.ready starts, mem, window, programs⟩
  · have takes := opTake_takes program pnext running room draws read hidden lo hi checked
    have own : p.ring = ring.val := program_ring program
    exact ⟨_, takenOp s1.nextId ring.val a bs, whenPeersAnswer_some ready takes arrived, rfl, rfl, rfl, rfl, rfl, rfl, rfl,
      fun still => program_setProgram still _ own⟩
  · obtain ⟨t, writes, asked, mem⟩ := dmaCopy_writes due steady good range out read
    exact ⟨_, whenReadyOr_some due.ready writes, asked, mem⟩
  · obtain ⟨t, asks, asked, mem, dma⟩ := dmaCopy_reads due steady good range inward
    exact ⟨_, whenReadyOr_some due.ready asks, asked, mem, dma⟩
  · obtain ⟨t, writes, mem, gone⟩ := hostReadCompletion_writes flies found before all write
    exact ⟨_, whenReadyOr_some ready writes, mem, gone⟩
  · exact whenReadyOr_some ready (hostReadCompletion_keeps flies found part)

end Sys2Proof.Proofs

/-! ## FLR and conventional reset

What evacuating a module leaves of its lifecycle, what it leaves of a quiet module, and the reset of the queue pairs (R183, R401). -/

namespace Sys2Proof.Proofs

open Sys2Proof Sys2Proof.Machine Sys2Proof.Laws

/-! ### Evacuation keeps the lifecycle (R345) -/

theorem Steady.nptQueue (s : State) (node kind : Nat) (h : NptHeader) (bytes : List Byte) (op : Option Nat) :
    Steady s (s.nptQueue node kind h bytes op) := by
  unfold State.nptQueue
  dsimp only
  split
  · exact .trans .of_eq (.putChunk _ _)
  · exact .andThen .of_eq _ (.sendHello _ _ _)

theorem Steady.sendVerdict (s : State) (r : StepRec) (to_ cause lowest : Nat) : Steady s (s.sendVerdict r to_ cause lowest) := by
  unfold State.sendVerdict
  split
  exacts [.refl s, .nptQueue _ _ _ _ _ _]

theorem Steady.sendVerdicts (r : StepRec) (cause lowest : Nat) (qs : List Nat) (s : State) :
    Steady s (s.sendVerdicts r cause lowest qs) := by
  induction qs generalizing s with
  | nil => exact .refl s
  | cons q qs ih => exact (Steady.sendVerdict s r q cause lowest).trans (ih _)

theorem Steady.evacVerdict (s : State) (r : StepRec) : Steady s (s.evacVerdict r) := by
  unfold State.evacVerdict
  dsimp only
  generalize (if r.closed then r else _) = x
  split
  exacts [.sendVerdicts _ _ _ _ _, .sendVerdict _ _ _ _ _]

theorem Steady.evacVerdicts (rs : List StepRec) (s : State) : Steady s (s.evacVerdicts rs) := by
  induction rs generalizing s with
  | nil => exact .refl s
  | cons r rs ih =>
    refine .trans ?_ (ih _)
    split
    exacts [.refl s, .evacVerdict s r]

theorem Steady.evacuateNow (s : State) : Steady s s.evacuateNow := by
  have aborted := (Steady.abortWork s).trans (.abortProof _)
  have told := aborted.trans (.evacVerdicts s.abortWork.abortProof.proof.steps _)
  unfold State.evacuateNow
  dsimp only
  generalize s.abortWork.abortProof.evacVerdicts _ = u at told ⊢
  exact told.trans (.trans .of_eq (.switchIfIdle _))

/-! ### Evacuating a quiet module -/

section

variable {s : State}

/-- Nothing scheduled, cleared, is as it was. -/
theorem plate_unscheduled {p : Plate} (columns : p.scheduled = []) (lanes : p.lanesScheduled = []) (cores : p.coresScheduled = []) :
    { p with scheduled := [], lanesScheduled := [], coresScheduled := [] } = p := by
  obtain ⟨⟩ := p
  cases columns
  cases lanes
  cases cores
  rfl

/-- Where no switch is scheduled, none is made. -/
theorem switchSpares_none (columns : s.plate.scheduled = []) (lanes : s.plate.lanesScheduled = []) (cores : s.plate.coresScheduled = []) :
    s.switchSpares = s := by
  simp only [State.switchSpares, columns, State.switchColumns, lanes, cores, List.map_nil, List.append_nil, State.spareEvents]
  rw [plate_unscheduled columns lanes cores]

/-- Where nothing is in flight and no step is open, an evacuation ends the chains, the chunks that came early, and what is kept for
proofs. -/
theorem evacuateNow_of_quiet (quiet : s.Quiet) : ∃ p, s.evacuateNow = { s with
    numerics := { s.numerics with chains := [] }, net := { s.net with early := [] }, proof := p } := by
  have aborted : s.abortWork.abortProof = { s with proof := { s.proof with repair := none } } := by
    rw [abortWork_of_quiet quiet, abortProof_of_quiet quiet]
  unfold State.evacuateNow
  simp only [aborted, quiet.steps, State.evacVerdicts, State.switchIfIdle, List.isEmpty_nil, if_true]
  exact ⟨_, switchSpares_none quiet.columns quiet.lanes quiet.cores⟩

end

/-! ### Queue pairs (R261) -/

section

variable (s : State)

/-- Writing to a context is an access to memory. (The equations are between functions: of their values the kernel would compare what
the writes make of memory.) -/
theorem writeQpState_eq : State.writeQpState = fun s k st => (s.writePhys allowHbm (s.contextAddr k + 6) (leBytes 1 st)).1 := rfl

theorem writeLastPsn_eq : State.writeLastPsn = fun s k => (s.writePhys allowHbm (s.contextAddr k + 24)
    (leBytes 3 (((s.qp k).unacked.map (fun (u : Nat × Nat × List Byte) => firstPsn u.1 u.2.2.length)).headD (s.qp k).psn) ++
      leBytes 1 0)).1 := rfl

theorem resetQp_eq : State.resetQp = fun s k => ((s.writeLastPsn k).writeQpState k 0).setQp k QP.reset := rfl

theorem resetQp_of (k : Nat) : s.resetQp k = ((s.writeLastPsn k).writeQpState k 0).setQp k QP.reset := by
  rw [resetQp_eq]

theorem writeLastPsn_accessed (k : Nat) : Accessed s (s.writeLastPsn k) := by
  rw [writeLastPsn_eq]
  exact .writePhys _ _ _ _

theorem writeQpState_accessed (k st : Nat) : Accessed s (s.writeQpState k st) := by
  rw [writeQpState_eq]
  exact .writePhys _ _ _ _

/-- A queue pair in RESET is no longer kept. -/
theorem setQp_reset {s u : State} (accessed : Accessed s u) (k : Nat) : (u.setQp k QP.reset).life = s.life ∧
    (u.setQp k QP.reset).net.qps = SMap.drop s.net.qps k := by
  have qps : u.net.qps = s.net.qps := (congrArg Net.qps accessed.net :)
  have set : (u.setQp k QP.reset).net.qps = SMap.set u.net.qps QP.reset k QP.reset := rfl
  exact ⟨accessed.life, by rw [set, SMap.set, if_pos rfl, qps]⟩

theorem resetQp_frame (k : Nat) : (s.resetQp k).life = s.life ∧ (s.resetQp k).net.qps = SMap.drop s.net.qps k := by
  rw [resetQp_of]
  exact setQp_reset ((writeLastPsn_accessed s k).trans (writeQpState_accessed _ k 0)) k

/-- Queue pairs taken to RESET are no longer kept. -/
theorem resetQp_each (ks : List Nat) : (ks.foldl (fun (x : State) k => x.resetQp k) s).life = s.life ∧
    (ks.foldl (fun (x : State) k => x.resetQp k) s).net.qps = s.net.qps.filter (fun p => !ks.contains p.1) := by
  induction ks generalizing s with
  | nil => exact ⟨rfl, by simp⟩
  | cons k ks ih =>
    obtain ⟨life, qps⟩ := ih (s.resetQp k)
    obtain ⟨first, dropped⟩ := resetQp_frame s k
    refine ⟨life.trans first, qps.trans ?_⟩
    rw [dropped, SMap.drop, List.filter_filter]
    refine List.filter_congr fun p _ => ?_
    rw [List.contains_cons, Bool.not_or, Bool.and_comm]
    rfl

/-- R261: every queue pair goes to RESET. -/
theorem resetQps_none : s.resetQps.net.qps = [] := by
  refine (resetQp_each s _).2.trans (List.filter_eq_nil_iff.mpr fun p there => ?_)
  simpa using ⟨p.2, there⟩

theorem resetQps_life : s.resetQps.life = s.life := (resetQp_each s _).1

/-- Where none is in use, none is reset. -/
theorem resetQps_of_none {s : State} (none : s.net.qps = []) : s.resetQps = s := by
  rw [State.resetQps, none]
  rfl

end

/-! ### The function's reset (R183) -/

/-- The module without the commands of its rings, which leave no records. -/
def muted (s : State) : State :=
  { s with host := { s.host with rings := s.host.rings.map (fun p => (p.1, { p.2 with cmds := [] })) } }

/-- The module after a reset of its function that evacuated it to `u`. -/
def functionCleared (u : State) : State :=
  { u with host := { HostSide.reset with buffer := u.host.buffer, droppedNew := u.host.droppedNew }, pcie := { u.pcie with d3hot := false } }

theorem functionReset_eq (s : State) : s.functionReset = functionCleared (muted s).evacuateNow.resetQps := by
  unfold State.functionReset functionCleared muted
  dsimp only

section

variable (s : State)

/-- R183: a reset of the function returns the RINGS block to its reset values, the events in the buffer apart, and every queue pair to
RESET, and keeps the lifecycle. -/
theorem functionReset_clears : (∃ b n, s.functionReset.host = { HostSide.reset with buffer := b, droppedNew := n }) ∧
    s.functionReset.pcie.d3hot = false ∧ s.functionReset.net.qps = [] ∧ s.functionReset.life = s.life := by
  have qps := resetQps_none (muted s).evacuateNow
  have life : (muted s).evacuateNow.resetQps.life = s.life := (resetQps_life _).trans (Steady.evacuateNow (muted s)).life
  rw [functionReset_eq]
  generalize (muted s).evacuateNow.resetQps = u at qps life
  exact ⟨⟨_, _, rfl⟩, rfl, qps, life⟩

variable {s}

/-- R183: of a module with nothing to abort, only the RINGS block, the chains, the chunks that came early, what is kept for proofs, and
D3hot change. -/
theorem functionReset_of_quiet (quiet : s.Quiet) (none : s.net.qps = []) : ∃ p, s.functionReset = { s with
    host := { HostSide.reset with buffer := s.host.buffer, droppedNew := s.host.droppedNew }, numerics := { s.numerics with chains := [] }
    net := { s.net with early := [] }, proof := p, pcie := { s.pcie with d3hot := false } } := by
  obtain ⟨window, programs, dma, snaps, ckpt, boundary, restore, steps, columns, lanes, cores⟩ := quiet
  obtain ⟨p, evacuated⟩ := evacuateNow_of_quiet (s := muted s)
    ⟨window, programs, dma, snaps, ckpt, boundary, restore, steps, columns, lanes, cores⟩
  have kept : (muted s).evacuateNow.net.qps = [] := by rw [evacuated]; exact none
  refine ⟨p, ?_⟩
  rw [functionReset_eq, resetQps_of_none kept, evacuated]
  rfl

end

/-! ### READY once more (R222, R405) -/

section

variable (s : State)

theorem readyEvent_frame : ∃ h x b, s.readyEvent = { s with host := h, outbox := x, fw := { s.fw with bound := b } } := by
  obtain ⟨h, x, b, e, -⟩ := raise_frame s 10 1 s.currentStep 0 0 (leBytes 8 s.clock.time)
  exact ⟨h, x, b, e⟩

variable {s}

/-- What the host's queue does not take stays in the buffer. -/
theorem drainEvents_disabled (off : s.host.eqEnable = false) (fuel : Nat) : (State.drainEvents fuel s).host.buffer = s.host.buffer := by
  cases fuel with
  | zero => rfl
  | succ k =>
    simp only [State.drainEvents, off, Bool.false_and, Bool.false_eq_true, if_false]
    split <;> rfl

/-- Where the event queue is disabled, READY joins the events the buffer holds. -/
theorem readyEvent_buffered (off : s.host.eqEnable = false) (room : s.host.buffer.length < 256) :
    ∃ e, s.readyEvent.host.buffer = s.host.buffer ++ [e] ∧ e.kind = 10 ∧ e.code = 1 := by
  have events (e : EventRec) : (s.buffer e).host.buffer = s.host.buffer ++ [e] := by
    rw [State.buffer, if_pos room]
    exact drainEvents_disabled (s := { s with host := { s.host with buffer := s.host.buffer ++ [e] } }) off drainFuel
  exact ⟨_, events _, rfl, rfl⟩

end

/-! ### The conventional reset (R401, R405) -/

/-- The module with its PCIe link down, its keys gone, and the session over DOE ended. -/
def unlinked (s : State) : State := { s with
  pcie := { s.pcie with linkUp := false, cfgReady := false, ide := .off, ideKeyRx := 0, ideKeyTx := 0, loopActive := false, follower := false }
  fw := { s.fw with spdmDoe := Spdm.reset } }

section

variable {s : State}

/-- At READY a conventional reset resets the function, and raises READY. -/
theorem conventional_ready (ready : s.isReady = true) : pcieConventionalReset s = (unlinked s.functionReset).readyEvent := by
  obtain ⟨-, -, -, life⟩ := functionReset_clears s
  simp only [pcieConventionalReset, ready, if_true]
  generalize s.functionReset = u at life ⊢
  have still : (unlinked u).isReady = true := ready ▸ congrArg (fun l : Life => l.phase == .ready) life
  exact if_pos still

/-- Elsewhere it takes the link alone. -/
theorem conventional_waiting (waiting : s.isReady = false) :
    pcieConventionalReset s = unlinked { s with pcie := { s.pcie with d3hot := false } } := by
  simp only [pcieConventionalReset, waiting, Bool.false_eq_true, if_false]
  exact if_neg (by rw [← Bool.not_eq_true] at waiting; exact waiting)

/-- R405: a conventional reset takes the link, its keys and D3hot, and keeps the lifecycle. -/
theorem conventional_unlinks (s : State) : (pcieConventionalReset s).pcie.linkUp = false ∧ (pcieConventionalReset s).pcie.cfgReady = false ∧
    (pcieConventionalReset s).pcie.ide = .off ∧ (pcieConventionalReset s).pcie.ideKeyRx = 0 ∧ (pcieConventionalReset s).pcie.ideKeyTx = 0 ∧
    (pcieConventionalReset s).pcie.d3hot = false ∧ (pcieConventionalReset s).fw.spdmDoe = Spdm.reset ∧
    (pcieConventionalReset s).life = s.life := by
  cases ready : s.isReady with
  | true =>
    obtain ⟨-, d0, -, life⟩ := functionReset_clears s
    rw [conventional_ready ready]
    generalize s.functionReset = u at d0 life
    obtain ⟨h, x, b, e⟩ := readyEvent_frame (unlinked u)
    rw [e]
    exact ⟨rfl, rfl, rfl, rfl, rfl, d0, rfl, life⟩
  | false =>
    rw [conventional_waiting ready]
    exact ⟨rfl, rfl, rfl, rfl, rfl, rfl, rfl, rfl⟩

/-- R401: at READY it clears the rings, the queues and the vectors, and resets every queue pair. -/
theorem conventional_clears (ready : s.isReady = true) : (pcieConventionalReset s).host.rings = [] ∧
    (pcieConventionalReset s).host.cqs = [] ∧ (pcieConventionalReset s).host.msix = [] ∧
    (pcieConventionalReset s).host.eqEnable = false ∧ (pcieConventionalReset s).net.qps = [] := by
  obtain ⟨⟨b, n, host⟩, -, qps, -⟩ := functionReset_clears s
  rw [conventional_ready ready]
  generalize s.functionReset = u at host qps
  have told := (Told.raise (unlinked u) 10 1 (unlinked u).currentStep 0 0 (leBytes 8 (unlinked u).clock.time)).rest
  have host' : (unlinked u).host = { HostSide.reset with buffer := b, droppedNew := n } := host
  obtain ⟨h, x, c, e⟩ := readyEvent_frame (unlinked u)
  have same {α : Type} (f : HostSide → α) (g : ∀ y : HostSide, f { y with
      held := (unlinked u).host.held, msixPend := (unlinked u).host.msixPend, buffer := (unlinked u).host.buffer
      dropped := (unlinked u).host.dropped, droppedNew := (unlinked u).host.droppedNew, eqWritten := (unlinked u).host.eqWritten } = f y) :
      f (unlinked u).readyEvent.host = f { HostSide.reset with buffer := b, droppedNew := n } :=
    (g _).symm.trans ((congrArg f told).trans (congrArg f host'))
  refine ⟨same HostSide.rings fun _ => rfl, same HostSide.cqs fun _ => rfl, same HostSide.msix fun _ => rfl,
    same HostSide.eqEnable fun _ => rfl, ?_⟩
  rw [e]
  exact qps

/-- R401: of a quiet module, memory, the plate and the power stand, and READY joins the events of the buffer. -/
theorem conventional_of_quiet (ready : s.isReady = true) (quiet : s.Quiet) (none : s.net.qps = []) (room : s.host.buffer.length < 256) :
    ∃ e, (pcieConventionalReset s).mem = s.mem ∧ (pcieConventionalReset s).plate = s.plate ∧ (pcieConventionalReset s).power = s.power ∧
      (pcieConventionalReset s).host.buffer = s.host.buffer ++ [e] ∧ e.kind = 10 ∧ e.code = 1 := by
  obtain ⟨p, reset⟩ := functionReset_of_quiet quiet none
  rw [conventional_ready ready]
  generalize s.functionReset = u at reset
  obtain ⟨e, told, kind, code⟩ := readyEvent_buffered (s := unlinked u) (by rw [reset]; rfl) (by rw [reset]; exact room)
  obtain ⟨h, x, b, frame⟩ := readyEvent_frame (unlinked u)
  refine ⟨e, ?_, ?_, ?_, told.trans (by rw [reset]; rfl), kind, code⟩ <;> rw [frame, reset] <;> rfl

end

section

variable {s : State}

/-- A reset of a function that runs happens, and one of a function that does not has no effect. -/
theorem onlyIf_runs {f : State → State} (runs : s.functionRuns = true) : done s (s.onlyIf s.functionRuns f) = done s (f s) := by
  rw [runs]
  rfl

theorem onlyIf_stands {f : State → State} (stands : s.functionRuns = false) : done s (s.onlyIf s.functionRuns f) = .next s := by
  rw [stands]
  rfl

theorem exec_flr (runs : s.functionRuns = true) : exec .flr s = done s s.functionReset := onlyIf_runs runs

theorem exec_conventional (runs : s.functionRuns = true) : exec .pcieConventionalReset s = done s (pcieConventionalReset s) :=
  onlyIf_runs runs

theorem functionRuns_of_ready (ready : s.isReady = true) : s.functionRuns = true := by
  have phase : s.life.phase = .ready := by simpa [State.isReady] using ready
  rw [State.functionRuns, phase]

/-- The same lifecycle is as ready. -/
theorem isReady_of_life {t : State} (life : t.life = s.life) : t.isReady = s.isReady := by
  rw [State.isReady, life, State.isReady]

end

/-- Settles O11: a reset of the function is an evacuation without records, whose lifecycle stands, and what `HostSide.reset` leaves. -/
theorem functionResets : Obligations.FunctionResets := by
  unfold Obligations.FunctionResets
  refine ⟨fun s runs => ?_, fun s runs quiet none => ?_, fun s runs => ?_, fun s ready => ?_, fun s ready quiet none room => ?_,
    fun s runs waiting => ?_, fun s stands => ⟨onlyIf_stands stands, onlyIf_stands stands⟩⟩
  · obtain ⟨host, d0, qps, life⟩ := functionReset_clears s
    rw [exec_flr runs]
    generalize s.functionReset = u at host d0 qps life
    exact ⟨_, rfl, host, d0, qps, isReady_of_life life⟩
  · obtain ⟨p, reset⟩ := functionReset_of_quiet quiet none
    rw [exec_flr runs, reset]
    exact ⟨_, rfl, rfl, rfl, rfl, rfl, rfl, rfl, rfl, rfl, rfl, rfl, rfl⟩
  · obtain ⟨link, cfg, ide, rx, tx, d0, doe, life⟩ := conventional_unlinks s
    rw [exec_conventional runs]
    generalize pcieConventionalReset s = u at link cfg ide rx tx d0 doe life
    exact ⟨_, rfl, link, cfg, ide, rx, tx, d0, doe, isReady_of_life life⟩
  · obtain ⟨rings, cqs, msix, queue, qps⟩ := conventional_clears ready
    rw [exec_conventional (functionRuns_of_ready ready)]
    generalize pcieConventionalReset s = u at rings cqs msix queue qps
    exact ⟨_, rfl, rings, cqs, msix, queue, qps⟩
  · obtain ⟨e, mem, plate, power, buffer, kind, code⟩ := conventional_of_quiet ready quiet none room
    rw [exec_conventional (functionRuns_of_ready ready)]
    generalize pcieConventionalReset s = u at mem plate power buffer
    exact ⟨_, e, rfl, mem, plate, power, buffer, kind, code⟩
  · rw [exec_conventional runs, conventional_waiting waiting]
    exact ⟨_, rfl, rfl, rfl⟩

end Sys2Proof.Proofs
